-- ==== Sys2Proof/Word.lean ====
section
/-!
DEFINITION. The words of the device: bytes, 32-bit registers, device addresses and device time.
-/

namespace Sys2Proof

/-- A byte of memory or of a serial line. -/
abbrev Byte := BitVec 8

/-- A 32-bit register word (R533). -/
abbrev Word := BitVec 32

/-- DT64, device time in units of 2^-32 s (chapter 02, Time formats). -/
abbrev DT := BitVec 64

/-- An agent identifier (R12); the values 0 and those no unit bears are never sent by a unit. -/
abbrev Agent := Fin 128

end Sys2Proof
end

