-- ==== Sys2Proof/Syntax.lean ====
section
/-!
DEFINITION. The commands of the block, with their operands.
-/

namespace Sys2Proof

/-- Interpolator counts since the last accepted crystal edge, at the moment of a command (R39). -/
structure Counts where
  ring : Nat
  ref : Nat
  deriving DecidableEq, Repr

/-- Completion status of a read sent to the host (R517): successful, poisoned (EP), or UR or CA. -/
inductive CplStatus where
  | ok | poisoned | refused | aborted | timeout
  deriving DecidableEq, Repr

/-- What the host answers to one read of its memory. -/
structure HostReply where
  status : CplStatus
  data : List Byte
  deriving DecidableEq, Repr

/-- How a device operation ends: its adapter status, the bytes it transferred, and whether data were left over. -/
structure DevResult where
  /-- Which of the operations outstanding, in byte order. -/
  idx : Nat
  status : Word
  bytes : Nat
  long : Bool
  data : List Byte
  deriving DecidableEq, Repr

/-- Target of a JMP or CALL (R330, major 0x12). -/
inductive CoreTarget where
  | direct (addr : BitVec 16)
  | pair (pn : Fin 16)
  deriving DecidableEq, Repr

/-- Count of a LOOP (R330, major 0x14). -/
inductive LoopCount where
  | imm (n : Fin 128)
  | pair (pn : Fin 16)
  deriving DecidableEq, Repr

/-- A word of interrupt sources: a core's private bank, or word `j` of the shared ones (R373). -/
inductive SrcBank where
  | priv (c : Fin 8)
  | shared (j : Fin 8)
  deriving DecidableEq, Repr

/-- One interrupt source: private source `i` of core `c`, or shared source `s` (R359). -/
inductive SrcName where
  | priv (c : Fin 8) (i : Fin 32)
  | shared (s : Fin 256)
  deriving DecidableEq, Repr

/-- A wheel lock or a global lock (R382, R386). -/
inductive LockName where
  | wheel (w : Fin 8) (k : Fin 16)
  | global (k : Fin 16)
  deriving DecidableEq, Repr

/-- What a hub response can meet (R400, R434, R461). -/
inductive HubErr where
  /-- Its access reaches port B of an exchange RAM in the step in which the store of the command before reached port A. -/
  | sameStep
  /-- A parity error on a lane of the die bridge. -/
  | bridge (lane : Fin 16)
  /-- An error in the 8-byte word at a device address. -/
  | memory (addr : BitVec 48) (uncorrectable : Bool)
  /-- A parity error in the storage of a unit's logic, by domain. -/
  | logic (dom : Fin 152) (storage : BitVec 16)
  /-- A protocol error at a port of the crossbar. -/
  | protocol (port : Fin 16) (detail : Word)
  deriving DecidableEq, Repr

/-- An arbiter (R426). -/
inductive ArbName where
  | hub (a : Fin 21)
  | wheel (w : Fin 8) (block : Fin 2)
  | lram (w : Fin 8) (c : Fin 8)
  deriving DecidableEq, Repr

/-- A function of the device's configuration space (R511); `absent` is another device number on the internal bus. -/
inductive CfgFn where
  | upstream
  | coprocessor
  | downstream (p : Fin 6)
  | absent
  deriving DecidableEq, Repr

/-- A request through the switch or from a device: a read of some bytes, or a write, poisoned or not. -/
inductive MemReq where
  | read (n : Nat)
  | write (data : List Byte) (ep : Bool)
  deriving DecidableEq, Repr

/-- What a request of a downstream device carries beside its address: its address type, and its requester's bus (R520). -/
structure PeerId where
  addrType : Fin 4
  bus : Byte
  deriving DecidableEq, Repr

/-- The error classes a port detects (R528). -/
inductive PcieError where
  | receiver | badTlp | badDllp | replayTimer | replayRollover
  | poisonedTlp | completionTimeout | completerAbort | unsupportedRequest | unexpectedCompletion
  | malformedTlp | receiverOverflow | acsViolation
  deriving DecidableEq, Repr

/-- What the board and the ROM's sources hold at a cold start (R487–R495): the level of TEST_EN, the fuse row whose parity
fails, the two flash copies (none: the flash does not answer), the level of XTAL32_BYP (R552), and whether the PMIC acknowledges
its address assignment (R219). -/
structure ColdBoard where
  testEn : Bool
  badRow : Option (BitVec 8)
  flashA : Option (List Byte)
  flashB : Option (List Byte)
  bypass : Bool
  pmicAck : Bool
  deriving DecidableEq, Repr

/-- The commands the block takes, one constructor for each row of the table of operations and events. -/
inductive Instr where
  -- chapter 02
  /-- CRYSTAL_EDGE (R39). -/
  | crystalEdge (c : Counts)
  /-- CRYSTAL_MISSING (R44). -/
  | crystalMissing (c : Counts)
  /-- SYNTHETIC_BOUNDARY (R46). -/
  | syntheticBoundary (c : Counts)
  /-- HOLDOVER_EXPIRY (R45). -/
  | holdoverExpiry (c : Counts)
  /-- READ_DT_LO (R39). -/
  | readDtLo (a : Agent) (c : Counts)
  /-- READ_HOST_OFS_LO (R3). -/
  | readHostOfsLo (a : Agent)
  /-- READ_WL_HEAD_LO (R51). -/
  | readWlHeadLo (a : Agent)
  /-- PTM_DIALOGUE_START (R48). -/
  | ptmDialogueStart
  /-- PTM_DIALOGUE_COMPLETE (R49). -/
  | ptmDialogueComplete (ns : BitVec 64) (d : DT) (rtt : DT)
  /-- PTM_VALID_LAPSE (R527). -/
  | ptmValidLapse
  /-- WAKE_LIST_EXPIRY (R52). -/
  | wakeListExpiry (c : Counts)
  /-- LEDGER_FOLD (R60). -/
  | ledgerFold
  /-- READ_TAG_LO (R3). -/
  | readTagLo (a : Agent)
  /-- READ_PKG_LO (R62). -/
  | readPkgLo (a : Agent)
  /-- SHUNT_SAMPLE (R65). -/
  | shuntSample (code : BitVec 12)
  /-- CALIBRATION_SECOND (R67). -/
  | calibrationSecond
  /-- GOVERNOR_TICK (R70). -/
  | governorTick
  -- chapters 03 and 04
  /-- START (R135). -/
  | start (a : Agent) (n : Fin 16) (sub : Fin 256)
  /-- RESUME (R135). -/
  | resume (a : Agent) (n : Fin 16) (sub : Fin 256)
  /-- HALT (R163). -/
  | halt (a : Agent) (n : Fin 16) (sub : Fin 256)
  /-- SUSPEND_REQ (R154). -/
  | suspendReq (a : Agent) (n : Fin 16) (sub : Fin 256)
  /-- CLEAR (R166). -/
  | clear (a : Agent) (n : Fin 16) (sub : Fin 256)
  /-- SCB_WINDOW_WRITE (R133). -/
  | scbWindowWrite (a : Agent) (n : Fin 16) (k : Fin 16) (v : Word)
  /-- SUBCHANNEL_DISPATCH (R140). -/
  | subchannelDispatch (n : Fin 16)
  /-- CCW_FETCH_COMPLETE (R145). -/
  | ccwFetchComplete (n : Fin 16) (host : Option HostReply)
  /-- TIC_IF (R104). -/
  | ticIf (n : Fin 16) (host : Option HostReply)
  /-- SKIP_IF (R101). -/
  | skipIf (n : Fin 16) (host : Option HostReply)
  /-- TIC (R100). -/
  | tic (n : Fin 16)
  /-- WAIT_UNTIL (R106). -/
  | waitUntil (n : Fin 16)
  /-- WAIT_EVENT (R107). -/
  | waitEvent (n : Fin 16)
  /-- WAIT_FOR (R106). -/
  | waitFor (n : Fin 16)
  /-- POST (R110). -/
  | post (n : Fin 16)
  /-- SIGNAL (R111). -/
  | signal (n : Fin 16)
  /-- STORE_TIME (R112). -/
  | storeTime (n : Fin 16)
  /-- MOVE (R113). -/
  | move (n : Fin 16)
  /-- DIGEST (R115). -/
  | digest (n : Fin 16)
  /-- CALL_SPOKE (R117). -/
  | callSpoke (n : Fin 16)
  /-- NOP (R119). -/
  | nop (n : Fin 16)
  /-- END (R120). -/
  | endProgram (n : Fin 16)
  /-- READ (R96). -/
  | read (n : Fin 16)
  /-- WRITE (R96). -/
  | write (n : Fin 16)
  /-- CONTROL (R96). -/
  | control (n : Fin 16)
  /-- SENSE (R96). -/
  | sense (n : Fin 16)
  /-- DEVICE_OPERATION_COMPLETE (R142). -/
  | deviceOperationComplete (n : Fin 16) (sub : Fin 256) (r : DevResult)
  /-- CCW_COMPLETE (R147). -/
  | ccwComplete (n : Fin 16)
  -- chapter 05
  /-- LEND (R184). -/
  | lend (a : Agent) (q : Fin 32)
  /-- REVOKE (R198). -/
  | revoke (a : Agent) (q : Fin 32)
  /-- NVME_CQ_SCAN (R194). -/
  | nvmeCqScan (q : Fin 32)
  /-- NVME_COMMAND_TIMEOUT (R196). -/
  | nvmeCommandTimeout (c : Counts) (q : Fin 32)
  /-- PCIEMEM_COMPLETION_TIMEOUT (R203). -/
  | pciememCompletionTimeout (n : Fin 16) (sub : Fin 256) (idx : Nat)
  /-- PORT_DATA_REQUEST (R178). -/
  | portDataRequest (n : Fin 16) (sub : Fin 256) (take : Fin 257) (data : List Byte)
  /-- UART_CHARACTER_RECEIVED (R208). -/
  | uartCharacterReceived (u : Fin 4) (b : Byte) (framing parity : Bool)
  /-- UART_BREAK (R214). -/
  | uartBreak (u : Fin 4)
  /-- UART_BREAK_END (R214). -/
  | uartBreakEnd (u : Fin 4)
  /-- UART_IDLE_GAP (R208). -/
  | uartIdleGap (u : Fin 4)
  /-- UART_PACKET_GAP (R280). -/
  | uartPacketGap (u : Fin 4)
  /-- SPI_TARGET_SELECT (R216). -/
  | spiTargetSelect (s_ : Fin 4)
  /-- SPI_TARGET_ITEM (R216). -/
  | spiTargetItem (s_ : Fin 4) (v : Word)
  /-- SPI_TARGET_DESELECT (R216). -/
  | spiTargetDeselect (s_ : Fin 4) (partialItem : Bool)
  /-- I3C_DAA (R217). -/
  | i3cDaa (a : Agent) (c : Fin 6) (acked : BitVec 11) (answers : Fin 12)
  /-- I3C_IBI (R218). -/
  | i3cIbi (c : Fin 6) (addr : BitVec 7) (payload : List Byte)
  /-- READ_I3C_IBI_HI (R218). -/
  | readI3cIbiHi (a : Agent) (c : Fin 6)
  /-- I3C_BUS_ERROR (R3). -/
  | i3cBusError (c : Fin 6)
  /-- GPIO_LEVEL_CHANGE (R220). -/
  | gpioLevelChange (k : Fin 32) (v : Bool)
  /-- GPIO_DEBOUNCE_EXPIRY (R220). -/
  | gpioDebounceExpiry (c : Counts) (k : Fin 32)
  /-- GPIO_OUT_SET (R221). -/
  | gpioOutSet (a : Agent) (v : Word)
  /-- GPIO_OUT_CLR (R221). -/
  | gpioOutClr (a : Agent) (v : Word)
  /-- EC_PRIVATE_READ (R251). -/
  | ecPrivateRead (n : Fin 34)
  /-- EC_PRIVATE_WRITE (R223). -/
  | ecPrivateWrite (bs : List Byte)
  /-- SETDASA (R222). -/
  | setdasa (addr : BitVec 7)
  /-- ENTDAA (R222). -/
  | entdaa (addr : BitVec 7)
  /-- RSTDAA (R222). -/
  | rstdaa
  /-- ENEC (R222). -/
  | enec (direct : Bool) (bits : Byte)
  /-- DISEC (R222). -/
  | disec (direct : Bool) (bits : Byte)
  /-- GETPID (R222). -/
  | getpid
  /-- GETBCR (R222). -/
  | getbcr
  /-- GETDCR (R222). -/
  | getdcr
  /-- GETMRL (R222). -/
  | getmrl
  /-- EC_UNSUPPORTED_CCC (R222). -/
  | ecUnsupportedCcc (code : Byte)
  /-- EC_IBI_RAISE (R251). -/
  | ecIbiRaise (ack : Bool)
  /-- CALL_SPOKE_TIMEOUT (R118). -/
  | callSpokeTimeout (c : Counts) (n : Fin 16) (sub : Fin 256)
  -- chapter 06
  /-- RING_ENABLE (R227). -/
  | ringEnable (a : Agent) (r : Fin 128) (v : Word)
  /-- RING_DISABLE (R228). -/
  | ringDisable (a : Agent) (r : Fin 128)
  /-- RING_CONSUMER_WRITE (R230). -/
  | ringConsumerWrite (a : Agent) (r : Fin 128) (v : Word)
  /-- MODERATION_TIME_EXPIRY (R235). -/
  | moderationTimeExpiry (c : Counts) (r : Fin 128)
  /-- MIRROR_BATCH (R236). -/
  | mirrorBatch (r : Fin 128)
  /-- MERR_CLEAR (R237). -/
  | merrClear (a : Agent) (j : Fin 4) (bits : Word)
  /-- HOST_ASLEEP (R238). -/
  | hostAsleep (a : Agent)
  /-- HOST_AWAKE (R240). -/
  | hostAwake (a : Agent)
  /-- MIRROR_FLUSH (R240). -/
  | mirrorFlush
  /-- NEXT_POLL_DECLARE (R243). -/
  | nextPollDeclare (a : Agent) (hi : Word)
  /-- NEXT_POLL_REACHED (R243). -/
  | nextPollReached (c : Counts)
  /-- POLL_PAGE_READ (R246). -/
  | pollPageRead (c : Counts) (o : BitVec 16) (n : Fin 33)
  -- chapter 07
  /-- MOVER_CHANNEL_ENABLE (R255). -/
  | moverChannelEnable (a : Agent) (k : Fin 128) (v : Word)
  /-- MOVER_CHANNEL_DISABLE (R255). -/
  | moverChannelDisable (a : Agent) (k : Fin 128)
  /-- MOVER_BRAKE_SET (R271). -/
  | moverBrakeSet (a : Agent) (k : Fin 128)
  /-- MOVER_BRAKE_RELEASE (R271). -/
  | moverBrakeRelease (a : Agent) (k : Fin 128)
  /-- MOVER_TAIL_WRITE (R256). -/
  | moverTailWrite (a : Agent) (k : Fin 128) (v : Word)
  /-- MOVER_RUN_START (R261). -/
  | moverRunStart (m : Fin 16)
  /-- MOVER_DESCRIPTOR_FETCH (R260). -/
  | moverDescriptorFetch (m : Fin 16)
  /-- MOVER_HALF_NOTICE (R270). -/
  | moverHalfNotice (m : Fin 16)
  /-- MOVER_DESCRIPTOR_COMPLETE (R259). -/
  | moverDescriptorComplete (m : Fin 16)
  -- chapter 08
  /-- FIFO_FLUSH (R287). -/
  | fifoFlush (a : Agent) (f : Fin 32)
  /-- FIFO_DROP (R288). -/
  | fifoDrop (a : Agent) (f : Fin 32)
  /-- FIFO_READ_STAGE (R284). -/
  | fifoReadStage (a : Agent) (f : Fin 32)
  /-- FIFO_ENABLE (R291). -/
  | fifoEnable (a : Agent) (f : Fin 32) (v : Word)
  /-- FIFO_DISABLE (R291). -/
  | fifoDisable (a : Agent) (f : Fin 32)
  -- chapter 09
  /-- TRANSFORM_STREAM_ALLOCATE (R297). -/
  | transformStreamAllocate
  /-- XDT_LOAD (R319). -/
  | xdtLoad (a : Agent)
  /-- XDT_STORE (R319). -/
  | xdtStore (a : Agent)
  /-- KSLOT_WRITE (R313). -/
  | kslotWrite (a : Agent) (k : Fin 64) (v : Word)
  /-- CADDY_WIPE (R409). -/
  | caddyWipe (a : Agent)
  /-- CADDY_WIPE_COMPLETE (R409). -/
  | caddyWipeComplete
  -- chapter 10
  /-- ADD (R330). -/
  | coreAdd (k : Fin 65) (rd rs : Fin 32)
  /-- ADDC (R330). -/
  | coreAddc (k : Fin 65) (rd rs : Fin 32)
  /-- SUB (R330). -/
  | coreSub (k : Fin 65) (rd rs : Fin 32)
  /-- SUBC (R330). -/
  | coreSubc (k : Fin 65) (rd rs : Fin 32)
  /-- AND (R330). -/
  | coreAnd (k : Fin 65) (rd rs : Fin 32)
  /-- OR (R330). -/
  | coreOr (k : Fin 65) (rd rs : Fin 32)
  /-- XOR (R330). -/
  | coreXor (k : Fin 65) (rd rs : Fin 32)
  /-- MOV (R330). -/
  | coreMov (k : Fin 65) (rd rs : Fin 32)
  /-- CMP (R330). -/
  | coreCmp (k : Fin 65) (rd rs : Fin 32)
  /-- CMPC (R330). -/
  | coreCmpc (k : Fin 65) (rd rs : Fin 32)
  /-- ADDI (R330). -/
  | coreAddi (k : Fin 65) (rd : Fin 32) (imm : Byte)
  /-- ADDCI (R330). -/
  | coreAddci (k : Fin 65) (rd : Fin 32) (imm : Byte)
  /-- SUBI (R330). -/
  | coreSubi (k : Fin 65) (rd : Fin 32) (imm : Byte)
  /-- SUBCI (R330). -/
  | coreSubci (k : Fin 65) (rd : Fin 32) (imm : Byte)
  /-- ANDI (R330). -/
  | coreAndi (k : Fin 65) (rd : Fin 32) (imm : Byte)
  /-- ORI (R330). -/
  | coreOri (k : Fin 65) (rd : Fin 32) (imm : Byte)
  /-- XORI (R330). -/
  | coreXori (k : Fin 65) (rd : Fin 32) (imm : Byte)
  /-- CMPI (R330). -/
  | coreCmpi (k : Fin 65) (rd : Fin 32) (imm : Byte)
  /-- MOVI (R330). -/
  | coreMovi (k : Fin 65) (rd : Fin 32) (imm : Byte)
  /-- ADDP (R330). -/
  | coreAddp (k : Fin 65) (pn : Fin 16) (imm : BitVec 7)
  /-- MOVIP (R330). -/
  | coreMovip (k : Fin 65) (pn : Fin 16) (imm : BitVec 16)
  /-- SHL (R330). -/
  | coreShl (k : Fin 65) (rd : Fin 32) (count : Fin 8)
  /-- SHR (R330). -/
  | coreShr (k : Fin 65) (rd : Fin 32) (count : Fin 8)
  /-- ASR (R330). -/
  | coreAsr (k : Fin 65) (rd : Fin 32) (count : Fin 8)
  /-- ROL (R330). -/
  | coreRol (k : Fin 65) (rd : Fin 32) (count : Fin 8)
  /-- ROR (R330). -/
  | coreRor (k : Fin 65) (rd : Fin 32) (count : Fin 8)
  /-- RCL (R330). -/
  | coreRcl (k : Fin 65) (rd : Fin 32) (count : Fin 8)
  /-- RCR (R330). -/
  | coreRcr (k : Fin 65) (rd : Fin 32) (count : Fin 8)
  /-- MUL (R330). -/
  | coreMul (k : Fin 65) (pn : Fin 16) (rs : Fin 32) (signed : Bool)
  /-- LDB (R334). -/
  | coreLdb (k : Fin 65) (rd : Fin 16) (base : Fin 4) (off : Fin 32)
  /-- STB (R330). -/
  | coreStb (k : Fin 65) (rd : Fin 16) (base : Fin 4) (off : Fin 32)
  /-- LDP (R334). -/
  | coreLdp (k : Fin 65) (pn : Fin 16) (base : Fin 4) (off : Fin 32)
  /-- STP (R330). -/
  | coreStp (k : Fin 65) (pn : Fin 16) (base : Fin 4) (off : Fin 32)
  /-- LDA (R334). -/
  | coreLda (k : Fin 65) (r : Fin 32) (pair : Bool) (addr : BitVec 16)
  /-- STA (R330). -/
  | coreSta (k : Fin 65) (r : Fin 32) (pair : Bool) (addr : BitVec 16)
  /-- BCC (R331). -/
  | coreBcc (k : Fin 65) (cond : Fin 16) (off : BitVec 8)
  /-- JMP (R333). -/
  | coreJmp (k : Fin 65) (target : CoreTarget)
  /-- CALL (R333). -/
  | coreCall (k : Fin 65) (target : CoreTarget)
  /-- RET (R333). -/
  | coreRet (k : Fin 65)
  /-- RETI (R351). -/
  | coreReti (k : Fin 65)
  /-- LOOP (R337). -/
  | coreLoop (k : Fin 65) (level : Fin 4) (count : LoopCount) (lend : BitVec 16)
  /-- LPOP (R339). -/
  | coreLpop (k : Fin 65)
  /-- EI (R350). -/
  | coreEi (k : Fin 65)
  /-- DI (R350). -/
  | coreDi (k : Fin 65)
  /-- WAIT (R352). -/
  | coreWait (k : Fin 65)
  /-- CORE_WAIT_WAKE (R352). -/
  | coreWaitWake (k : Fin 65)
  /-- BREAK (R347). -/
  | coreBreak (k : Fin 65)
  /-- TRAP (R347). -/
  | coreTrap (k : Fin 65) (code : Byte)
  /-- SYNC (R345). -/
  | coreSync (k : Fin 65)
  /-- CSRR (R320). -/
  | coreCsrr (k : Fin 65) (rd : Fin 32) (csr : Fin 64)
  /-- CSRW (R322). -/
  | coreCsrw (k : Fin 65) (rs : Fin 32) (csr : Fin 64)
  /-- CORE_PACER_ARM (R324). -/
  | corePacerArm (k : Fin 65) (rs : Fin 32)
  /-- CORE_PACER_CANCEL (R324). -/
  | corePacerCancel (k : Fin 65) (rs : Fin 32)
  /-- INTERRUPT_ENTRY (R349). -/
  | interruptEntry (k : Fin 65)
  /-- CORE_LOAD_DATA_RETURN (R335). -/
  | coreLoadDataReturn (k : Fin 65) (host : Option HostReply)
  /-- POSTED_STORE_ERROR (R346). -/
  | postedStoreError (k : Fin 65)
  /-- CORE_RESET_HOLD (R354). -/
  | coreResetHold (a : Agent) (k : Fin 64)
  /-- CORE_RESET_RELEASE (R355). -/
  | coreResetRelease (a : Agent) (k : Fin 64)
  /-- CORE_BOOT_COPY_COMPLETE (R355). -/
  | coreBootCopyComplete (k : Fin 64)
  /-- CORE_BTB_DISABLE (R342). -/
  | coreBtbDisable (a : Agent) (k : Fin 64)
  -- chapter 11
  /-- EVENT_ARRIVAL (R361). -/
  | eventArrival (e : Fin 1024)
  /-- WICU_CLAIM (R367). -/
  | wicuClaim (k : Fin 65)
  /-- WICU_COMPLETE (R368). -/
  | wicuComplete (k : Fin 65) (src n : Byte)
  /-- PEND_SET (R365). -/
  | pendSet (a : Agent) (w : Fin 8) (bank : SrcBank) (bits : Word)
  /-- PEND_CLR (R365). -/
  | pendClr (a : Agent) (w : Fin 8) (bank : SrcBank) (bits : Word)
  /-- MASK_SET (R366). -/
  | maskSet (a : Agent) (w : Fin 8) (bank : SrcBank) (bits : Word)
  /-- MASK_CLR (R366). -/
  | maskClr (a : Agent) (w : Fin 8) (bank : SrcBank) (bits : Word)
  /-- SRC_CFG_WRITE (R370). -/
  | srcCfgWrite (a : Agent) (w : Fin 8) (src : SrcName) (v : Word)
  /-- MAILBOX_POST (R376). -/
  | mailboxPost (a : Agent) (w : Fin 8) (m : Fin 16) (c : Fin 8)
  /-- RELEASE (R379). -/
  | release (a : Agent) (w : Fin 8) (m : Fin 16)
  /-- REPLY (R380). -/
  | reply (a : Agent) (w : Fin 8) (m : Fin 16)
  /-- LOCK_ACQUIRE_READ (R382). -/
  | lockAcquireRead (a : Agent) (lock : LockName)
  /-- LOCK_RELEASE (R383). -/
  | lockRelease (a : Agent) (lock : LockName) (v : Word)
  -- chapter 12
  /-- HOST_MEMORY_READ (R392). -/
  | hostMemoryRead (o : BitVec 26) (n : Nat)
  /-- HOST_MEMORY_WRITE (R392). -/
  | hostMemoryWrite (o : BitVec 26) (data : List Byte) (ep : Bool)
  /-- DOWNSTREAM_MEMORY_READ (R519). -/
  | downstreamMemoryRead (p : Fin 6) (id : PeerId) (addr : BitVec 64) (n : Nat)
  /-- DOWNSTREAM_MEMORY_WRITE (R200). -/
  | downstreamMemoryWrite (p : Fin 6) (id : PeerId) (addr : BitVec 64) (data : List Byte) (ep : Bool)
  /-- DOWNSTREAM_MESSAGE (R521). -/
  | downstreamMessage (p : Fin 6)
  /-- HWT_ENTRY_WRITE (R411). -/
  | hwtEntryWrite (a : Agent) (o : BitVec 19) (data : List Byte)
  /-- HWT_QUIESCE_READ (R412). -/
  | hwtQuiesceRead (a : Agent)
  /-- DRAM_TRAINING_COMPLETE (R416). -/
  | dramTrainingComplete (c : Fin 2)
  -- chapter 13
  /-- HUB_RESPONSE (R419). -/
  | hubResponse (a : Agent) (sub : Fin 256) (beats : Nat) (err : Option HubErr)
  /-- ARBITER_GRANT (R427). -/
  | arbiterGrant (arb : ArbName) (present : BitVec 16)
  -- chapter 14
  /-- IDLE_HOLD_EXPIRY (R438). -/
  | idleHoldExpiry (k : Fin 152)
  /-- DERAILLEUR_EVALUATION (R443). -/
  | derailleurEvaluation (c : Counts) (k : Fin 152)
  /-- SCHEDULED_WAKE (R444). -/
  | scheduledWake (c : Counts) (k : Fin 152)
  /-- SCHEDULE_SLOT_REACHED (R441). -/
  | scheduleSlotReached (c : Counts) (slot : Fin 32)
  /-- DOMAIN_ENTRY_STEP_COMPLETE (R436). -/
  | domainEntryStepComplete (k : Fin 152) (pj : Option Nat)
  /-- DOMAIN_EXIT_COMPLETE (R436). -/
  | domainExitComplete (c : Counts) (k : Fin 152) (lat : Nat) (pj : List (Option Nat))
  /-- DOMAIN_CYCLE (R450). -/
  | domainCycle (a : Agent) (k : Fin 152)
  /-- DOMAIN_RESET (R498). -/
  | domainReset (a : Agent) (k : Fin 152)
  /-- EST_LAT_WRITE (R458). -/
  | estLatWrite (a : Agent) (v : Word)
  /-- EST_EIN_WRITE (R458). -/
  | estEinWrite (a : Agent) (v : Word)
  /-- EST_EOUT_WRITE (R458). -/
  | estEoutWrite (a : Agent) (v : Word)
  /-- PMIC_WRITE (R455). -/
  | pmicWrite
  /-- PMIC_WRITE_COMPLETE (R455). -/
  | pmicWriteComplete (ack : Bool)
  /-- PMIC_SETTLE_EXPIRY (R454). -/
  | pmicSettleExpiry
  /-- THERMAL_SAMPLE (R456). -/
  | thermalSample (raw : List (BitVec 16))
  /-- HANDSHAKE_TIMEOUT (R461). -/
  | handshakeTimeout (k : Fin 152) (stage : Word)
  /-- LDO_REGULATION_FAULT (R461). -/
  | ldoRegulationFault (r : Fin 9) (mv : Nat)
  -- chapter 15
  /-- PAGE_DRAIN (R536). -/
  | pageDrain (a : Agent) (p : Fin 96)
  /-- PAGE_ENABLE (R168). -/
  | pageEnable (a : Agent) (p : Fin 96)
  /-- FENCE_REQUEST (R470). -/
  | fenceRequest (a : Agent) (p : Fin 96)
  /-- FENCE_REQUEST_RELEASE (R474). -/
  | fenceRequestRelease (a : Agent) (p : Fin 96)
  /-- CAPTURE_CLEAR (R463). -/
  | captureClear (a : Agent) (p : Fin 96)
  /-- FAULT_LOG_CONSUME (R466). -/
  | faultLogConsume (a : Agent) (v : Word)
  /-- ERROR_INJECT (R482). -/
  | errorInject (a : Agent) (p : Fin 96) (v : Word)
  /-- WHEEL_STEEP_EXPIRY (R480). -/
  | wheelSteepExpiry (c : Counts) (w : Fin 8)
  /-- WHEEL_RECOVER (R480). -/
  | wheelRecover (a : Agent) (w : Fin 8)
  /-- WHEEL_RECOVERY_COMPLETE (R480). -/
  | wheelRecoveryComplete (w : Fin 8)
  /-- RAIL_FAULT (R545). -/
  | railFault (rail : Fin 5)
  /-- TAMPER_EVENT (R502). -/
  | tamperEvent (bit_ : Fin 5)
  -- chapter 16
  /-- COLD_RESET (R487). -/
  | coldReset (board : ColdBoard)
  /-- UPSTREAM_PERST (R497). -/
  | upstreamPerst
  /-- UPSTREAM_PERST_RELEASE (R497). -/
  | upstreamPerstRelease
  /-- UPSTREAM_LINK_LOSS (R514). -/
  | upstreamLinkLoss
  /-- FUNCTION_LEVEL_RESET (R496). -/
  | functionLevelReset
  /-- CONFIG_REQUEST (R511). -/
  | configRequest (fn : CfgFn) (reg : Fin 1024) (wr : Option (Word × BitVec 4))
  /-- CFG_READY_SET (R490). -/
  | cfgReadySet (a : Agent)
  /-- HOST_BOOT (R492). -/
  | hostBoot (a : Agent) (len : Word)
  /-- ROM_EXIT (R495). -/
  | romExit
  /-- LIFE_CYCLE_ADVANCE (R500). -/
  | lifeCycleAdvance (a : Agent) (v : Word)
  /-- SVN_ADVANCE (R503). -/
  | svnAdvance (a : Agent)
  /-- KEY_FUSE_WRITE (R507). -/
  | keyFuseWrite (a : Agent) (k : Fin 40) (v : Word)
  /-- KETTLE_TIMER_ARM (R504). -/
  | kettleTimerArm (a : Agent) (k : Fin 8) (hi : Word)
  /-- KETTLE_TIMER_CANCEL (R504). -/
  | kettleTimerCancel (a : Agent) (k : Fin 8)
  /-- QSPI_TRANSFER (R505). -/
  | qspiTransfer (a : Agent) (v : Word)
  /-- QSPI_TRANSFER_COMPLETE (R505). -/
  | qspiTransferComplete (data : List Byte)
  /-- DAP_ACCESS (R508). -/
  | dapAccess (op : Fin 4) (addr : BitVec 48) (data : Word)
  /-- DAP_ACCESS_COMPLETE (R508). -/
  | dapAccessComplete
  /-- UNLOCK_CHALLENGE (R501). -/
  | unlockChallenge (a : Agent)
  /-- UNLOCK_CHECK (R501). -/
  | unlockCheck (a : Agent)
  /-- UNLOCK_CHECK_RESULT (R501). -/
  | unlockCheckResult
  /-- HALT_REQ (R509). -/
  | haltReq (a : Agent) (k : Fin 65)
  /-- DEBUG_RESUME (R509). -/
  | debugResume (a : Agent) (k : Fin 65)
  /-- DEBUG_STEP (R509). -/
  | debugStep (a : Agent) (k : Fin 65)
  /-- DEBUG_REG_ACCESS (R509). -/
  | debugRegAccess (a : Agent) (wr : Option Byte)
  -- chapter 17
  /-- HOST_COMPLETION_RECEIVED (R517). -/
  | hostCompletionReceived (a : Agent) (sub : Fin 256) (reply_ : HostReply)
  /-- UPSTREAM_COMPLETION_TIMEOUT (R559). -/
  | upstreamCompletionTimeout (a : Agent) (sub : Fin 256)
  /-- HOST_REQUEST_THROUGH_SWITCH (R519). -/
  | hostRequestThroughSwitch (addr : BitVec 64) (req : MemReq)
  /-- DOWNSTREAM_COMPLETION (R519). -/
  | downstreamCompletion (p : Fin 6) (dest : Option (Fin 6)) (n : Nat)
  /-- DOWNSTREAM_LINK_UP (R523). -/
  | downstreamLinkUp (p : Fin 6) (width speed : Fin 16)
  /-- DOWNSTREAM_LINK_DOWN (R523). -/
  | downstreamLinkDown (p : Fin 6)
  /-- DOWNSTREAM_WAKE (R523). -/
  | downstreamWake (p : Fin 6)
  /-- DOWNSTREAM_WAKE_RELEASE (R523). -/
  | downstreamWakeRelease (p : Fin 6)
  /-- DOWNSTREAM_CLKREQ (R524). -/
  | downstreamClkreq (p : Fin 6) (low : Bool)
  /-- UPSTREAM_LINK_L0 (R523). -/
  | upstreamLinkL0 (width speed : Fin 16)
  /-- LINK_L1_ENTRY (R524). -/
  | linkL1Entry (port : Fin 7) (state : Fin 3)
  /-- LANE_MARGIN_RUN (R531). -/
  | laneMarginRun (a : Agent) (l : Fin 16) (v : Word)
  /-- LANE_MARGIN_DONE (R531). -/
  | laneMarginDone (l : Fin 16) (steps errors : Fin 256)
  /-- PHY_RECALIBRATE (R531). -/
  | phyRecalibrate (a : Agent) (q : Fin 4)
  /-- PCIE_ERROR_DETECTED (R528). -/
  | pcieErrorDetected (port : Fin 7) (err : PcieError)
  -- chapter 18
  /-- PAGE_COMMIT (R539). -/
  | pageCommit (a : Agent) (p : Fin 96) (v : Word)
  /-- PG_EVT_SET (R537). -/
  | pgEvtSet (a : Agent) (p : Fin 96) (v : Word)
  /-- PG_EVT_CLR (R537). -/
  | pgEvtClr (a : Agent) (p : Fin 96) (v : Word)
  /-- PAGE_LOCK (R540). -/
  | pageLock (a : Agent) (p : Fin 96) (v : Word)
  /-- REGISTER_WRITE (R3). -/
  | registerWrite (a : Agent) (p : Fin 96) (k : Fin 1024) (v : Word)
  /-- REGISTER_READ (R7). -/
  | registerRead (a : Agent) (p : Fin 96) (k : Fin 1024)
  /-- READ_UART_RX_BYTES_LO (R3). -/
  | readUartRxBytesLo (a : Agent) (u : Fin 4)
  /-- READ_UART_TX_BYTES_LO (R3). -/
  | readUartTxBytesLo (a : Agent) (u : Fin 4)
  /-- READ_SPI_TX_BYTES_LO (R3). -/
  | readSpiTxBytesLo (a : Agent) (s_ : Fin 4)
  /-- READ_SPI_RX_BYTES_LO (R3). -/
  | readSpiRxBytesLo (a : Agent) (s_ : Fin 4)
  /-- READ_CH_BYTES_LO (R3). -/
  | readChBytesLo (a : Agent) (k : Fin 128)
  /-- READ_XUP_LO (R3). -/
  | readXupLo (a : Agent)
  /-- READ_XDN_LO (R3). -/
  | readXdnLo (a : Agent)
  deriving DecidableEq, Repr

end Sys2Proof
end

