-- ==== Sys2Proof/Machine/Bits.lean ====
section
/-!
DEFINITION. Bit fields, little-endian byte lists (R1), saturating counters (R75, R78) and the time-format conversions
(R29–R33).
-/

namespace Sys2Proof.Machine

/-- Field of `n` bits of `w` whose lowest bit is `lo`. -/
def fld {k : Nat} (w : BitVec k) (lo n : Nat) : Nat := w.toNat / 2 ^ lo % 2 ^ n

/-- Bit `i` of `w`. -/
def bitAt {k : Nat} (w : BitVec k) (i : Nat) : Bool := w.getLsbD i

/-- `w` with the field of `n` bits at `lo` replaced by the low bits of `v`. -/
def withFld {k : Nat} (w : BitVec k) (lo n v : Nat) : BitVec k :=
  let m : BitVec k := BitVec.ofNat k ((2 ^ n - 1) * 2 ^ lo)
  (w &&& ~~~m) ||| BitVec.ofNat k (v % 2 ^ n * 2 ^ lo)

/-- `w` with bit `i` set to `b`. -/
def withBit {k : Nat} (w : BitVec k) (i : Nat) (b : Bool) : BitVec k := withFld w i 1 b.toNat

/-- The bits of a field placed at `lo`. -/
def fput (lo n v : Nat) : Nat := v % 2 ^ n * 2 ^ lo

/-- A word of 32 bits from a number. -/
def w32 (n : Nat) : Word := BitVec.ofNat 32 n

/-- Bits 31:0 of a 64-bit value. -/
def lo32 (v : BitVec 64) : Word := BitVec.ofNat 32 v.toNat

/-- Bits 63:32 of a 64-bit value. -/
def hi32 (v : BitVec 64) : Word := BitVec.ofNat 32 (v.toNat / 2 ^ 32)

/-- A 64-bit value from its two words. -/
def cat64 (hi lo : Word) : BitVec 64 := hi ++ lo

/-- The signed reading of the low `n` bits of a number. -/
def signedOf (n v : Nat) : Int :=
  if v % 2 ^ n < 2 ^ (n - 1) then (v % 2 ^ n : Nat) else (v % 2 ^ n : Nat) - (2 ^ n : Nat)

/-- Little-endian bytes of a number (R1). -/
def leBytes : Nat → Nat → List Byte
  | 0, _ => []
  | n + 1, v => BitVec.ofNat 8 v :: leBytes n (v / 256)

/-- The number that little-endian bytes spell (R1). -/
def leNat : List Byte → Nat
  | [] => 0
  | b :: bs => b.toNat + 256 * leNat bs

/-- Big-endian bytes of a number, for the standards whose byte order is big-endian. -/
def beBytes (n v : Nat) : List Byte := (leBytes n v).reverse

/-- The number that big-endian bytes spell. -/
def beNat (bs : List Byte) : Nat := leNat bs.reverse

/-- A bit of a truth value. -/
def b2n (b : Bool) : Nat := if b then 1 else 0

/-- Truncating ceiling division. -/
def ceilDiv (a b : Nat) : Nat := (a + b - 1) / b

/-- `List.range` with a start. -/
def rangeFrom (start n : Nat) : List Nat := (List.range n).map (start + ·)

/-- Round a non-negative quotient to nearest, ties up. -/
def roundDiv (a b : Nat) : Nat := (2 * a + b) / (2 * b)

/-- The DS32 window of a DT64 value, truncated (R29). -/
def toDs32 (t : DT) : Word := BitVec.ofNat 32 (t.toNat / 2 ^ 8)

/-- The DL32 window of a DT64 value, truncated (R29). -/
def toDl32 (t : DT) : Word := BitVec.ofNat 32 (t.toNat / 2 ^ 24)

/-- A DS32 duration as DT64 (R30). -/
def ds32Dur (o : Word) : DT := BitVec.ofNat 64 (o.toNat * 2 ^ 8)

/-- A DL32 duration as DT64 (R30). -/
def dl32Dur (o : Word) : DT := BitVec.ofNat 64 (o.toNat * 2 ^ 24)

/-- The target time a DS32 offset forms from a base (R31). -/
def dsTarget (base : DT) (o : Word) : DT := base + ds32Dur o

/-- Whether a target time counts as reached (R32). -/
def reached (now t : DT) : Bool := !(now - t).msb

/-- The age of a DS32 stamp (R33). -/
def stampAge (now : DT) (s : Word) : Word := toDs32 now - s

/-- An EF16 energy bound in whole nJ (R34). -/
def ef16nJ (e : BitVec 16) : Nat := fld e 0 12 * 2 ^ fld e 12 4 * 1000

/-- Whether a charge, in Q56.8 nJ, exceeds an EF16 bound (R35). -/
def boundExceeded (charge : BitVec 64) (e : BitVec 16) : Bool := charge.toNat > ef16nJ e * 256

/-- A Q56.8 energy reported in µJ, saturated to 32 bits (R63). -/
def reportUJ (q : BitVec 64) : Word := w32 (min (q.toNat / 256 / 1000) 0xFFFFFFFF)

end Sys2Proof.Machine
end

