-- ==== Sys2Proof/Machine/Crypto.lean ====
section
/-!
DEFINITION. The published algorithms the device's chapters name: AES-256 with XTS and GCM (R301–R304), SHA-256
(R305, FIPS 180-4), CRC-32C and CRC-64 (R268, R306), and the ECDSA P-256 check of signed images (R493).
-/

namespace Sys2Proof.Machine

/-! ### AES-256 -/

/-- The S-box. -/
def aesSbox : List Nat :=
  [0x63, 0x7C, 0x77, 0x7B, 0xF2, 0x6B, 0x6F, 0xC5, 0x30, 0x01, 0x67, 0x2B, 0xFE, 0xD7, 0xAB, 0x76] ++
  [0xCA, 0x82, 0xC9, 0x7D, 0xFA, 0x59, 0x47, 0xF0, 0xAD, 0xD4, 0xA2, 0xAF, 0x9C, 0xA4, 0x72, 0xC0] ++
  [0xB7, 0xFD, 0x93, 0x26, 0x36, 0x3F, 0xF7, 0xCC, 0x34, 0xA5, 0xE5, 0xF1, 0x71, 0xD8, 0x31, 0x15] ++
  [0x04, 0xC7, 0x23, 0xC3, 0x18, 0x96, 0x05, 0x9A, 0x07, 0x12, 0x80, 0xE2, 0xEB, 0x27, 0xB2, 0x75] ++
  [0x09, 0x83, 0x2C, 0x1A, 0x1B, 0x6E, 0x5A, 0xA0, 0x52, 0x3B, 0xD6, 0xB3, 0x29, 0xE3, 0x2F, 0x84] ++
  [0x53, 0xD1, 0x00, 0xED, 0x20, 0xFC, 0xB1, 0x5B, 0x6A, 0xCB, 0xBE, 0x39, 0x4A, 0x4C, 0x58, 0xCF] ++
  [0xD0, 0xEF, 0xAA, 0xFB, 0x43, 0x4D, 0x33, 0x85, 0x45, 0xF9, 0x02, 0x7F, 0x50, 0x3C, 0x9F, 0xA8] ++
  [0x51, 0xA3, 0x40, 0x8F, 0x92, 0x9D, 0x38, 0xF5, 0xBC, 0xB6, 0xDA, 0x21, 0x10, 0xFF, 0xF3, 0xD2] ++
  [0xCD, 0x0C, 0x13, 0xEC, 0x5F, 0x97, 0x44, 0x17, 0xC4, 0xA7, 0x7E, 0x3D, 0x64, 0x5D, 0x19, 0x73] ++
  [0x60, 0x81, 0x4F, 0xDC, 0x22, 0x2A, 0x90, 0x88, 0x46, 0xEE, 0xB8, 0x14, 0xDE, 0x5E, 0x0B, 0xDB] ++
  [0xE0, 0x32, 0x3A, 0x0A, 0x49, 0x06, 0x24, 0x5C, 0xC2, 0xD3, 0xAC, 0x62, 0x91, 0x95, 0xE4, 0x79] ++
  [0xE7, 0xC8, 0x37, 0x6D, 0x8D, 0xD5, 0x4E, 0xA9, 0x6C, 0x56, 0xF4, 0xEA, 0x65, 0x7A, 0xAE, 0x08] ++
  [0xBA, 0x78, 0x25, 0x2E, 0x1C, 0xA6, 0xB4, 0xC6, 0xE8, 0xDD, 0x74, 0x1F, 0x4B, 0xBD, 0x8B, 0x8A] ++
  [0x70, 0x3E, 0xB5, 0x66, 0x48, 0x03, 0xF6, 0x0E, 0x61, 0x35, 0x57, 0xB9, 0x86, 0xC1, 0x1D, 0x9E] ++
  [0xE1, 0xF8, 0x98, 0x11, 0x69, 0xD9, 0x8E, 0x94, 0x9B, 0x1E, 0x87, 0xE9, 0xCE, 0x55, 0x28, 0xDF] ++
  [0x8C, 0xA1, 0x89, 0x0D, 0xBF, 0xE6, 0x42, 0x68, 0x41, 0x99, 0x2D, 0x0F, 0xB0, 0x54, 0xBB, 0x16]

/-- The inverse S-box. -/
def aesInv : List Nat :=
  [0x52, 0x09, 0x6A, 0xD5, 0x30, 0x36, 0xA5, 0x38, 0xBF, 0x40, 0xA3, 0x9E, 0x81, 0xF3, 0xD7, 0xFB] ++
  [0x7C, 0xE3, 0x39, 0x82, 0x9B, 0x2F, 0xFF, 0x87, 0x34, 0x8E, 0x43, 0x44, 0xC4, 0xDE, 0xE9, 0xCB] ++
  [0x54, 0x7B, 0x94, 0x32, 0xA6, 0xC2, 0x23, 0x3D, 0xEE, 0x4C, 0x95, 0x0B, 0x42, 0xFA, 0xC3, 0x4E] ++
  [0x08, 0x2E, 0xA1, 0x66, 0x28, 0xD9, 0x24, 0xB2, 0x76, 0x5B, 0xA2, 0x49, 0x6D, 0x8B, 0xD1, 0x25] ++
  [0x72, 0xF8, 0xF6, 0x64, 0x86, 0x68, 0x98, 0x16, 0xD4, 0xA4, 0x5C, 0xCC, 0x5D, 0x65, 0xB6, 0x92] ++
  [0x6C, 0x70, 0x48, 0x50, 0xFD, 0xED, 0xB9, 0xDA, 0x5E, 0x15, 0x46, 0x57, 0xA7, 0x8D, 0x9D, 0x84] ++
  [0x90, 0xD8, 0xAB, 0x00, 0x8C, 0xBC, 0xD3, 0x0A, 0xF7, 0xE4, 0x58, 0x05, 0xB8, 0xB3, 0x45, 0x06] ++
  [0xD0, 0x2C, 0x1E, 0x8F, 0xCA, 0x3F, 0x0F, 0x02, 0xC1, 0xAF, 0xBD, 0x03, 0x01, 0x13, 0x8A, 0x6B] ++
  [0x3A, 0x91, 0x11, 0x41, 0x4F, 0x67, 0xDC, 0xEA, 0x97, 0xF2, 0xCF, 0xCE, 0xF0, 0xB4, 0xE6, 0x73] ++
  [0x96, 0xAC, 0x74, 0x22, 0xE7, 0xAD, 0x35, 0x85, 0xE2, 0xF9, 0x37, 0xE8, 0x1C, 0x75, 0xDF, 0x6E] ++
  [0x47, 0xF1, 0x1A, 0x71, 0x1D, 0x29, 0xC5, 0x89, 0x6F, 0xB7, 0x62, 0x0E, 0xAA, 0x18, 0xBE, 0x1B] ++
  [0xFC, 0x56, 0x3E, 0x4B, 0xC6, 0xD2, 0x79, 0x20, 0x9A, 0xDB, 0xC0, 0xFE, 0x78, 0xCD, 0x5A, 0xF4] ++
  [0x1F, 0xDD, 0xA8, 0x33, 0x88, 0x07, 0xC7, 0x31, 0xB1, 0x12, 0x10, 0x59, 0x27, 0x80, 0xEC, 0x5F] ++
  [0x60, 0x51, 0x7F, 0xA9, 0x19, 0xB5, 0x4A, 0x0D, 0x2D, 0xE5, 0x7A, 0x9F, 0x93, 0xC9, 0x9C, 0xEF] ++
  [0xA0, 0xE0, 0x3B, 0x4D, 0xAE, 0x2A, 0xF5, 0xB0, 0xC8, 0xEB, 0xBB, 0x3C, 0x83, 0x53, 0x99, 0x61] ++
  [0x17, 0x2B, 0x04, 0x7E, 0xBA, 0x77, 0xD6, 0x26, 0xE1, 0x69, 0x14, 0x63, 0x55, 0x21, 0x0C, 0x7D]

/-- Multiplication by x in GF(2^8). -/
def xtime (a : Nat) : Nat := if a ≥ 128 then (2 * a) % 256 ^^^ 0x1B else 2 * a

/-- Multiplication in GF(2^8) by a factor of up to four bits. -/
def gmul (f a : Nat) : Nat :=
  let a2 := xtime a
  let a4 := xtime a2
  let a8 := xtime a4
  (if f % 2 = 1 then a else 0) ^^^ (if f / 2 % 2 = 1 then a2 else 0) ^^^ (if f / 4 % 2 = 1 then a4 else 0) ^^^
    (if f / 8 % 2 = 1 then a8 else 0)

/-- Bytes combined by exclusive or. -/
def xorList (a b : List Nat) : List Nat := a.zipWith (· ^^^ ·) b

def subBytes (s : List Nat) : List Nat := s.map fun b => aesSbox.getD b 0
def invSubBytes (s : List Nat) : List Nat := s.map fun b => aesInv.getD b 0
def shiftRows (s : List Nat) : List Nat := (List.range 16).map fun i => s.getD ((i + 4 * (i % 4)) % 16) 0
def invShiftRows (s : List Nat) : List Nat := (List.range 16).map fun i => s.getD ((i + 16 - 4 * (i % 4)) % 16) 0

/-- One column times a circulant matrix whose first row is given. -/
def mixWith (m : List Nat) (s : List Nat) : List Nat :=
  (List.range 16).map fun i =>
    let col := i / 4 * 4
    (List.range 4).foldl (fun a j => a ^^^ gmul (m.getD ((j + 4 - i % 4) % 4) 0) (s.getD (col + j) 0)) 0

def mixColumns : List Nat → List Nat := mixWith [2, 3, 1, 1]
def invMixColumns : List Nat → List Nat := mixWith [14, 11, 13, 9]

/-- Key expansion: words in reverse order, `n` of them still to be made. -/
def aesExpand (i : Nat) (rcon : Nat) (ws : List (List Nat)) : Nat → List (List Nat)
  | 0 => ws.reverse
  | n + 1 =>
    let t := ws.headD []
    let rot := t.drop 1 ++ t.take 1
    let sb := subBytes rot
    let t' := if i % 8 = 0 then (sb.headD 0 ^^^ rcon) :: sb.drop 1 else if i % 8 = 4 then subBytes t else t
    let rcon' := if i % 8 = 0 then xtime rcon else rcon
    aesExpand (i + 1) rcon' (xorList (ws.getD 7 []) t' :: ws) n

/-- The 15 round keys of a 256-bit key. -/
def aesRoundKeys (key : List Byte) : List (List Nat) :=
  let k := key.map (·.toNat)
  let ws := aesExpand 8 1 ((List.range 8).map fun i => (k.drop (4 * i)).take 4).reverse 52
  (List.range 15).map fun r => ((ws.drop (4 * r)).take 4).flatten

/-- AES-256 encryption of a 16-byte block. -/
def aesEncrypt (rks : List (List Nat)) (b : List Byte) : List Byte :=
  let s := xorList (b.map (·.toNat)) (rks.getD 0 [])
  let s := (List.range 13).foldl (fun s r => xorList (mixColumns (shiftRows (subBytes s))) (rks.getD (r + 1) [])) s
  (xorList (shiftRows (subBytes s)) (rks.getD 14 [])).map (BitVec.ofNat 8)

/-- AES-256 decryption of a 16-byte block. -/
def aesDecrypt (rks : List (List Nat)) (b : List Byte) : List Byte :=
  let s := xorList (b.map (·.toNat)) (rks.getD 14 [])
  let s := (List.range 13).foldl
    (fun s r => invMixColumns (xorList (invSubBytes (invShiftRows s)) (rks.getD (13 - r) []))) s
  (xorList (invSubBytes (invShiftRows s)) (rks.getD 0 [])).map (BitVec.ofNat 8)

/-- Byte lists combined by exclusive or. -/
def xorBytes (a b : List Byte) : List Byte := a.zipWith (· ^^^ ·) b

/-! ### XTS (R301, R302) -/

/-- The tweak times x in GF(2^128), little-endian. -/
def xtsNext (t : List Byte) : List Byte :=
  let n := leNat t
  leBytes 16 ((2 * n) % 2 ^ 128 ^^^ (if n ≥ 2 ^ 127 then 0x87 else 0))

/-- The tweak of block `i` of a data unit. -/
def xtsTweak (k2 : List (List Nat)) (unit : Nat) : Nat → List Byte
  | 0 => aesEncrypt k2 (leBytes 16 unit)
  | i + 1 => xtsNext (xtsTweak k2 unit i)

/-- The whole 16-byte blocks of an input through XTS; data units of `du` bytes, the first with tweak value `first`. -/
def xtsBlocks (enc : Bool) (k1 k2 : List (List Nat)) (first du : Nat) (inp : List Byte) : List Byte :=
  (List.range (inp.length / 16)).flatMap fun b =>
    let unit := (first + 16 * b / du) % 2 ^ 128
    let t := xtsTweak k2 unit (b % (du / 16))
    let x := xorBytes ((inp.drop (16 * b)).take 16) t
    xorBytes (if enc then aesEncrypt k1 x else aesDecrypt k1 x) t

/-! ### GCM (R303, R304) -/

/-- Multiplication in the field of GHASH, on 128-bit values with the standard's bit order. -/
def ghashMul (x y : BitVec 128) : BitVec 128 :=
  ((List.range 128).foldl (fun (zv : BitVec 128 × BitVec 128) i =>
    let z := if x.getMsbD i then zv.1 ^^^ zv.2 else zv.1
    let v := if zv.2.getLsbD 0 then (zv.2 >>> 1) ^^^ 0xE1000000000000000000000000000000#128 else zv.2 >>> 1
    (z, v)) (0, y)).1

/-- 16-byte blocks of a byte list, the last completed with zeros. -/
def blocks16 (bs : List Byte) : List (BitVec 128) :=
  (List.range ((bs.length + 15) / 16)).map fun i =>
    let b := (bs.drop (16 * i)).take 16
    BitVec.ofNat 128 (beNat (b ++ List.replicate (16 - b.length) 0))

def ghash (h : BitVec 128) (xs : List (BitVec 128)) : BitVec 128 := xs.foldl (fun y x => ghashMul (y ^^^ x) h) 0

/-- Key stream of the counter mode for `n` bytes. -/
def gcmStream (rks : List (List Nat)) (iv : List Byte) (n : Nat) : List Byte :=
  ((List.range ((n + 15) / 16)).flatMap fun i => aesEncrypt rks (iv ++ beBytes 4 (i + 2))).take n

/-- The tag over additional data and ciphertext. -/
def gcmTag (rks : List (List Nat)) (iv aad ct : List Byte) : List Byte :=
  let h := BitVec.ofNat 128 (beNat (aesEncrypt rks (List.replicate 16 0)))
  let lens := BitVec.ofNat 128 (8 * aad.length * 2 ^ 64 + 8 * ct.length)
  let s := ghash h (blocks16 aad ++ blocks16 ct ++ [lens])
  xorBytes (beBytes 16 s.toNat) (aesEncrypt rks (iv ++ beBytes 4 1))

/-! ### SHA-256 -/

/-- The round constants. -/
def shaK : List Nat :=
  [0x428A2F98, 0x71374491, 0xB5C0FBCF, 0xE9B5DBA5, 0x3956C25B, 0x59F111F1, 0x923F82A4, 0xAB1C5ED5] ++
  [0xD807AA98, 0x12835B01, 0x243185BE, 0x550C7DC3, 0x72BE5D74, 0x80DEB1FE, 0x9BDC06A7, 0xC19BF174] ++
  [0xE49B69C1, 0xEFBE4786, 0x0FC19DC6, 0x240CA1CC, 0x2DE92C6F, 0x4A7484AA, 0x5CB0A9DC, 0x76F988DA] ++
  [0x983E5152, 0xA831C66D, 0xB00327C8, 0xBF597FC7, 0xC6E00BF3, 0xD5A79147, 0x06CA6351, 0x14292967] ++
  [0x27B70A85, 0x2E1B2138, 0x4D2C6DFC, 0x53380D13, 0x650A7354, 0x766A0ABB, 0x81C2C92E, 0x92722C85] ++
  [0xA2BFE8A1, 0xA81A664B, 0xC24B8B70, 0xC76C51A3, 0xD192E819, 0xD6990624, 0xF40E3585, 0x106AA070] ++
  [0x19A4C116, 0x1E376C08, 0x2748774C, 0x34B0BCB5, 0x391C0CB3, 0x4ED8AA4A, 0x5B9CCA4F, 0x682E6FF3] ++
  [0x748F82EE, 0x78A5636F, 0x84C87814, 0x8CC70208, 0x90BEFFFA, 0xA4506CEB, 0xBEF9A3F7, 0xC67178F2]

/-- The initial state. -/
def shaInit : List Word :=
  [0x6A09E667, 0xBB67AE85, 0x3C6EF372, 0xA54FF53A, 0x510E527F, 0x9B05688C, 0x1F83D9AB, 0x5BE0CD19]

/-- The message schedule, newest word first. -/
def shaExpand (ws : List Word) : Nat → List Word
  | 0 => ws.reverse
  | n + 1 =>
    let w := fun i => ws.getD i 0
    let s0 := (w 14).rotateRight 7 ^^^ (w 14).rotateRight 18 ^^^ (w 14) >>> 3
    let s1 := (w 1).rotateRight 17 ^^^ (w 1).rotateRight 19 ^^^ (w 1) >>> 10
    shaExpand ((w 15 + s0 + w 6 + s1) :: ws) n

/-- One round. -/
def shaRound (s : List Word) (kw : Word) : List Word :=
  match s with
  | [a, b, c, d, e, f, g, h] =>
    let s1 := e.rotateRight 6 ^^^ e.rotateRight 11 ^^^ e.rotateRight 25
    let t1 := h + s1 + ((e &&& f) ^^^ (~~~e &&& g)) + kw
    let s0 := a.rotateRight 2 ^^^ a.rotateRight 13 ^^^ a.rotateRight 22
    let t2 := s0 + ((a &&& b) ^^^ (a &&& c) ^^^ (b &&& c))
    [t1 + t2, a, b, c, d + t1, e, f, g]
  | _ => s

/-- One 64-byte block. -/
def shaBlock (h : List Word) (b : List Byte) : List Word :=
  let ws := shaExpand ((List.range 16).map fun i => w32 (beNat ((b.drop (4 * i)).take 4))).reverse 48
  let s := (ws.zip shaK).foldl (fun s wk => shaRound s (wk.1 + w32 wk.2)) h
  h.zipWith (· + ·) s

/-- The whole blocks of a byte string. -/
def shaBlocks (h : List Word) (bs : List Byte) : List Word :=
  (List.range (bs.length / 64)).foldl (fun h i => shaBlock h ((bs.drop (64 * i)).take 64)) h

/-- The padding of a message of `bits` bits of which `pend` bytes are not yet hashed. -/
def shaPad (bits pend : Nat) : List Byte :=
  (0x80 : Byte) :: List.replicate ((119 - pend) % 64) 0 ++ beBytes 8 bits

def shaBytes (h : List Word) : List Byte := h.flatMap fun w => beBytes 4 w.toNat

/-- SHA-256 of a message. -/
def sha256 (m : List Byte) : List Byte := shaBytes (shaBlocks shaInit (m ++ shaPad (8 * m.length) (m.length % 64)))

/-! ### CRC (R268, R306) -/

/-- A reflected CRC register moved over a byte, one bit at a time. -/
def crcBits (poly : Nat) (r : Nat) : Nat → Nat
  | 0 => r
  | n + 1 => crcBits poly (if r % 2 = 1 then r / 2 ^^^ poly else r / 2) n

/-- A reflected CRC register moved over bytes. -/
def crcRun (poly : Nat) (r : Nat) (bs : List Byte) : Nat := bs.foldl (fun r b => crcBits poly (r ^^^ b.toNat) 8) r

abbrev crc32cPoly : Nat := 0x82F63B78
abbrev crc64Poly : Nat := 0x9A6C9329AC4BC9B5

/-! ### ECDSA over P-256 (R493) -/

abbrev p256P : Nat := 0xFFFFFFFF00000001000000000000000000000000FFFFFFFFFFFFFFFFFFFFFFFF
abbrev p256N : Nat := 0xFFFFFFFF00000000FFFFFFFFFFFFFFFFBCE6FAADA7179E84F3B9CAC2FC632551
abbrev p256B : Nat := 0x5AC635D8AA3A93E7B3EBBD55769886BC651D06B0CC53B0F63BCE3C3E27D2604B
abbrev p256Gx : Nat := 0x6B17D1F2E12C4247F8BCE6E563A440F277037D812DEB33A0F4A13945D898C296
abbrev p256Gy : Nat := 0x4FE342E2FE1A7F9B8EE7EB4A7C0F9E162BCE33576B315ECECBB6406837BF51F5

/-- Modular power by the bits of the exponent, low bit first. -/
def powMod (m b : Nat) (acc : Nat) (e : Nat) : Nat → Nat
  | 0 => acc
  | n + 1 => powMod m (b * b % m) (if e % 2 = 1 then acc * b % m else acc) (e / 2) n

/-- Modular inverse for a prime modulus. -/
def invMod (m a : Nat) : Nat := powMod m (a % m) 1 (m - 2) 256

/-- Addition of points; none is the point at infinity. -/
def ecAdd (p q : Option (Nat × Nat)) : Option (Nat × Nat) :=
  match p, q with
  | none, q => q
  | p, none => p
  | some (x1, y1), some (x2, y2) =>
    let m := p256P
    if x1 = x2 ∧ (y1 + y2) % m = 0 then none
    else
      let l := if x1 = x2 then (3 * x1 * x1 + (m - 3)) * invMod m (2 * y1) % m else (y2 + m - y1) * invMod m (x2 + m - x1) % m
      let x := (l * l + 2 * m - x1 - x2) % m
      some (x, (l * (x1 + m - x) + m - y1) % m)

/-- Multiplication of a point. -/
def ecMul (p acc : Option (Nat × Nat)) (k : Nat) : Nat → Option (Nat × Nat)
  | 0 => acc
  | n + 1 => ecMul (ecAdd p p) (if k % 2 = 1 then ecAdd acc p else acc) (k / 2) n

/-- Whether a signature (r, s) of a message hash checks under a public key. -/
def ecdsaCheck (qx qy r s : Nat) (hash : List Byte) : Bool :=
  let n := p256N
  let onCurve := qx < p256P && qy < p256P &&
    qy * qy % p256P == (qx * qx * qx + (p256P - 3) * qx + p256B) % p256P
  if onCurve && 0 < r && r < n && 0 < s && s < n then
    let w := invMod n s
    let u1 := beNat hash * w % n
    let u2 := r * w % n
    match ecAdd (ecMul (some (p256Gx, p256Gy)) none u1 256) (ecMul (some (qx, qy)) none u2 256) with
    | some (x, _) => x % n == r
    | none => false
  else false

end Sys2Proof.Machine
end

