-- ==== Sys2Proof/Config.lean ====
section
/-!
DEFINITION. What one part fixes and the spec leaves to it: fused contents, measured characteristics, and the free values.
Every name here is opaque: nothing can be proved about a value of it.
-/

namespace Sys2Proof.Config

/-- A free value: what the n-th undefined or unstated value of a run is (assumption log 11). -/
opaque freeValue : Nat → BitVec 64

/-- The interpolated offset of a DT64 sample in a period whose predecessor made no count (log 11). -/
opaque offsetNoPeriod : Nat → Nat → Nat

/-- The rate step of a PTM pair taken at the DT64 of the pair before it, where the rule divides by zero (log 11). -/
opaque rateStepNoDelta : Int → Int

/-- g_meas of a second without charge, where R67 divides by zero (log 11). -/
opaque gMeasNoCharge : Nat → Nat

/-- A domain's power in a state at a temperature, where R448 divides by a leakage of zero (log 11). -/
opaque powerNoLeak : Nat → Nat → BitVec 16 → Nat

/-- A latency scaled where R446 divides by a rate of zero (log 11). -/
opaque latNoRate : Nat → Nat → Nat

/-- A transition energy scaled where R447 divides by a voltage scale of zero (log 11). -/
opaque energyNoScale : Nat → Nat → Nat

/-- The contents a fused register word takes at power-on, by register key (log 6). -/
opaque fuseWord : Nat → BitVec 32

/-- Whether the part's DEFLATE encoder closes its block after some input at a LEVEL, where R307 leaves the choice (log 14). -/
opaque deflateCut : Nat → List (BitVec 8) → Bool

/-- The bits after the header of the Huffman block that the part's encoder makes at a LEVEL, after the input already covered,
of a block's bytes: R307 leaves the choice of matches and of dynamic codes (log 14). -/
opaque deflateCode : Nat → List (BitVec 8) → List (BitVec 8) → List Bool

end Sys2Proof.Config
end

