-- ==== Sys2Proof/Machine/Deflate.lean ====
section
/-!
DEFINITION. Inflating a raw DEFLATE stream (RFC 1951) as far as its input goes (R308), and the blocks of a compressed stream
(R307).
-/

namespace Sys2Proof.Machine

/-- How far a DEFLATE stream has been read: more input is needed, its last block has ended, or it is invalid. -/
inductive InfStatus where
  | need | ended | bad
  deriving DecidableEq, Repr

/-- A bit reader: bits left and bits taken. -/
structure BitSrc where
  bits : List Bool
  taken : Nat

/-- The bits of bytes, low bit first. -/
def bytesBits (bs : List Byte) : List Bool := bs.flatMap fun b => (List.range 8).map fun i => b.getLsbD i

/-- `n` bits as a number, low bit first. -/
def BitSrc.get (s : BitSrc) : Nat → Option (Nat × BitSrc)
  | 0 => some (0, s)
  | n + 1 =>
    match s.bits with
    | [] => none
    | b :: rest => (BitSrc.get ⟨rest, s.taken + 1⟩ n).map fun r => (b.toNat + 2 * r.1, r.2)

/-- The symbols of a canonical code in order of code: by length, then by symbol. -/
def codeSyms (lens : List Nat) (l : Nat) : List Nat := (List.range lens.length).filter fun i => lens.getD i 0 = l

/-- Reads one symbol: answers no symbol where input ends, `some none` where no code matches. -/
def readSym (lens : List Nat) (s : BitSrc) (code first : Nat) (l : Nat) : Nat → Option (Option (Nat × BitSrc))
  | 0 => some none
  | n + 1 =>
    match s.bits with
    | [] => none
    | b :: rest =>
      let code := 2 * code + b.toNat
      let syms := codeSyms lens l
      let s := ⟨rest, s.taken + 1⟩
      if code < first + syms.length then some (some (syms.getD (code - first) 0, s))
      else readSym lens s code (2 * (first + syms.length)) (l + 1) n

/-- A set of code lengths assigns more codes than its lengths have. -/
def overSubscribed (lens : List Nat) : Bool :=
  (lens.foldl (fun a l => if l = 0 then a else a + 2 ^ (15 - l)) 0) > 2 ^ 15

def lenBase : List Nat :=
  [3, 4, 5, 6, 7, 8, 9, 10, 11, 13, 15, 17, 19, 23, 27, 31, 35, 43, 51, 59, 67, 83, 99, 115, 131, 163, 195, 227, 258]
def lenExtra : List Nat := [0, 0, 0, 0, 0, 0, 0, 0, 1, 1, 1, 1, 2, 2, 2, 2, 3, 3, 3, 3, 4, 4, 4, 4, 5, 5, 5, 5, 0]
def distBase : List Nat :=
  [1, 2, 3, 4, 5, 7, 9, 13, 17, 25, 33, 49, 65, 97, 129, 193, 257, 385, 513, 769, 1025, 1537, 2049, 3073, 4097] ++
  [6145, 8193, 12289, 16385, 24577]
def distExtra : List Nat :=
  [0, 0, 0, 0, 1, 1, 2, 2, 3, 3, 4, 4, 5, 5, 6, 6, 7, 7, 8, 8, 9, 9, 10, 10, 11, 11, 12, 12, 13, 13]

/-- A copy of `n` bytes from `dist` bytes back; the output is held newest first. -/
def copyBack (out : List Byte) (dist : Nat) : Nat → List Byte
  | 0 => out
  | n + 1 => copyBack (out.getD (dist - 1) 0 :: out) dist n

/-- The symbols of a compressed block. -/
def infCodes (ll dl : List Nat) (out : List Byte) (s : BitSrc) : Nat → InfStatus × List Byte × BitSrc
  | 0 => (.need, out, s)
  | fuel + 1 =>
    match readSym ll s 0 0 1 15 with
    | none => (.need, out, s)
    | some none => (.bad, out, s)
    | some (some (sym, s)) =>
      if sym < 256 then infCodes ll dl (BitVec.ofNat 8 sym :: out) s fuel
      else if sym = 256 then (.ended, out, s)
      else if sym > 285 then (.bad, out, s)
      else
        match s.get (lenExtra.getD (sym - 257) 0) with
        | none => (.need, out, s)
        | some (ex, s) =>
          match readSym dl s 0 0 1 15 with
          | none => (.need, out, s)
          | some none => (.bad, out, s)
          | some (some (ds, s)) =>
            if ds > 29 then (.bad, out, s)
            else
              match s.get (distExtra.getD ds 0) with
              | none => (.need, out, s)
              | some (dx, s) =>
                let dist := distBase.getD ds 0 + dx
                if dist > out.length then (.bad, out, s)
                else infCodes ll dl (copyBack out dist (lenBase.getD (sym - 257) 0 + ex)) s fuel

/-- The order of the code length codes. -/
def clOrder : List Nat := [16, 17, 18, 0, 8, 7, 9, 6, 10, 5, 11, 4, 12, 3, 13, 2, 14, 1, 15]

/-- Code lengths read with repeats, newest first. -/
def readLens (cl : List Nat) (want : Nat) (acc : List Nat) (s : BitSrc) : Nat → Option (Option (List Nat × BitSrc))
  | 0 => none
  | fuel + 1 =>
    if acc.length = want then some (some (acc.reverse, s))
    else if acc.length > want then some none
    else
      match readSym cl s 0 0 1 7 with
      | none => none
      | some none => some none
      | some (some (sym, s)) =>
        if sym < 16 then readLens cl want (sym :: acc) s fuel
        else
          let n := if sym = 16 then 2 else if sym = 17 then 3 else 7
          match s.get n with
          | none => none
          | some (ex, s) =>
            if sym = 16 ∧ acc.isEmpty then some none
            else
              let v := if sym = 16 then acc.headD 0 else 0
              let k := if sym = 18 then 11 + ex else 3 + ex
              readLens cl want (List.replicate k v ++ acc) s fuel

/-- The fixed code's lengths. -/
def fixedLens : List Nat :=
  List.replicate 144 8 ++ List.replicate 112 9 ++ List.replicate 24 7 ++ List.replicate 8 8

/-- The `n` lengths of the code length code. -/
def readCl (s : BitSrc) : Nat → Option (List Nat × BitSrc)
  | 0 => some ([], s)
  | n + 1 => do
    let (v, s) ← s.get 3
    let (vs, s) ← readCl s n
    return (v :: vs, s)

/-- The two codes of a dynamic block. -/
def readDynamic (s : BitSrc) : Option (Option (List Nat × List Nat × BitSrc)) :=
  match s.get 5 with
  | none => none
  | some (hl, s) =>
    match s.get 5 with
    | none => none
    | some (hd, s) =>
      match s.get 4 with
      | none => none
      | some (hc, s) =>
        match readCl s (hc + 4) with
        | none => none
        | some (cls, s) =>
          let cl := (List.range 19).map fun i =>
            match (clOrder.zip cls).find? fun e => e.1 = i with
            | some e => e.2
            | none => 0
          if overSubscribed cl then some none
          else
            match readLens cl (hl + 257 + hd + 1) [] s 321 with
            | none => none
            | some none => some none
            | some (some (lens, s)) =>
              let ll := lens.take (hl + 257)
              let dl := lens.drop (hl + 257)
              if overSubscribed ll ∨ overSubscribed dl then some none else some (some (ll, dl, s))

/-- `n` bytes of a stored block. -/
def storedBytes (out : List Byte) (s : BitSrc) : Nat → InfStatus × List Byte × BitSrc
  | 0 => (.ended, out, s)
  | n + 1 =>
    match s.get 8 with
    | none => (.need, out, s)
    | some (b, s) => storedBytes (BitVec.ofNat 8 b :: out) s n

/-- One block after its header. -/
def infBlock (ty : Nat) (out : List Byte) (s : BitSrc) : InfStatus × List Byte × BitSrc :=
  if ty = 0 then
    let skip := (8 - s.taken % 8) % 8
    match s.get skip with
    | none => (.need, out, s)
    | some (_, s) =>
      match s.get 16 with
      | none => (.need, out, s)
      | some (len, s) =>
        match s.get 16 with
        | none => (.need, out, s)
        | some (nlen, s) => if len + nlen = 0xFFFF then storedBytes out s len else (.bad, out, s)
  else if ty = 1 then infCodes fixedLens (List.replicate 32 5) out s (s.bits.length + 1)
  else if ty = 2 then
    match readDynamic s with
    | none => (.need, out, s)
    | some none => (.bad, out, s)
    | some (some (ll, dl, s)) => infCodes ll dl out s (s.bits.length + 1)
  else (.bad, out, s)

/-- The blocks of a stream. -/
def infBlocks (out : List Byte) (s : BitSrc) : Nat → InfStatus × List Byte × BitSrc
  | 0 => (.need, out, s)
  | fuel + 1 =>
    match s.get 3 with
    | none => (.need, out, s)
    | some (h, s) =>
      match infBlock (h / 2) out s with
      | (.ended, out, s) => if h % 2 = 1 then (.ended, out, s) else infBlocks out s fuel
      | r => r

/-- Inflates what a byte list holds: the status, the output so far and the input bytes the stream has taken. -/
def inflate (inp : List Byte) : InfStatus × List Byte × Nat :=
  let r := infBlocks [] ⟨bytesBits inp, 0⟩ (8 * inp.length + 1)
  (r.1, r.2.1.reverse, (r.2.2.taken + 7) / 8)

/-! ### Compression (R307) -/

/-- The first code of a length, as canonical codes are assigned. -/
def firstCode (lens : List Nat) : Nat → Nat
  | 0 => 0
  | l + 1 => 2 * (firstCode lens l + if l = 0 then 0 else (codeSyms lens l).length)

/-- The code of a symbol, in the order its bits stand in the stream. -/
def codeBits (lens : List Nat) (sym : Nat) : List Bool :=
  let l := lens.getD sym 0
  let c := firstCode lens l + ((codeSyms lens l).takeWhile (· < sym)).length
  (List.range l).reverse.map fun i => c / 2 ^ i % 2 = 1

/-- `n` bits of a number, low bit first. -/
def lowBits (n v : Nat) : List Bool := (List.range n).map fun i => v / 2 ^ i % 2 = 1

/-- Code lengths of literals and the block end that make a complete code. -/
def literalLens : List Nat := List.replicate 255 8 ++ [9, 9]

/-- The two codes of a dynamic block that holds literals only. -/
def literalHead : List Bool :=
  let cl := [2, 0, 0, 0, 0, 0, 0, 0, 1, 2]
  lowBits 5 0 ++ lowBits 5 0 ++ lowBits 4 3 ++ [0, 0, 0, 2, 1, 0, 2].flatMap (lowBits 3) ++
    (literalLens ++ [0]).flatMap (codeBits cl)

/-- A block of literals after its header: fixed codes at LEVEL 1, else dynamic ones. -/
def literalCode (level : Nat) (blk : List Byte) : List Bool :=
  let ll := if level = 1 then fixedLens else literalLens
  (if level = 1 then [] else literalHead) ++ blk.flatMap (fun b => codeBits ll b.toNat) ++ codeBits ll 256

/-- Bits make a block of the type of a LEVEL that stands for some bytes after others, and nothing follows it. -/
def codesBlock (level : Nat) (done blk : List Byte) (bits : List Bool) : Bool :=
  let r := infBlock (if level = 1 then 1 else 2) done.reverse ⟨bits, 0⟩
  r.1 = .ended && r.2.1 = (done ++ blk).reverse && r.2.2.bits.isEmpty

/-- The Huffman block of some bytes after its header: the part's own (log 14). -/
def huffmanCode (level : Nat) (done blk : List Byte) : List Bool :=
  let own := Config.deflateCode level done blk
  if codesBlock level done blk own then own else literalCode level blk

/-- A DEFLATE stream in the making: the bits of its blocks, the input they cover, and the input of the block still open. -/
structure DefEnc where
  bits : List Bool := []
  done : List Byte := []
  blk : List Byte := []

/-- The open block is emitted: as a Huffman block, or stored where that would be longer (R307). -/
def DefEnc.emit (e : DefEnc) (level : Nat) (last : Bool) : DefEnc :=
  let n := e.blk.length
  let coded := last :: lowBits 2 (if level = 1 then 1 else 2) ++ huffmanCode level e.done e.blk
  let pad := (8 - (e.bits.length + 3) % 8) % 8
  let stored := last :: lowBits 2 0 ++ List.replicate pad false ++ lowBits 16 n ++ lowBits 16 (65535 - n) ++ bytesBits e.blk
  { bits := e.bits ++ (if stored.length < coded.length then stored else coded), done := e.done ++ e.blk, blk := [] }

/-- The encoder takes one byte. It closes its block first at 65,535 bytes, and earlier where the part does so and R307's bound
on the whole output stands (log 14). -/
def DefEnc.take (level : Nat) (e : DefEnc) (b : Byte) : DefEnc :=
  let c := e.emit level false
  let n := c.done.length
  let early := Config.deflateCut level (e.done ++ e.blk) && decide (c.bits.length ≤ 8 * (n + 5 * (n / 65535)))
  if e.blk ≠ [] ∧ (e.blk.length = 65535 ∨ early) then { c with blk := [b] } else { e with blk := e.blk ++ [b] }

/-- Bytes of bits, the last one filled with zeros. -/
def packBits (bits : List Bool) : Nat → List Byte
  | 0 => []
  | n + 1 =>
    if bits.isEmpty then []
    else BitVec.ofNat 8 ((bits.take 8).foldr (fun b v => b.toNat + 2 * v) 0) :: packBits (bits.drop 8) n

/-- What the DEFLATE stage has emitted of its input: the whole bytes of the closed blocks, and at the end the last block (log 14). -/
def deflateAll (level : Nat) (inp : List Byte) (final : Bool) : List Byte :=
  let e := inp.foldl (DefEnc.take level) {}
  let bits := if final then (e.emit level true).bits else e.bits.take (e.bits.length / 8 * 8)
  packBits bits bits.length

end Sys2Proof.Machine
end

