-- ==== Sys2Proof/Machine/Topo.lean ====
section
/-!
DEFINITION. The fixed structure of the device: pages, domains, regions, wheels and agents (R10–R15), and the device
address map (R390, R391).
-/

namespace Sys2Proof.Machine

/-! ### Register pages (chapter 18, page index) -/

abbrev pgDEV : Nat := 0x00
abbrev pgKTL : Nat := 0x01
abbrev pgPCR : Nat := 0x02
abbrev pgLDG : Nat := 0x03
abbrev pgDRL : Nat := 0x04
abbrev pgPWD : Nat := 0x05
abbrev pgFLT : Nat := 0x06
abbrev pgSTR : Nat := 0x07
abbrev pgLCS : Nat := 0x08
abbrev pgFUS : Nat := 0x09
abbrev pgTHM : Nat := 0x0A
abbrev pgHIF : Nat := 0x0B
abbrev pgHWT : Nat := 0x0C
abbrev pgHUB : Nat := 0x0D
abbrev pgBRG : Nat := 0x0E
abbrev pgDBG : Nat := 0x0F
abbrev pgCE : Nat := 0x10
abbrev pgWICU : Nat := 0x20
abbrev pgWMBX : Nat := 0x28
abbrev pgWDM : Nat := 0x30
abbrev pgWCOR : Nat := 0x38
abbrev pgWARB : Nat := 0x40
abbrev pgMEM : Nat := 0x48
abbrev pgCDY : Nat := 0x49
abbrev pgDRC : Nat := 0x4A
abbrev pgXAE : Nat := 0x4B
abbrev pgXSH : Nat := 0x4C
abbrev pgXDF : Nat := 0x4D
abbrev pgXCR : Nat := 0x4E
abbrev pgPUP : Nat := 0x4F
abbrev pgPSW : Nat := 0x50
abbrev pgPDN : Nat := 0x51
abbrev pgPHY : Nat := 0x57
abbrev pgNVA : Nat := 0x58
abbrev pgWCH : Nat := 0x59
abbrev pgI3C : Nat := 0x5A
abbrev pgSPI : Nat := 0x5B
abbrev pgUAR : Nat := 0x5C
abbrev pgGPI : Nat := 0x5D
abbrev pgFIF : Nat := 0x5E
abbrev pgECP : Nat := 0x5F

/-- Number of pages. -/
abbrev numPages : Nat := 96

/-- Key of a register by page and byte offset. -/
def rk (page off : Nat) : Nat := page * 1024 + off / 4

/-- Block type of a page (PG_ID.TYPE). -/
def pageType (p : Nat) : Nat :=
  if p < 0x10 then p + 1
  else if p < 0x20 then 0x11
  else if p < 0x48 then 0x12 + (p - 0x20) / 8
  else if p < 0x51 then 0x17 + (p - 0x48)
  else if p < 0x57 then 0x20
  else 0x21 + (p - 0x57)

/-- Instance number of a page (PG_ID.INSTANCE). -/
def pageInst (p : Nat) : Nat :=
  if 0x10 ≤ p ∧ p < 0x20 then p - 0x10
  else if 0x20 ≤ p ∧ p < 0x48 then (p - 0x20) % 8
  else if 0x51 ≤ p ∧ p < 0x57 then p - 0x51
  else 0

/-! ### Domains and regions -/

/-- First domain of wheel `w`. -/
def wheelDom (w : Nat) : Nat := 28 + 12 * w

/-- Domain of spoke core `c` of wheel `w`. -/
def coreDom (w c : Nat) : Nat := wheelDom w + c

/-- Domain of channel engine `n`. -/
def ceDom (n : Nat) : Nat := wheelDom (n / 2) + 8 + n % 2

/-- Domain of the mover pair of wheel `w`. -/
def moverDom (w : Nat) : Nat := wheelDom w + 10

/-- Domain of wheel common unit `w`. -/
def commonDom (w : Nat) : Nat := wheelDom w + 11

/-- The wheel a domain belongs to. -/
def domWheel (d : Nat) : Option Nat := if 28 ≤ d ∧ d < 124 then some ((d - 28) / 12) else none

/-- The region a domain belongs to (R15). -/
def domRegion (d : Nat) : Nat :=
  if d ≤ 1 then 0 else if d ≤ 4 then 1 else if d ≤ 13 then 2 else if d ≤ 25 then 3 else if d ≤ 27 then 4
  else if d < 76 then 5 else if d < 124 then 6 else if d < 140 then 7 else if d < 148 then 8
  else if d = 148 then 5 else if d = 149 then 6 else if d = 150 then 7 else 8

/-- The domains of a region. -/
def regionDoms (r : Nat) : List Nat := (List.range 152).filter fun d => domRegion d = r

/-- The domains of the units for which R12 names a page; none for pages of domain 0. -/
def pageDoms (p : Nat) : List Nat :=
  if p = pgKTL then [1, 25]
  else if p = pgHIF then [4]
  else if p = pgHWT then [3]
  else if p = pgHUB then [148, 149, 150, 151]
  else if p = pgBRG then [150]
  else if p < 0x10 then []
  else if p < 0x20 then [ceDom (p - 0x10)]
  else if p < 0x30 then [commonDom ((p - 0x20) % 8)]
  else if p < 0x38 then [moverDom (p - 0x30)]
  else if p < 0x40 then rangeFrom (wheelDom (p - 0x38)) 8
  else if p < 0x48 then [commonDom (p - 0x40)]
  else if p = pgMEM then rangeFrom 124 16
  else if p = pgCDY then []
  else if p = pgDRC then [26, 27]
  else if p = pgXAE then [140, 141]
  else if p = pgXSH then [142, 143]
  else if p = pgXDF then [144, 145, 146, 147]
  else if p = pgXCR then [151]
  else if p = pgPUP ∨ p = pgPSW then [3]
  else if p < pgPHY then [8 + (p - pgPDN)]
  else if p = pgPHY then [2, 5, 6, 7]
  else if p = pgNVA ∨ p = pgWCH then [3]
  else if p = pgI3C then [14, 15, 16]
  else if p = pgSPI then [17, 18]
  else if p = pgUAR then [19]
  else if p = pgGPI then [20]
  else if p = pgFIF then [21, 22, 23]
  else if p = pgECP then [24]
  else []

/-- The first page R12 names for a unit. -/
def unitPage (d : Nat) : Nat :=
  if d ≤ 1 then pgKTL else if d = 2 then pgPHY else if d = 3 then pgPUP else if d = 4 then pgHIF
  else if d ≤ 7 then pgPHY else if d ≤ 13 then pgPDN + (d - 8) else if d ≤ 16 then pgI3C
  else if d ≤ 18 then pgSPI else if d = 19 then pgUAR else if d = 20 then pgGPI else if d ≤ 23 then pgFIF
  else if d = 24 then pgECP else if d = 25 then pgKTL else if d ≤ 27 then pgDRC
  else if d < 124 then
    let w := (d - 28) / 12
    let k := (d - 28) % 12
    if k < 8 then pgWCOR + w else if k < 10 then pgCE + 2 * w + (k - 8) else if k = 10 then pgWDM + w else pgWICU + w
  else if d < 140 then pgMEM else if d ≤ 141 then pgXAE else if d ≤ 143 then pgXSH else if d ≤ 147 then pgXDF
  else pgHUB

/-- The domain a page's PG_CAP.FENCE allows to be fenced through it (R535). -/
def pageFenceable (p : Nat) : Bool :=
  !(pageDoms p).isEmpty && !([pgHUB, pgBRG, pgHIF, pgHWT, pgPUP, pgPSW, pgPHY].contains p)

/-- Pages whose block drains (PG_CAP.DRAIN). -/
def pageDrains (p : Nat) : Bool :=
  (0x10 ≤ p && p < 0x20) || (0x30 ≤ p && p < 0x38) || p = pgXAE || p = pgXSH || p = pgXDF

/-- Pages with RWS fields (PG_CAP.COMMIT). -/
def pageCommits (p : Nat) : Bool := p = pgHUB || (0x40 ≤ p && p < 0x48)

/-- Checkers PG_INJECT can name (PG_CAP.CHECKERS). -/
def pageCheckers (p : Nat) : Nat :=
  if p = pgMEM then 88 else if p = pgFIF then 32 else if p = pgDRC ∨ p = pgKTL then 2 else 1

/-- Block events of a page (PG_CAP.BLOCK_EVENTS). -/
def pageBlockEvents (p : Nat) : Nat :=
  if p = pgHIF ∨ (0x20 ≤ p ∧ p < 0x30) ∨ (0x38 ≤ p ∧ p < 0x40) then 1 else 0

/-- The PG_ID word of a page. -/
def pageId (p : Nat) : Word := w32 (pageType p * 2 ^ 16 + pageInst p * 2 ^ 8 + 1)

/-! ### Agents -/

abbrev agHost : Nat := 0x7E
abbrev agKettle : Nat := 0x41
abbrev agDebug : Nat := 0x7F

/-- Agent of core `k` = 8 × wheel + core; 64 is the kettle core. -/
def coreAgent (k : Nat) : Nat := k + 1

/-- Agent of channel engine `n`. -/
def ceAgent (n : Nat) : Nat := 0x50 + n

/-- Whether an agent has a copy of banked registers (R131). -/
def agentBanked (a : Nat) : Bool := (1 ≤ a && a ≤ 0x41) || a = agHost || a = agDebug

/-- The domain of an agent's unit. -/
def agentDom (a : Nat) : Option Nat :=
  if 1 ≤ a ∧ a ≤ 0x40 then some (coreDom ((a - 1) / 8) ((a - 1) % 8))
  else if a = agKettle then some 1
  else if 0x50 ≤ a ∧ a < 0x60 then some (ceDom (a - 0x50))
  else if 0x60 ≤ a ∧ a < 0x70 then some (moverDom ((a - 0x60) / 2))
  else if 0x70 ≤ a ∧ a < 0x78 then some (140 + (a - 0x70))
  else if a = agHost then some 4
  else none

/-! ### Ledger tags (R57) -/

/-- Tag of an agent's own work. -/
def agentTag (a : Nat) : Nat := 4096 + a

/-- Tag of a region's unattributed work. -/
def regionTag (r : Nat) : Nat := 4096 + 0xF0 + r

/-! ### The device address map (R390, R391) -/

/-- Alias of an address of shared SRAM or exchange RAM. -/
inductive Alias where
  | none | set | clear
  deriving DecidableEq, Repr

/-- What a device address names. -/
inductive Range where
  | sram (al : Alias)
  | xram (w : Nat) (al : Alias)
  | hwt
  | poll
  | caddy
  | lram (a : Nat)
  | pages
  | dram
  | hostwin
  | portwin (p : Nat)
  | unmapped
  deriving DecidableEq, Repr

abbrev xramBase : Nat := 0x03000000
abbrev hwtBase : Nat := 0x03080000
abbrev pollBase : Nat := 0x03100000
abbrev caddyBase : Nat := 0x03800000
abbrev lramBase : Nat := 0x04000000
abbrev pagesBase : Nat := 0x10000000
abbrev dramBase : Nat := 0x100000000
abbrev hostBase : Nat := 0x1000000000
abbrev portBase : Nat := 0x4000000000

/-- The range of an address without alias bits. -/
def plainRange (a : Nat) : Range :=
  if a < 0x03000000 then .sram .none
  else if a < 0x03080000 then .xram ((a - xramBase) / 0x10000) .none
  else if a < 0x03100000 then .hwt
  else if a < 0x03110000 then .poll
  else if a < 0x03800000 then .unmapped
  else if a < 0x03900000 then .caddy
  else if a < 0x04008000 then .unmapped
  else if a < 0x04210000 then .lram ((a - lramBase) / 0x8000)
  else if a < 0x10000000 then .unmapped
  else if a < 0x10060000 then .pages
  else if a < 0x100000000 then .unmapped
  else if a < 0x500000000 then .dram
  else if a < 0x1000000000 then .unmapped
  else if a < 0x3000000000 then .hostwin
  else if a < 0x4000000000 then .unmapped
  else if a < 0xA000000000 then .portwin ((a - portBase) / 0x1000000000)
  else .unmapped

/-- The range of a device address (R390, R391). -/
def rangeOf (a : Nat) : Range :=
  if a < 2 ^ 45 then plainRange a
  else
    let al := if a / 2 ^ 45 = 1 then Alias.clear else if a / 2 ^ 45 = 2 then Alias.set else Alias.none
    if al = .none then .unmapped
    else match plainRange (a % 2 ^ 45) with
      | .sram _ => .sram al
      | .xram w _ => .xram w al
      | _ => .unmapped

/-- The address of the byte itself, without the alias bit. -/
def plainAddr (a : Nat) : Nat := a % 2 ^ 45

/-- Whether two addresses lie in one row of the address-use table (R86, R89), the alias counted with its memory. -/
def rangeRow (a : Nat) : Nat :=
  match rangeOf a with
  | .sram _ => 1 + 16 * (a / 2 ^ 45)
  | .xram _ _ => 2 + 16 * (a / 2 ^ 45)
  | .hwt => 3
  | .poll => 3
  | .caddy => 4
  | .lram _ => 5
  | .pages => 6
  | .dram => 7
  | .hostwin => 8
  | .portwin _ => 9
  | .unmapped => 0

end Sys2Proof.Machine
end

