-- ==== Sys2Proof/Machine/Pages.lean ====
section
/-!
DEFINITION. The register tables of the pages (R535 and the register tables of each chapter): which offsets are
populated, which bits a write reaches, and what each word holds after reset.
-/

namespace Sys2Proof.Machine

/-- One row of a register table: `n` words from `off`, `stride` bytes apart. -/
structure RegRow where
  off : Nat
  n : Nat := 1
  stride : Nat := 4
  /-- Bits with access RW or RWS. -/
  rw : Nat := 0
  /-- Bits with access W1C. -/
  w1c : Nat := 0
  /-- Bits with access WO or W1S, or RSL bits with a write behaviour. -/
  wo : Nat := 0
  reset : Nat := 0
  /-- The reset value comes from the fuses, in the bits of `fmask`. -/
  fused : Bool := false
  fmask : Nat := 0xFFFFFFFF
  /-- One copy for each agent (R131). -/
  banked : Bool := false
  /-- The RW bits are RWS (R539). -/
  rws : Bool := false

/-- All 32 bits. -/
abbrev m32 : Nat := 0xFFFFFFFF

/-- The common header (R535). -/
def headerRows : List RegRow := [
  { off := 0x000 }, { off := 0x004 }, { off := 0x008, rw := 3, reset := 1 }, { off := 0x00C },
  { off := 0x010 }, { off := 0x014, wo := m32 }, { off := 0x018, w1c := m32 }, { off := 0x01C, rw := 0x10003 },
  { off := 0x020, w1c := 0x80000000 }, { off := 0x024 }, { off := 0x028, w1c := 0x1F }, { off := 0x02C, rw := 0xFF3F },
  { off := 0x030 }, { off := 0x034, wo := m32 }, { off := 0x038, rw := m32 }, { off := 0x03C, wo := 1 }]

def rowsDEV : List RegRow := [
  { off := 0x040, fused := true }, { off := 0x044, fused := true }, { off := 0x048, fused := true },
  { off := 0x04C, fused := true }, { off := 0x050, reset := 0xB1 }, { off := 0x060, n := 3 }]

def rowsPCR : List RegRow := [
  { off := 0x040, rw := 7, reset := 1 }, { off := 0x044, w1c := 0x100 }, { off := 0x048 }, { off := 0x04C },
  { off := 0x050, rw := m32 }, { off := 0x054 }, { off := 0x058, wo := m32 }, { off := 0x05C, rw := m32 },
  { off := 0x060, rw := m32, reset := 0x002203E8 }, { off := 0x064, rw := m32 }, { off := 0x068 },
  { off := 0x06C, reset := m32 }, { off := 0x070, rw := 0x03FF0000 }, { off := 0x074 }, { off := 0x078, rw := m32 },
  { off := 0x07C, rw := m32 }, { off := 0x080, rw := m32 }, { off := 0x084, w1c := 0xF }]

def rowsLDG : List RegRow := [
  { off := 0x040, rw := 3, reset := 3 }, { off := 0x044, rw := 0x1FFF }, { off := 0x048 }, { off := 0x04C },
  { off := 0x050 }, { off := 0x054 }, { off := 0x058 }, { off := 0x05C }, { off := 0x060 },
  { off := 0x064, rw := 0xFFFF, reset := 0x3E8 }, { off := 0x068, rw := 0xFFFF, reset := 0x32 },
  { off := 0x06C, rw := 0x3FFFFF, reset := 0x000A0000 }, { off := 0x070, rw := 0x0FFFFFFF, reset := 0x03E80000 },
  { off := 0x074 }, { off := 0x078, rw := m32 }, { off := 0x07C, rw := m32 }, { off := 0x080, rw := m32 },
  { off := 0x084, w1c := 7 }, { off := 0x100, n := 288, rw := 0xFFFF }, { off := 0x580, n := 144, rw := 0xFFFF, reset := 0x4000 },
  { off := 0x7C0, n := 144, rw := 0xFFFFFF }]

def rowsDRL : List RegRow := [
  { off := 0x040, rw := 1, reset := 1 }, { off := 0x044, rw := m32, reset := 0x22 },
  { off := 0x048, rw := m32, reset := 0x22 }, { off := 0x04C }, { off := 0x050, n := 4, rw := m32 },
  { off := 0x060, w1c := 0xF }, { off := 0x080, n := 4, stride := 16, rw := m32, reset := 0x02EE02EE },
  { off := 0x084, n := 4, stride := 16, rw := 0xFFFF }, { off := 0x088, n := 4, stride := 16 },
  { off := 0x08C, n := 4, stride := 16 }, { off := 0x0C0 }, { off := 0x0C4, rw := 0xFFFFFF00 },
  { off := 0x0C8, rw := 0xFFFF, reset := 0x2EE }, { off := 0x0CC, rw := m32, reset := 0x347 },
  { off := 0x200, n := 32, stride := 16, rw := m32 }, { off := 0x204, n := 32, stride := 16, rw := m32 },
  { off := 0x208, n := 32, stride := 16, rw := m32 }, { off := 0x20C, n := 32, stride := 16, rw := 0x800000FF },
  { off := 0x400, n := 64, rw := m32, fused := true }]

def rowsPWD : List RegRow := [
  { off := 0x040, rw := 0x7FF, reset := 0x201 }, { off := 0x044, rw := 0xFFFF }, { off := 0x048, rw := 0xFFFFFF },
  { off := 0x04C, rw := 0xFFFFFF }, { off := 0x050 }, { off := 0x054, n := 4, rw := m32 }, { off := 0x064, w1c := 0xF },
  { off := 0x100, n := 152, stride := 16, rw := 7, wo := 0xC0000000, reset := 1 },
  { off := 0x104, n := 152, stride := 16, rw := m32 }, { off := 0x108, n := 152, stride := 16 },
  { off := 0x10C, n := 152, stride := 16 }]

def rowsFLT : List RegRow := [
  { off := 0x040, rw := 1 }, { off := 0x044 }, { off := 0x048 }, { off := 0x04C, rw := m32 }, { off := 0x050, rw := m32 },
  { off := 0x054, w1c := 0xFFFF }, { off := 0x058, rw := m32, reset := 0x4000 }, { off := 0x05C, rw := 0xFFFF, reset := 0x6900 },
  { off := 0x060, w1c := 0x1FF }, { off := 0x080, n := 5 }, { off := 0x0A0, n := 8, rw := m32 }, { off := 0x800, n := 512 }]

def rowsSTR : List RegRow := [
  { off := 0x040, rw := 0xFFFF }, { off := 0x044 }, { off := 0x048 }, { off := 0x04C, rw := m32 }, { off := 0x050, w1c := 1 },
  { off := 0x100, n := 256, stride := 8, rw := 0x800000FF }, { off := 0x104, n := 256, stride := 8, rw := m32 }]

def rowsTHM : List RegRow := [
  { off := 0x040, rw := 0xFFFF, reset := 0x418A }, { off := 0x044, n := 3, w1c := m32 }] ++
  (List.range 9).flatMap fun r =>
    let b := 0x100 + 0x80 * r
    [{ off := b, n := 4 }, { off := b + 0x10 }, { off := b + 0x14, rw := 0xFFFF, reset := 0x8000 },
     { off := b + 0x18, rw := 0xFFFF, reset := 0x7FFF }, { off := b + 0x1C }, { off := b + 0x20 },
     { off := b + 0x24, n := 4, rw := 0xFFFF, fused := true, fmask := 0xFFFF }, { off := b + 0x40, n := 8, rw := m32 }]

def rowsHIF : List RegRow := [
  { off := 0x040, rw := 1 }, { off := 0x044 }, { off := 0x048, rw := m32 }, { off := 0x04C, rw := m32 },
  { off := 0x050, rw := 0xFFFFF000 }, { off := 0x054, rw := 0x1F }, { off := 0x058, rw := 0xFF01 }, { off := 0x05C },
  { off := 0x060 }, { off := 0x064, rw := m32 }, { off := 0x06C, w1c := 1 }, { off := 0x070, n := 4, w1c := m32 },
  { off := 0x400, n := 128, rw := 0x03FFFFE0 }, { off := 0x600, n := 128, rw := 0xE01F00FF },
  { off := 0x800, n := 128, rw := m32 }, { off := 0xA00, n := 128, rw := m32 }, { off := 0xC00, n := 128 },
  { off := 0xE00, n := 128, rw := m32 }]

def rowsHWT : List RegRow := [
  { off := 0x040 }, { off := 0x044 }, { off := 0x048, rw := m32 }, { off := 0x04C, w1c := 1 }]

def rowsCE : List RegRow := [
  { off := 0x040, wo := 0xF00000FF }, { off := 0x044, banked := true }, { off := 0x048, rw := m32, banked := true },
  { off := 0x04C, rw := 0xFFFF, banked := true }, { off := 0x050, rw := 0xFF, banked := true }, { off := 0x054 },
  { off := 0x058, rw := 0xFF00 }, { off := 0x05C, rw := 0x3FF }, { off := 0x060, rw := 0xFF, w1c := 0x100 },
  { off := 0x064, n := 4, rw := m32 }, { off := 0x074, w1c := 0xF }, { off := 0x080, n := 16, rw := m32 }]

def rowsWICU : List RegRow := [
  { off := 0x040, rw := m32 }, { off := 0x044, w1c := 1 }] ++
  ((List.range 8).flatMap fun c =>
    let b := 0x100 + 0x40 * c
    [{ off := b, rw := 0xF }, { off := b + 4 }, { off := b + 8 }, { off := b + 0xC }, { off := b + 0x10, wo := m32 },
     { off := b + 0x14, w1c := m32 }, { off := b + 0x18 }, { off := b + 0x1C, wo := m32 }, { off := b + 0x20, w1c := m32 }, { off := b + 0x24, n := 7 },
     { off := 0x304 + 0x80 * c, n := 31, rw := 0x7F, w1c := 0x80000000 }]) ++
  [{ off := 0x780, n := 224, rw := 0x77F, w1c := 0x80000000 }, { off := 0xB80, n := 224, rw := 0x800003FF },
   { off := 0xF00, n := 8 }, { off := 0xF20, n := 8, wo := m32 }, { off := 0xF40, n := 8, w1c := m32 },
   { off := 0xF60, n := 8 }, { off := 0xF80, n := 8, wo := m32 }, { off := 0xFA0, n := 8, w1c := m32 }]

def rowsWMBX : List RegRow := [
  { off := 0x040, wo := 0x70F, banked := true }, { off := 0x044, banked := true }, { off := 0x048, n := 4, rw := m32 },
  { off := 0x058, w1c := 0xF }, { off := 0x060, n := 4, rw := m32, banked := true }] ++
  ((List.range 16).flatMap fun m =>
    let b := 0x100 + 32 * m
    [{ off := b }, { off := b + 4 }, { off := b + 8, rw := m32 }, { off := b + 0xC, wo := 0xFF }, { off := b + 0x10, n := 4 }]) ++
  [{ off := 0x300, n := 16, rw := m32 }, { off := 0x340, n := 16 }, { off := 0x380, n := 16 }]

def rowsMEM : List RegRow := [
  { off := 0x040, rw := 0xFFFFFF, reset := 0xFFFFFF }, { off := 0x044, fused := true }, { off := 0x048 },
  { off := 0x060, n := 8, rw := m32 }, { off := 0x080, w1c := 0xFF }, { off := 0x100, n := 16, rw := 0xFFFF },
  { off := 0x140, n := 16, rw := 0xFFFF }, { off := 0x180, n := 8, rw := m32 }, { off := 0x1A0, rw := m32 }]

def rowsCDY : List RegRow := [
  { off := 0x040, rw := 0xFFFFFFFF }, { off := 0x044, rw := m32 }, { off := 0x048, rw := m32 }, { off := 0x04C, rw := m32 },
  { off := 0x050 }, { off := 0x054, wo := 1 }, { off := 0x058, rw := m32 }, { off := 0x05C, rw := m32 },
  { off := 0x060, w1c := 3 }, { off := 0x064, rw := m32 }]

def rowsNVA : List RegRow := [
  { off := 0x040, rw := 0x03F00000 }, { off := 0x044, rw := 1 }, { off := 0x048, rw := 0xFFFFFFFC }, { off := 0x04C, rw := m32 },
  { off := 0x050, rw := m32 }, { off := 0x054, w1c := 3 }, { off := 0x100, n := 32, stride := 64, wo := 3 },
  { off := 0x104, n := 32, stride := 64, rw := 0x01F0FFFF }, { off := 0x108, n := 32, stride := 64, rw := 0x03FFF3FF },
  { off := 0x10C, n := 32, stride := 64, rw := 0x03FFF3FF }, { off := 0x110, n := 32, stride := 64, rw := m32 },
  { off := 0x114, n := 32, stride := 64, rw := 0x00FF000F, reset := 0x00010009 },
  { off := 0x118, n := 32, stride := 64, rw := 0xFFFFFFFC }, { off := 0x11C, n := 32, stride := 64, rw := m32 },
  { off := 0x120, n := 32, stride := 64, rw := 0x3F }, { off := 0x124, n := 32, stride := 64, rw := m32 },
  { off := 0x128, n := 32, stride := 64, rw := 0x03FF0007 }, { off := 0x12C, n := 32, stride := 64 },
  { off := 0x130, n := 32, stride := 64 }, { off := 0x134, n := 32, stride := 64 }, { off := 0x138, n := 32, stride := 64 },
  { off := 0x13C, n := 32, stride := 64 }]

def rowsWCH : List RegRow := [
  { off := 0x100, n := 64, stride := 8, rw := m32 }, { off := 0x104, n := 64, stride := 8, rw := 0xC03F001F },
  { off := 0x300, n := 16, stride := 16, rw := 0xFFFFF000 }, { off := 0x304, n := 16, stride := 16, rw := m32 },
  { off := 0x308, n := 16, stride := 16, rw := 0xE71F0000 }, { off := 0x30C, n := 16, stride := 16, rw := m32, reset := 0x4000 }]

/-- LATE_WD and ADP_SAT of the paced ports (R179). -/
def rowsPaced : List RegRow := [{ off := 0x0F0, rw := m32 }, { off := 0x0F4, w1c := 1 }]

def rowsI3C : List RegRow := rowsPaced ++ [
  { off := 0x040 }, { off := 0x044, reset := 1 }, { off := 0x048, reset := 3 }, { off := 0x04C, w1c := 0x3F },
  { off := 0x100, n := 6, stride := 128, rw := 0xE0000000, wo := 0x10000000 },
  { off := 0x104, n := 6, stride := 128, rw := 0xFFFF, reset := 0x20 }, { off := 0x108, n := 6, stride := 128, rw := 0xFFFF, reset := 0xC8 },
  { off := 0x10C, n := 6, stride := 128, rw := 0xFFFF, reset := 0x190 }, { off := 0x110, n := 6, stride := 128 },
  { off := 0x114, n := 6, stride := 128 }, { off := 0x118, n := 6, stride := 128 }, { off := 0x11C, n := 6, stride := 128 },
  { off := 0x120, n := 6, stride := 128, rw := m32 }, { off := 0x124, n := 6, stride := 128, rw := m32 },
  { off := 0x128, n := 6, stride := 128, rw := m32 }, { off := 0x12C, n := 6, stride := 128, w1c := 7 }] ++
  (List.range 6).map fun c => { off := 0x140 + 128 * c, n := 11, rw := 0xC0FF00FF }

def rowsSPI : List RegRow := rowsPaced ++ [
  { off := 0x100, n := 4, stride := 64, rw := 0xE0030000 }, { off := 0x104, n := 4, stride := 64, rw := 0xFFFF, reset := 4 },
  { off := 0x108, n := 4, stride := 64, rw := 0xFFFFFF, reset := 0x010101 }, { off := 0x10C, n := 4, stride := 64, rw := 0xF },
  { off := 0x110, n := 4, stride := 64 }, { off := 0x114, n := 4, stride := 64, rw := 0xFF },
  { off := 0x118, n := 4, stride := 64, rw := m32 }, { off := 0x11C, n := 4, stride := 64, rw := m32 },
  { off := 0x120, n := 4, stride := 64, wo := m32 }, { off := 0x124, n := 4, stride := 64, rw := m32 },
  { off := 0x128, n := 4, stride := 64, wo := m32 }, { off := 0x12C, n := 4, stride := 64, rw := m32 },
  { off := 0x130, n := 4, stride := 64, w1c := 3 }]

def rowsUAR : List RegRow := rowsPaced ++ [
  { off := 0x100, n := 4, stride := 64, rw := 0x8000003F }, { off := 0x104, n := 4, stride := 64, rw := 0xFFFFF, reset := 0xD904 },
  { off := 0x108, n := 4, stride := 64, rw := m32 }, { off := 0x10C, n := 4, stride := 64 },
  { off := 0x110, n := 4, stride := 64, rw := m32 }, { off := 0x114, n := 4, stride := 64, rw := m32 },
  { off := 0x118, n := 4, stride := 64, rw := m32 }, { off := 0x11C, n := 4, stride := 64, rw := m32 },
  { off := 0x120, n := 4, stride := 64, wo := m32 }, { off := 0x124, n := 4, stride := 64, rw := m32 },
  { off := 0x128, n := 4, stride := 64, wo := m32 }, { off := 0x12C, n := 4, stride := 64, rw := m32 },
  { off := 0x130, n := 4, stride := 64, w1c := 0xF }]

def rowsGPI : List RegRow := [
  { off := 0x040 }, { off := 0x044 }, { off := 0x048 }, { off := 0x04C, wo := m32 }, { off := 0x050, w1c := m32 },
  { off := 0x054, rw := 0xFFFF }, { off := 0x058, rw := m32 }, { off := 0x05C, w1c := 1 }, { off := 0x100, n := 32, rw := 0x3B }]

def rowsFIF : List RegRow := rowsPaced ++ [
  { off := 0x0F8, w1c := m32 }, { off := 0x100, n := 32, stride := 64, rw := 0xCF070FFF },
  { off := 0x104, n := 32, stride := 64, rw := 0x007F007F }, { off := 0x108, n := 32, stride := 64, wo := 3 },
  { off := 0x10C, n := 32, stride := 64 }, { off := 0x110, n := 32, stride := 64, rw := 0xFFFF },
  { off := 0x114, n := 32, stride := 64, rw := m32 }, { off := 0x118, n := 32, stride := 64 },
  { off := 0x11C, n := 32, stride := 64 }, { off := 0x120, n := 32, stride := 64 }] ++
  (List.range 32).map fun f => { off := 0x124 + 64 * f, n := 7 }

def rowsECP : List RegRow := [
  { off := 0x040, rw := 0x80FF0000, reset := 0x80800000, fused := true, fmask := 0x007F0000 }, { off := 0x044 },
  { off := 0x048, fused := true }, { off := 0x04C, fused := true, fmask := 0xFFFF }, { off := 0x050, reset := 0x600 },
  { off := 0x054 }, { off := 0x058, n := 6, rw := m32 }, { off := 0x070, w1c := 0x3F }, { off := 0x074 }, { off := 0x078, reset := 0x21 },
  { off := 0x100, n := 8, rw := m32 }]

def rowsDRC : List RegRow := [
  { off := 0x040, rw := 0x80000077 }, { off := 0x044 }, { off := 0x048, rw := m32 }, { off := 0x04C, rw := m32 },
  { off := 0x050, w1c := 1 }]


def rowsKTL : List RegRow := [
  { off := 0x040, reset := 0x80000000 }, { off := 0x044, wo := 0x80000001 }, { off := 0x048, wo := m32 },
  { off := 0x04C, w1c := 7, reset := 1 }, { off := 0x060, rw := 0xFFFF, reset := 2 }, { off := 0x064, rw := 0xFFFFE000 },
  { off := 0x068, rw := m32 }, { off := 0x06C, rw := 0x7FE0 }, { off := 0x070, rw := 0x80001FFF },
  { off := 0x100, n := 8, stride := 16, rw := m32 }, { off := 0x104, n := 8, stride := 16, rw := m32 },
  { off := 0x108, n := 8, stride := 16, rw := 0x80, w1c := 6 }, { off := 0x300, n := 16, rw := m32 }, { off := 0x340, n := 16 },
  { off := 0x380, n := 16 }, { off := 0x3C0, rw := m32 }, { off := 0x3C4, w1c := 1 }]

def rowsLCS : List RegRow := [
  { off := 0x040, fused := true, fmask := 0xFF }, { off := 0x044, wo := 0xFFFF000F },
  { off := 0x048, wo := 0x80000000, fused := true, fmask := 0x3F }, { off := 0x04C, w1c := 0x1F }, { off := 0x050 },
  { off := 0x054, rw := m32 }, { off := 0x058, w1c := 1 }]

def rowsFUS : List RegRow := [
  { off := 0x040 }, { off := 0x044, fused := true, fmask := 0x000F3FF3 }, { off := 0x048, fused := true, fmask := 0x7FFFFF7F },
  { off := 0x04C, fused := true, fmask := 0xFFFF }, { off := 0x050, fused := true, fmask := 0xFFFF },
  { off := 0x054, n := 3, fused := true }, { off := 0x080, n := 32, rw := m32, fused := true },
  { off := 0x100, n := 8, rw := m32, fused := true }, { off := 0x200, n := 192, fused := true, fmask := 0xC00FFFFF }]

/-- One arbiter block: the port words that are populated, and the three registers behind them (R426). The offsets that its table lists
as reserved, RO, 0 are rows here as in the other tables, so a read of one gives 0 without BAD_WRITE (log 54). -/
def rowsArb (base : Nat) (ports : List Nat) : List RegRow :=
  ports.map (fun p => { off := base + 4 * p, rw := 0x00FF030F, reset := 0x00100104, rws := true }) ++
  [{ off := base + 0x40, w1c := 0xFFFF }, { off := base + 0x44 }, { off := base + 0x48, rw := m32 },
   { off := base + 0x4C, n := 13 }]

/-- Requester ports of the HUB arbiters (R426). -/
def hubPorts (a : Nat) : List Nat :=
  if a < 16 then List.range 11 else if a < 19 then List.range 4 else if a = 19 then List.range 9 ++ [10] else List.range 5

def rowsHUB : List RegRow :=
  { off := 0x040, w1c := 0x1FFFFF } :: (List.range 21).flatMap fun a => rowsArb (0x100 + 0x80 * a) (hubPorts a)

def rowsWARB : List RegRow :=
  { off := 0x040, w1c := 7 } :: rowsArb 0x100 (List.range 11) ++ rowsArb 0x180 [8, 9, 10, 11] ++
  [{ off := 0x200, rw := 0xFF0000, reset := 0x100000, rws := true }, { off := 0x204, w1c := 0xFF }, { off := 0x208, rw := m32 },
   { off := 0x400, rw := 0xFF, wo := 0x80000000, reset := 3 }, { off := 0x404, rw := m32, reset := 0x100 }, { off := 0x408 },
   { off := 0x40C }]

def rowsBRG : List RegRow := [
  { off := 0x040, n := 2 }, { off := 0x048, rw := 0xFFFF }, { off := 0x04C, wo := m32 }, { off := 0x050, rw := m32 },
  { off := 0x054, wo := m32 }, { off := 0x058, rw := m32 }, { off := 0x05C, rw := m32 }, { off := 0x060, w1c := 1 },
  { off := 0x100, n := 16, rw := 0xFFFF, w1c := 0x80000000 }]

def rowsDBG : List RegRow := [
  { off := 0x040, wo := 3 }, { off := 0x044 }, { off := 0x080, n := 8 }, { off := 0x0C0, n := 16, rw := m32 },
  { off := 0x110, n := 65, stride := 16, rw := 0x90000000, wo := 0x60000000 },
  { off := 0x114, n := 65, stride := 16, rw := 0x8000FFFE }, { off := 0x118, n := 65, stride := 16, rw := 0x8000FFFE },
  { off := 0x11C, n := 65, stride := 16 }, { off := 0x600, rw := 0xFFBF }, { off := 0x604, rw := 0xFF },
  { off := 0x680, rw := 0x83FF03FF }, { off := 0x684, rw := 0xFFFFFFF0 }, { off := 0x688, rw := 0xFFFF },
  { off := 0x68C, rw := 0xF, reset := 4 }, { off := 0x690 }, { off := 0x694, rw := m32 }, { off := 0x698, w1c := 1 }]

def rowsWDM : List RegRow := [
  { off := 0x040, n := 2 }, { off := 0x048, n := 4, rw := m32 }, { off := 0x058, w1c := 0xF },
  { off := 0x100, n := 16, stride := 32, rw := 0xFFFFFFE0 }, { off := 0x104, n := 16, stride := 32, rw := 0xFFFF },
  { off := 0x108, n := 16, stride := 32, rw := 0xC000000F }, { off := 0x10C, n := 16, stride := 32, rw := 0xFFF },
  { off := 0x110, n := 16, stride := 32 }, { off := 0x114, n := 16, stride := 32 },
  { off := 0x118, n := 16, stride := 32, wo := m32 }, { off := 0x11C, n := 16, stride := 32, rw := m32 }]

def rowsWCOR : List RegRow := [
  { off := 0x040, w1c := 0xFFFFFF }, { off := 0x044, rw := 0x7F }, { off := 0x048 },
  { off := 0x100, n := 8, stride := 32, rw := 0xE0000000, reset := 0x80000000 }, { off := 0x104, n := 8, stride := 32 },
  { off := 0x108, n := 8, stride := 32, rw := 0xFFFFFFE0 }, { off := 0x10C, n := 8, stride := 32, rw := 0xFFFF },
  { off := 0x110, n := 8, stride := 32, rw := 0xFFFF }, { off := 0x114, n := 8, stride := 32, rw := m32 },
  { off := 0x118, n := 8, stride := 32, rw := m32 }, { off := 0x11C, n := 8, stride := 32, rw := m32 }]

def rowsXDx : List RegRow := [{ off := 0x040 }, { off := 0x044, rw := m32 }, { off := 0x048, w1c := 1 }]

def rowsXAE : List RegRow := rowsXDx ++ [{ off := 0x100, n := 64, rw := 0xC000FFFF }]

def rowsXCR : List RegRow := [
  { off := 0x040, rw := 0x3FF }, { off := 0x044, wo := 3 }, { off := 0x048 }, { off := 0x04C, rw := m32 },
  { off := 0x050, rw := m32 }, { off := 0x054, w1c := 3 }, { off := 0x080, n := 16, rw := m32, banked := true }]

def rowsPUP : List RegRow := [
  { off := 0x040, reset := 0x50 }, { off := 0x044, rw := m32, reset := 0x200 }, { off := 0x048, rw := m32, reset := 0x0BB8000A },
  { off := 0x04C, rw := 0xFFFF, reset := 0x14 }, { off := 0x050 }, { off := 0x054, rw := m32 }, { off := 0x058, rw := m32 },
  { off := 0x05C, w1c := 3 }]

def rowsPSW : List RegRow := [{ off := 0x040, rw := 0x3F, reset := 0x3F }, { off := 0x044, rw := m32 }, { off := 0x048, w1c := 1 }]

def rowsPDN : List RegRow := [
  { off := 0x040, rw := 0xC0000000 }, { off := 0x044, reset := 0x50 }, { off := 0x048, rw := m32 }, { off := 0x04C, w1c := 1 }]

def rowsPHY : List RegRow := [
  { off := 0x100, n := 4, stride := 32, wo := 1 }, { off := 0x104, n := 4, stride := 32 }, { off := 0x108, n := 4, stride := 32 },
  { off := 0x10C, n := 4, stride := 32, rw := m32 }, { off := 0x110, n := 4, stride := 32, w1c := 1 },
  { off := 0x400, n := 16, stride := 16 }, { off := 0x404, n := 16, stride := 16 },
  { off := 0x408, n := 16, stride := 16, rw := 0x6FF00000, wo := 0x80000000 },
  { off := 0x40C, n := 16, stride := 16, rw := 0xFFFF }, { off := 0x600, n := 128 }]
/-- The block registers of a page. -/
def blockRows (p : Nat) : List RegRow :=
  if p = pgDEV then rowsDEV else if p = pgPCR then rowsPCR else if p = pgLDG then rowsLDG else if p = pgDRL then rowsDRL
  else if p = pgPWD then rowsPWD else if p = pgFLT then rowsFLT else if p = pgSTR then rowsSTR else if p = pgTHM then rowsTHM
  else if p = pgHIF then rowsHIF else if p = pgHWT then rowsHWT else if 0x10 ≤ p ∧ p < 0x20 then rowsCE
  else if 0x20 ≤ p ∧ p < 0x28 then rowsWICU else if 0x28 ≤ p ∧ p < 0x30 then rowsWMBX
  else if p = pgMEM then rowsMEM else if p = pgCDY then rowsCDY else if p = pgDRC then rowsDRC
  else if p = pgNVA then rowsNVA else if p = pgWCH then rowsWCH else if p = pgI3C then rowsI3C else if p = pgSPI then rowsSPI
  else if p = pgUAR then rowsUAR else if p = pgGPI then rowsGPI else if p = pgFIF then rowsFIF else if p = pgECP then rowsECP
  else if p = pgKTL then rowsKTL else if p = pgLCS then rowsLCS else if p = pgFUS then rowsFUS else if p = pgHUB then rowsHUB
  else if p = pgBRG then rowsBRG else if p = pgDBG then rowsDBG else if 0x30 ≤ p ∧ p < 0x38 then rowsWDM
  else if 0x38 ≤ p ∧ p < 0x40 then rowsWCOR else if 0x40 ≤ p ∧ p < 0x48 then rowsWARB else if p = pgXAE then rowsXAE
  else if p = pgXSH ∨ p = pgXDF then rowsXDx else if p = pgXCR then rowsXCR else if p = pgPUP then rowsPUP
  else if p = pgPSW then rowsPSW else if pgPDN ≤ p ∧ p < pgPHY then rowsPDN else if p = pgPHY then rowsPHY
  else []

/-- The row that names an offset. -/
def findRow : List RegRow → Nat → Option RegRow
  | [], _ => none
  | r :: rs, o =>
    if r.off ≤ o ∧ (o - r.off) % r.stride = 0 ∧ (o - r.off) / r.stride < r.n then some r else findRow rs o

/-- The register row at an offset of a page; none where the offset is unpopulated (R7). -/
def regRow (p o : Nat) : Option RegRow :=
  if p < numPages then findRow (if o < 0x40 then headerRows else blockRows p) o else none

/-- The fuse row behind a fused register, by key: those of DEV and LCS report words of FUS, a field moved in place. -/
def fusedWord (k : Nat) : Word :=
  let fus := fun (o : Nat) => Config.fuseWord (pgFUS * 1024 + o / 4)
  if k = pgDEV * 1024 + 0x10 then fus 0x050 &&& 0xFFFF
  else if k = pgDEV * 1024 + 0x11 then fus 0x054
  else if k = pgDEV * 1024 + 0x12 then fus 0x058
  else if k = pgDEV * 1024 + 0x13 then fus 0x05C
  else if k = pgLCS * 1024 + 0x10 then ((fus 0x044 >>> 4) &&& 0xF) * 0x11
  else if k = pgLCS * 1024 + 0x12 then (fus 0x044 >>> 8) &&& 0x3F
  else Config.fuseWord k

/-- What a register word holds after reset, by key. -/
def regReset (k : Nat) : Word :=
  match regRow (k / 1024) (k % 1024 * 4) with
  | some r => if r.fused then BitVec.ofNat 32 r.reset ||| (fusedWord k &&& BitVec.ofNat 32 r.fmask) else BitVec.ofNat 32 r.reset
  | none => 0

end Sys2Proof.Machine
end

