-- ==== Sys2Proof/Machine/SMap.lean ====
section
/-!
DEFINITION. Sparse maps as lists of (key, value) pairs with strictly rising keys and no entry equal to what an absent
key reads as, so that equal contents are equal data.
-/

namespace Sys2Proof.Machine

/-- A sparse map from numbers. -/
abbrev SMap (α : Type) := List (Nat × α)

/-- The entry of a key, if it is listed. -/
def smFind {α : Type} : SMap α → Nat → Option α
  | [], _ => none
  | (k', v) :: m, k => if k = k' then some v else if k < k' then none else smFind m k

/-- The value of a key, `dflt` where it is not listed. -/
def smGet {α : Type} (m : SMap α) (k : Nat) (dflt : α) : α := (smFind m k).getD dflt

/-- The map with a key listed with a value. -/
def smPut {α : Type} : SMap α → Nat → α → SMap α
  | [], k, v => [(k, v)]
  | (k', v') :: m, k, v =>
    if k = k' then (k, v) :: m else if k < k' then (k, v) :: (k', v') :: m else (k', v') :: smPut m k v

/-- The map without a key. -/
def smErase {α : Type} : SMap α → Nat → SMap α
  | [], _ => []
  | (k', v') :: m, k => if k = k' then m else if k < k' then (k', v') :: m else (k', v') :: smErase m k

/-- The map with a key given a value; the value an absent key reads as removes the entry. -/
def smSet {α : Type} [DecidableEq α] (m : SMap α) (k : Nat) (v dflt : α) : SMap α :=
  if v = dflt then smErase m k else smPut m k v

/-- Strictly rising keys, all above `b`. -/
def smSorted {α : Type} : Option Nat → SMap α → Bool
  | _, [] => true
  | none, (k, _) :: m => smSorted (some k) m
  | some b, (k, _) :: m => decide (b < k) && smSorted (some k) m

/-- The canonical form with one default for every key. -/
def smWf {α : Type} [DecidableEq α] (dflt : α) (m : SMap α) : Bool :=
  smSorted none m && m.all fun e => decide (e.2 ≠ dflt)

end Sys2Proof.Machine
end

