-- ==== Sys2Proof/Machine/State.lean ====
section
/-!
DEFINITION. The state of the block as plain data: one structure per group of the spec's state, the device that holds
them all, and the queue of waiting commands. A register that is no more than a stored word is an entry of `regs`, by
page and offset; its reset value is `regReset`.
-/

namespace Sys2Proof.Machine

/-! ## Time, energy and device arithmetic (chapter 02) -/

/-- Trust state of the pacer (R45). -/
inductive Trust where
  | trusted | holdover | untrusted
  deriving DecidableEq, Repr

/-- Interpolator in use (PCR.STAT.INTERP). -/
inductive Interp where
  | none | ring | refclk
  deriving DecidableEq, Repr

/-- The pacer's state in domain 0 (R39, R41, R43–R47). -/
structure Pacer where
  /-- DT64 value of the last boundary. -/
  base : DT := 0
  /-- DT units in the current period. Reset: DESIGN CHOICE nominal (log 5). -/
  inc : BitVec 18 := 0x20000
  /-- Fraction carried from period to period. -/
  frac : BitVec 24 := 0
  /-- Ring counts since the last accepted edge. -/
  ring : Nat := 0
  /-- REFCLK counts since the last accepted edge. -/
  ref : Nat := 0
  /-- Counts over the previous period (PCR.RING_PREV). -/
  prev : BitVec 16 := 0
  /-- Last value returned to any reader. -/
  last : DT := 0
  /-- Ring count over the last period that ended at an accepted edge (R46). -/
  ringRef : Nat := 0
  trust : Trust := .untrusted
  interp : Interp := .none
  wasUntrusted : Bool := false
  refOk : Bool := false
  xtalOk : Bool := false
  /-- Consecutive accepted edges since entry to the trust state (R45). -/
  edgeRun : Nat := 0
  /-- The crystal is declared missing (R44). -/
  missing : Bool := false
  /-- Synthetic boundaries made since the last accepted edge (R46). -/
  synth : Nat := 0
  /-- The REFCLK count at the last synthetic boundary since the last accepted edge. -/
  refMark : Nat := 0
  /-- RATE_ADJ as the last accepted edge took it (R41). -/
  rate : Int := 0
  /-- DT64 at entry to HOLDOVER (R45). -/
  hoEntry : DT := 0
  /-- HOST_TIME_OFFSET (R48–R50). -/
  hostOfs : DT := 0
  ptmValid : Bool := false
  /-- No pair accepted since SRC became 3 or since PTM_VALID was last 0 (R49). -/
  ptmFirst : Bool := true
  /-- D of the previous accepted pair (R49). -/
  ptmPrevD : DT := 0
  /-- A PTM dialogue is in progress (R48). -/
  ptmBusy : Bool := false
  /-- The pacer runs on an external clock at XTAL32_IN, not on a crystal: XTAL32_BYP as it stood at the power-on reset (R552). Reset:
  DESIGN CHOICE a crystal (log 5). -/
  extClock : Bool := false
  deriving DecidableEq, Repr

/-- The kinds of wake list owner (PCR.WL_OWNER.KIND). -/
inductive WlKind where
  | subch | core | ktimer
  deriving DecidableEq, Repr

/-- One wake list entry (R51–R56). -/
structure WlEntry where
  target : DT
  kind : WlKind
  id : Nat
  deriving DecidableEq, Repr

/-- The energy ledger (R57–R67). -/
structure Ledger where
  /-- Q56.8 accumulators by tag. -/
  acc : SMap DT := []
  /-- Remainders by tag. -/
  rem : SMap Nat := []
  pkgAcc : DT := 0
  pkgRem : Nat := 0
  /-- Pending event counts, keyed (region × 32 + kind) × 8192 + tag. -/
  pend : SMap Nat := []
  g : BitVec 16 := 0x4000
  s : BitVec 20 := 0x40000
  /-- Raw charge of regions 5 to 8 in the current second, units of 2^-16 pJ (R66). -/
  eraw : Nat := 0
  /-- Sum of V × code over the second's samples (R66). -/
  vcode : Nat := 0
  clipSec : Bool := false
  untrSec : Bool := true
  /-- The current second is whole and EN was 1 at its start (R562). -/
  secWhole : Bool := true
  deriving DecidableEq, Repr

/-- The energy governor (R69–R74). -/
structure Governor where
  /-- The last tick figures, newest first, at most 4,095. -/
  hist : List Nat := []
  /-- Package total at the last tick. -/
  lastPkg : DT := 0
  /-- Charge of each service-die region since the last tick, units of 2^-16 pJ. -/
  tickCharge : SMap Nat := []
  /-- The energy-ceiling SUMMARY bit (R74). -/
  ceilBit : Bool := false
  deriving DecidableEq, Repr

/-! ## Channel command words and subchannels (chapters 03 and 04) -/

/-- The fields of a channel command word (R79). -/
structure Ccw where
  op : Byte := 0
  flagsA : Byte := 0
  flagsB : Byte := 0
  mod_ : Byte := 0
  count : Word := 0
  addr : BitVec 64 := 0
  param : BitVec 64 := 0
  xdt : BitVec 16 := 0
  ebound : BitVec 16 := 0
  deadline : Word := 0
  deriving DecidableEq, Repr

/-- STATE of a subchannel (R128). -/
inductive SubState where
  | idle | pending | active | waiting | suspended | draining | stopped
  deriving DecidableEq, Repr

/-- Wait cause of a subchannel (R128). -/
inductive Cause where
  | none | time | event | device | spoke | ring | slot
  deriving DecidableEq, Repr

/-- The subchannel control block (R128). -/
structure Scb where
  state : SubState := .idle
  inChain : Bool := false
  suspReq : Bool := false
  haltReq : Bool := false
  cause : Cause := .none
  headFb : BitVec 4 := 0
  cls : BitVec 2 := 0
  ring : BitVec 7 := 0
  binding : Word := 0
  ccwAddr : BitVec 48 := 0
  residual : Word := 0
  lastDevstat : Word := 0
  programT0 : DT := 0
  startMark : BitVec 64 := 0
  ccwMark : BitVec 64 := 0
  budget : BitVec 16 := 0
  headOp : Byte := 0
  headMod : Byte := 0
  headXdt : BitVec 16 := 0
  headEbound : BitVec 16 := 0
  headParam : BitVec 64 := 0
  deriving DecidableEq, Repr

/-- An exception found for the CCW in execution (R170): the record's CODE, DEVSTAT and RESIDUAL. -/
structure Exc where
  code : Byte
  devstat : Word
  residual : Word
  /-- The bytes of operations still outstanding count into RESIDUAL, which is taken once they have completed. -/
  counts : Bool := false
  deriving DecidableEq, Repr

/-- A status record to be formed (R162). -/
structure RecPlan where
  kind : Byte
  code : Byte
  residual : Option Word := Option.none
  devstat : Option Word := Option.none
  /-- Event LATE and user records have no further fields; the CCW address where it is not the SCB's. -/
  ccwAddr : Option (BitVec 48) := Option.none
  deriving DecidableEq, Repr

/-- What a subchannel becomes once its planned records are in its ring (R138). -/
inductive After where
  /-- PENDING to fetch the CCW at an address. -/
  | next (addr : BitVec 48)
  /-- The program has ended normally. -/
  | idle
  | stopped
  | suspended
  /-- The CCW goes on to its execution (after a NOTICE). -/
  | execute
  /-- The CCW goes on to its completion (after a POST record). -/
  | complete
  deriving DecidableEq, Repr

/-- Where in its current CCW a subchannel stands. -/
inductive Phase where
  /-- A CCW is to be fetched. -/
  | fetch
  /-- The fetch request is outstanding. -/
  | fetching
  /-- Validated, to be executed (step 7 of R145). -/
  | ready
  /-- In execution. -/
  | running
  /-- All data moved; the read that acknowledges host window writes is outstanding (R558). -/
  | flush
  /-- Executed; its completion is to run (step 8 of R145). -/
  | done
  deriving DecidableEq, Repr

/-- One memory area of a CCW in use: the next byte's address, the bytes left, and the row it must stay in (R89). -/
structure Area where
  addr : Nat := 0
  left : Nat := 0
  row : Nat := 0
  deriving DecidableEq, Repr

/-- How a device operation ended: the status of R176, the bytes transferred, surplus data, the data it returns. -/
structure OpRes where
  status : Word := 0
  bytes : Nat := 0
  long : Bool := false
  poison : Bool := false
  data : List Byte := []
  deriving DecidableEq, Repr

/-- One device operation that holds an in-flight slot (R142). -/
structure DevOp where
  /-- Order of issue, unique in the device. -/
  id : Nat
  slot : Nat
  /-- NVMe: the command identifier; otherwise 0. -/
  cid : BitVec 16 := 0
  /-- NVMe: its submission queue entry, until it is written. -/
  entry : List Byte := []
  /-- The operation's share of the CCW's bytes, from the byte `start`. -/
  start : Nat := 0
  len : Nat := 0
  /-- DT64 at which it was issued. -/
  issued : DT := 0
  /-- Its outcome, where the device's own state gives it. -/
  res : Option OpRes := none
  /-- The engine has taken its completion, and its slot is free (R142). -/
  taken : Bool := false
  deriving DecidableEq, Repr

/-- What the engine holds for a subchannel beside its SCB. -/
structure Ctx where
  phase : Phase := .fetch
  /-- The CCW in execution; a successor's ignored fields are its head's (R122). -/
  ccw : Ccw := {}
  /-- FLAGS_A of the chain's head (R148). -/
  headA : Byte := 0
  /-- Control transfers in a row (R100). -/
  ticRun : Nat := 0
  /-- First execution after RESUME (R155). -/
  resumed : Bool := false
  /-- A command boundary of R154 has been reached and the next CCW is not yet fetched. -/
  boundary : Bool := false
  /-- The address the program continues at (R83). -/
  nextAddr : BitVec 48 := 0
  /-- Row of the address-use table in which the program lies, for sequential addresses (R83). -/
  row : Option Nat := none
  /-- The CCW in execution or fetched is a successor of a data chain (R121). -/
  succ : Bool := false
  /-- A TIC was taken between the chain's last CCW and the one being fetched (R121). -/
  chainTic : Bool := false
  /-- Order in which the current wait began (R107). -/
  waitSeq : Nat := 0
  /-- When the CCW started (R31). -/
  started : DT := 0
  /-- Bytes of the current CCW transferred at the source side (R170). -/
  moved : Nat := 0
  /-- Bytes of the chain transferred before the current CCW. -/
  chainMoved : Nat := 0
  /-- The area in use, and the address of the next IDAL entry. -/
  area : Area := {}
  idalNext : Nat := 0
  /-- Destination of the next byte (MOVE), the row it must stay in, and whether an overlapping copy runs downward (R114). -/
  dest : Nat := 0
  destRow : Nat := 0
  backward : Bool := false
  /-- Bytes of COUNT for which the areas of a READ or SENSE have been used (R124). -/
  stored : Nat := 0
  /-- Last dword the CCW wrote in the host window (R558). -/
  hostWrote : Option Nat := none
  /-- Host window read in flight: address and length; and the bytes that answered it. -/
  hostReq : Option (Nat × Nat) := none
  hostGot : Option (Nat × List Byte) := none
  /-- Operations that hold slots, in byte order. -/
  ops : List DevOp := []
  /-- Bytes of the CCW for which operations have been issued. -/
  issuedTo : Nat := 0
  /-- Bytes of the burst the paced port has reserved, and those a port has sent with it (R178). -/
  burst : Nat := 0
  /-- Data collected for an operation, received with a burst, or staged. -/
  data : List Byte := []
  /-- The device ended the transfer: its status, and whether data were left over. -/
  devEnd : Option (Word × Bool) := none
  /-- Exception found, not yet posted (R171). -/
  exc : Option Exc := none
  /-- Records still to be posted, and what follows them. -/
  plan : List RecPlan := []
  after : Option After := none
  /-- HALT or draining has cut the CCW short: it ends once its operations have completed (R164, R167). -/
  cut : Bool := false
  /-- Slot granted to a subchannel that waited with cause SLOT (R143). -/
  granted : Option Nat := none
  /-- Areas taken for the NVMe command being built: address and length (R188). -/
  segs : List (Nat × Nat) := []
  /-- Waiting for a reply from this mailbox (CALL_SPOKE). -/
  spoke : Option Nat := none
  /-- Bytes of the CCW fed to its device or stream from memory, or from the staging area. -/
  fed : Nat := 0
  /-- Output of a READ's stream still to be written; and whether the stream has failed behind it. -/
  outq : List Byte := []
  outErr : Bool := false
  /-- Completed operations count as transferred: none before them in byte order has failed (R177). -/
  counting : Bool := true
  /-- Bytes of the data area to be passed over, those of failed operations (R177). -/
  hole : Nat := 0
  /-- Output bytes of the chain that have left the stream for the device or the staging area, and those covered by
  operations issued (R197). -/
  stage : Nat := 0
  outTo : Nat := 0
  /-- Bytes of a mailbox message that are left for the CCWs that follow in the chain (R212). -/
  rest : List Byte := []
  /-- Pages of the NVMe command under way that earlier CCWs of the chain hold, and where its last area ended (R191). -/
  nvPages : Nat := 0
  nvEnd : Nat := 0
  /-- The operation that is the flush read of a PCIe memory WRITE or CONTROL with ORD (R174). -/
  flushOp : Option Nat := none
  deriving DecidableEq, Repr

/-- A channel engine's own state (R107, R140–R143). -/
structure Engine where
  /-- Pending arrivals by event, with 256 added where the overflow bit is set (R107). -/
  arr : SMap Nat := []
  /-- Local number last dispatched in each class. Reset: DESIGN CHOICE 255, so that the first is 0 (log 5). -/
  last0 : Nat := 255
  last1 : Nat := 255
  last2 : Nat := 255
  last3 : Nat := 255
  /-- Slots held by operations of cleared subchannels (R166): slot × 256 + local number, with their CID. -/
  reaping : List (Nat × Nat) := []
  /-- Generation of each slot (R192). Reset: DESIGN CHOICE 0 (log 5). -/
  gens : SMap Nat := []
  highWater : Nat := 0
  deriving DecidableEq, Repr

/-- The boundary image of one subchannel (R169). -/
structure Image where
  state : SubState := .idle
  ccwAddr : BitVec 48 := 0
  residual : Word := 0
  deriving DecidableEq, Repr

/-! ## Port adapters (chapter 05) -/

/-- The GPIO block's pins (R210, R220, R221). -/
structure Gpi where
  /-- The input level the device has taken (GPI.LEVEL). -/
  level : Word := 0
  /-- The levels on the pins. -/
  raw : Word := 0
  /-- DT64 of each pin's last change of raw level. -/
  since : SMap DT := []
  deriving DecidableEq, Repr

/-- What stands in a UART receive buffer: a byte, or the place where one was discarded (R208, R209). -/
inductive RxItem where
  | byte (b : Byte)
  | framing | parity | lost | brk
  deriving DecidableEq, Repr

/-- One UART (R207–R209, R214). -/
structure Uart where
  rx : List RxItem := []
  /-- Bytes at the front that a reserved burst holds (R178). -/
  reserved : Nat := 0
  /-- A receive flush waits for the burst (R179). -/
  flushPend : Bool := false
  /-- BREAK_NOW. -/
  inBreak : Bool := false
  /-- Level of the RX ball. -/
  pin : Bool := true
  /-- DT64 from which RX_IDLE counts, and the end of the last character received. -/
  since : DT := 0
  lastRx : DT := 0
  /-- DT64 at which the last character in the transmit buffer has left the pin with its stop bits (R207). -/
  txEnd : DT := 0
  /-- DT64 until which TX is held high after a break (R207). -/
  txHold : DT := 0
  deriving DecidableEq, Repr

/-- One SPI port (R206, R215, R216). -/
structure Spi where
  /-- The subchannel for which the select is held (R206). -/
  heldBy : Option Nat := none
  /-- Chip select in use. -/
  cs : Nat := 0
  tgtSel : Bool := false
  deriving DecidableEq, Repr

/-- One I3C controller (R204, R205, R217, R218). -/
structure I3c where
  ibiValid : Bool := false
  ibiAddr : BitVec 7 := 0
  ibi : List Byte := []
  daaBusy : Bool := false
  /-- DAT entries whose target holds the dynamic address. -/
  assigned : List Nat := []
  /-- Interrupts not accepted, by address (R218). -/
  unaccepted : SMap Nat := []
  deriving DecidableEq, Repr

/-- The EC target port (R222, R223, R251). -/
structure Ecp where
  /-- In-band interrupts disabled by the EC. -/
  disec : Bool := false
  /-- An interrupt is to be raised, and the attempts made for it. -/
  ibiPend : Bool := false
  tries : Nat := 0
  /-- The urgent byte at the end of the last step (R251). -/
  urgPrev : Byte := 4
  deriving DecidableEq, Repr

/-- A request that an adapter sends through a downstream port: a doorbell (R193, R194), or one of a PCIe memory window (R202); a
read has no data. -/
structure Tlp where
  port : Nat
  write : Bool
  addr : BitVec 64
  len : Nat
  data : List Byte
  deriving DecidableEq, Repr

/-- STATE of a lent queue (NVA.LQ_CTRL). -/
inductive LqState where
  | free | lent | revoking
  deriving DecidableEq, Repr

/-- One outstanding NVMe command (R192–R196): its CID, subchannel and slot, and DT64 of its doorbell write. -/
structure NvCmd where
  cid : BitVec 16
  sub : Nat
  slot : Nat
  op : Nat
  rung : DT
  deriving DecidableEq, Repr

/-- One lent queue (R183–R198). -/
structure LentQ where
  state : LqState := .free
  lendErr : Bool := false
  phase : Bool := false
  sqHead : Nat := 0
  sqTail : Nat := 0
  cqHead : Nat := 0
  cmds : List NvCmd := []
  /-- The subchannel whose XF command uses the staging area (R197). -/
  stager : Option Nat := none
  /-- A watched write into the CQ has reached the adapter, which has still to scan (R194). -/
  due : Bool := false
  deriving DecidableEq, Repr


/-! ## Status posting (chapter 06) -/

/-- A status record as formed (R224); its SEQ is given as it enters the ring (R225). -/
structure Rec where
  sub : Nat
  kind : Byte
  code : Byte
  residual : Word
  ccwAddr : BitVec 48
  time : DT
  energy : Word
  devstat : Word
  deriving DecidableEq, Repr

/-- A record waiting for ring space (R231, R232), in the order of formation. -/
structure WaitRec where
  ring : Nat
  record : Rec
  /-- The subchannel that formed it still waits for it. -/
  live : Bool := true
  deriving DecidableEq, Repr

/-- An ENGINE_CHECK record not yet formed, because its subchannel's slot in the store is taken (R232). -/
structure PendingCheck where
  sub : Nat
  cause : Word
  image : Image
  /-- RING and START_MARK of the subchannel at the fence. -/
  ring : Nat
  startMark : BitVec 64
  deriving DecidableEq, Repr

/-- The posting logic and HIF (R224–R252). -/
structure Hif where
  /-- Producer indices by ring. -/
  prod : SMap Word := []
  /-- Mirrored indices by ring. -/
  mirrored : SMap Word := []
  /-- Flush targets by ring. -/
  flushTo : SMap Word := []
  /-- Rings the running flush has passed (R241): all below this number. -/
  flushPos : Nat := 0
  flushing : Bool := false
  postSync : Bool := false
  store : List WaitRec := []
  checks : List PendingCheck := []
  /-- The next-poll declaration in force and whether it was reached (R243). -/
  nextPoll : DT := 0
  pollReached : Bool := false
  /-- Engine numbers of the records between consumer and producer index, oldest first, by ring (R245). -/
  unread : SMap (List Nat) := []
  deriving DecidableEq, Repr

/-! ## Data movers (chapter 07) -/

/-- STATE of a mover channel (WDM.CH_HEAD). -/
inductive MvState where
  | off | idle | ready | running | braked | error
  deriving DecidableEq, Repr

/-- One channel of a mover (R253–R262). -/
structure MvChan where
  state : MvState := .off
  head : Nat := 0
  tail : Nat := 0
  stalled : Bool := false
  resid : Word := 0
  /-- The running CRC, before the final XOR (R268). -/
  crc : Nat := 0xFFFFFFFF
  deriving DecidableEq, Repr

/-- The descriptor that a mover has in progress. -/
structure MvDesc where
  /-- The 32 bytes as read. -/
  bytes : List Byte := []
  /-- ERR found. -/
  err : Nat := 0
  /-- Source and destination overlap, and blocks run descending (R274). -/
  ovlp : Bool := false
  down : Bool := false
  /-- Stream offset of the block in progress of an overlapped transfer. -/
  blk : Nat := 0
  /-- Stream bytes read, and bytes written to the destination. -/
  rpos : Nat := 0
  wpos : Nat := 0
  /-- Bytes read and not yet swapped; bytes to be written. -/
  raw : List Byte := []
  out : List Byte := []
  /-- The CRC register over the stream so far. -/
  crc : Nat := 0xFFFFFFFF
  /-- The half notice has been raised. -/
  half : Bool := false
  /-- Last dword written in the host window (R269). -/
  hostWrote : Option Nat := none
  /-- Bytes that the host has acknowledged, and those that the read outstanding will acknowledge (R269). -/
  acked : Nat := 0
  flushTo : Option Nat := none
  hostReq : Option (Nat × Nat) := none
  hostGot : Option (Nat × List Byte) := none
  deriving DecidableEq, Repr

/-- One mover (R253, R261). -/
structure Mover where
  /-- Channel running or last run. -/
  chan : Nat := 0
  /-- The search of R261 starts at channel 0. -/
  fresh : Bool := true
  running : Bool := false
  /-- The run ends after the descriptor just handed back: LAST was set in it. -/
  last : Bool := false
  cur : Option MvDesc := none
  deriving DecidableEq, Repr


/-! ## Port FIFOs (chapter 08) -/

/-- One stage of a FIFO chain (R277). -/
structure Stage where
  data : List Byte
  eop : Bool := false
  bad : Bool := false
  /-- A check error injected or found at this stage: 1 single, 2 double. -/
  err : Nat := 0
  deriving DecidableEq, Repr

/-- What a receive latch holds: a byte, or the end of a packet, good or BAD, which has had some byte or none. -/
inductive LatchItem where
  | byte (b : Byte)
  | packetEnd (bad some : Bool)
  deriving DecidableEq, Repr

/-- One port FIFO (R277–R292). -/
structure Fifo where
  /-- Stages, head first, at most 64. -/
  chain : List Stage := []
  /-- The assembly word, at most 8 bytes (R278). -/
  asm : List Byte := []
  /-- The 16-byte receive latch, filled while the chain is full (R282), with the packet ends between its bytes. -/
  latch : List LatchItem := []
  inPkt : Bool := false
  /-- Bytes of the packet in progress, for PKT_MAX. -/
  pktLen : Nat := 0
  /-- A consumer has started on the head packet (R283). -/
  begun : Bool := false
  /-- The rest of the packet in progress is discarded (R282). -/
  discard : Bool := false
  flushPend : Bool := false
  /-- A DROP is written and waits for a burst; and one has stages still to discard. -/
  dropReq : Bool := false
  dropPend : Bool := false
  /-- Stages reserved for the adapter's burst (R285). -/
  reserved : Nat := 0
  deriving DecidableEq, Repr

/-! ## Transform streams (chapter 09) -/

/-- A stream that holds its engines (R294–R298); it belongs to one subchannel. -/
structure Stream where
  /-- Descriptor index and the copy taken (R298). -/
  idx : Nat := 0
  desc : List Byte := []
  /-- The result area as it stood at the take (R304–R306). -/
  area : List Byte := []
  /-- Engines held: kind × 16 + number (kinds 0 AES, 1 SHA, 2 DEFLATE). -/
  engs : List Nat := []
  /-- The key held in the AES engine (R314). -/
  key : List Byte := []
  /-- The first tweak value, where TWEAK is 1 (R301). -/
  first : Nat := 0
  /-- Output goes to memory or a device, so CAPACITY holds (R309). -/
  stored : Bool := true
  /-- The stream bytes stage 0 has taken, and the bytes of final output that have left the last stage. -/
  inp : List Byte := []
  out : Nat := 0
  /-- It has taken its last byte; its last output may still be on its way. -/
  ended : Bool := false
  /-- OP and channel engine of the CCW. -/
  op : Byte := 0
  deriving DecidableEq, Repr

/-- A stream that waits for its descriptor or its engines (R297). -/
structure StreamWait where
  sub : Nat
  cls : Nat
  seq : Nat
  deriving DecidableEq, Repr

/-! ## Speton cores (chapter 10) -/

/-- STATE of a core (CORE_STAT). -/
inductive CoreState where
  | reset | booting | running | waiting | debugHalt | bootErr | faultStop
  deriving DecidableEq, Repr

/-- A load whose data have not been taken (R334–R336). -/
structure PendLoad where
  /-- Destination registers, low byte first. -/
  dests : List Nat
  /-- Core-view address, and the address of the load instruction. -/
  addr : Nat
  pc : BitVec 16
  /-- The device address of a load through the window; and whether its read has gone to the host. -/
  target : Nat := 0
  host : Bool := false
  /-- The data, once arrived; or the BUSERR detail of a failed load. -/
  data : Option (List Byte) := none
  fail : Option Nat := none
  /-- Number among the core's accesses that had to wait (R344); 0 where it did not. -/
  order : Nat := 0
  /-- The data have returned to the core. -/
  arrived : Bool := false
  /-- The stack read of a RET or RETI, which waits for it (log 8). -/
  ofReturn : Bool := false
  /-- The instruction after the load has executed. -/
  nextDone : Bool := false
  /-- Registers that instruction wrote. -/
  over_ : List Nat := []
  deriving DecidableEq, Repr

/-- One Speton-8 core (R320–R357). -/
structure Core where
  state : CoreState := .reset
  g : SMap Byte := []
  pc : BitVec 16 := 0
  c : Bool := false
  z : Bool := false
  n : Bool := false
  v : Bool := false
  i : Bool := false
  /-- CSR bytes 0x02–0x37 as CSRR returns them, 0 where not listed; TAG_HI is held with its bit 7 inverted. -/
  csr : SMap Byte := []
  /-- WBASE, TAG (AGENT and number) and PCMP in force (R322). -/
  wbase : BitVec 48 := 0
  tagAgent : Bool := true
  tagNum : BitVec 12 := 0
  pcmp : DT := 0
  refused : Bool := false
  fired : Bool := false
  armed : Bool := false
  /-- Loads whose data have not been taken, oldest first. -/
  pend : List PendLoad := []
  /-- No interrupt at the present boundary (R336, R350). -/
  noInt : Bool := false
  /-- Branch target buffer: entry number ↦ (branch, target, order of allocation) (R341). -/
  btb : SMap (Nat × Nat × Nat) := []
  /-- Read latch: page, register offset, bytes (R328). -/
  rlatch : Option (Nat × Nat × List Byte) := none
  /-- Write latch: page, register offset, bytes with their marks. -/
  wlatch : Option (Nat × Nat × List (Option Byte)) := none
  /-- Number of the next access that has to wait (R344). -/
  order : Nat := 1
  /-- The 32-byte row of local RAM that the fetch buffer holds (R401). -/
  fetchRow : Option Nat := none
  /-- The last sample of NOW (R325). -/
  nowSample : DT := 0
  /-- Errors that targets have still to report for posted stores: detail and address (R346). -/
  storeErrs : List (Nat × Nat) := []
  /-- What the core was doing when the debug port halted it. -/
  haltedIn : CoreState := .running
  /-- The instruction at PC runs although a breakpoint names it (R509). -/
  skipBp : Bool := false
  /-- One instruction is to be executed, and the core halts again (R509). -/
  stepping : Bool := false
  /-- COMPLETE_CNT of the core's WICU view (R372). -/
  completeCnt : Byte := 0
  /-- THRESH of the kettle core's interrupt view (R495). -/
  kThresh : Nat := 0
  deriving DecidableEq, Repr

/-! ## Wheel interrupts, mailboxes and locks (chapter 11) -/

/-- One interrupt source (R359–R370). -/
structure Src where
  count : BitVec 8 := 0
  ovf : Bool := false
  latch : Bool := false
  /-- The core it is ACTIVE for. -/
  active : Option Nat := none
  target : Nat := 0
  sense : Nat := 0
  prio : Nat := 0
  mask : Bool := true
  /-- The level as it was last followed (R362). -/
  level : Bool := false
  deriving DecidableEq, Repr

/-- One mailbox (R375). -/
structure Mbox where
  full : Bool := false
  call : Bool := false
  target : Nat := 0
  sender : Nat := 0
  postTime : Word := 0
  reply : Word := 0
  msg : List Byte := List.replicate 16 0
  deriving DecidableEq, Repr

/-- One lock (R382–R386). -/
structure Lock where
  owner : Option Nat := none
  broken : Bool := false
  time : Word := 0
  /-- Bits 7:0 of LOCK_INFO after the last release. -/
  lastOwner : Nat := 0
  deriving DecidableEq, Repr

/-! ## Memory (chapter 12) -/

/-- The caddy's wipe and the CDY.ACCESS writes it holds (R409). -/
structure Caddy where
  wiping : Bool := false
  held : List (Nat × Word) := []
  deriving DecidableEq, Repr


/-! ## Arbiters (chapter 13) -/

/-- What an arbiter keeps between grants (R427, R430, R433). -/
structure Arb where
  /-- Credit by port, where it differs from 4, the WEIGHT after reset. -/
  credit : SMap Nat := []
  waited : SMap Nat := []
  /-- Ports whose starvation has been reported since they were last granted. -/
  told : List Nat := []
  /-- Pointer by class. -/
  ptr : SMap Nat := []
  deriving DecidableEq, Repr


/-! ## Power domains (chapter 14) -/

/-- Domain states (R435). -/
inductive PState where
  | active | freewheel | doze | nap | off
  deriving DecidableEq, Repr

/-- A power transition in progress (R436). -/
inductive Trans where
  | none
  /-- Entering, step by step, toward a state. -/
  | entering (goal : PState)
  /-- Exiting to FREEWHEEL; on demand (R25), for a known event, or neither. -/
  | exiting (demand : Bool) (known : Option DT)
  deriving DecidableEq, Repr

/-- One power domain (R435–R450, R470). -/
structure Dom where
  state : PState := .active
  trans : Trans := .none
  /-- IDLE_HOLD has passed without interruption (R438). -/
  eligible : Bool := false
  wakeAt : Option DT := Option.none
  /-- The known event the scheduled wake was set for (R449). -/
  wakeFor : DT := 0
  cycling : Bool := false
  fenceReq : Bool := false
  fenceF : Bool := false
  fenceW : Bool := false
  wakes : Word := 0
  late : Word := 0
  unplanned : Word := 0
  aborted : Word := 0
  cntSat : BitVec 4 := 0
  deriving DecidableEq, Repr

/-- A measured exit latency with its conditions (R446). -/
structure LatEntry where
  lat : Nat
  volt : Nat
  temp : BitVec 16
  deriving DecidableEq, Repr

/-- A measured transition energy with its voltage (R447). -/
structure EnEntry where
  pj : Nat
  volt : Nat
  deriving DecidableEq, Repr

/-- A derailleur schedule slot in force (R441). -/
structure Slot where
  time : DT
  dom : Nat
  deriving DecidableEq, Repr

/-- VDD_CORE requests to the PMIC (R454, R455). -/
structure Pmic where
  /-- Voltage requested, in force, in steps of 12.5 mV. -/
  req : Nat := 60
  now : Nat := 60
  /-- A write in progress, its target and NACKs so far. -/
  busy : Option Nat := none
  nacks : Nat := 0
  /-- A raise waits for PMIC_SETTLE. -/
  settling : Option Nat := none
  deriving DecidableEq, Repr

/-- Region voltages and sensors (R451–R457). -/
structure Region where
  /-- Voltage in force, steps of 12.5 mV. -/
  volt : Nat := 60
  cap : Nat := 60
  floor : Nat := 44
  unmet : Bool := false
  temp : BitVec 16 := 0x6900
  readings : List (BitVec 16) := [0, 0, 0, 0]
  failed : BitVec 4 := 0
  warned : BitVec 4 := 0
  /-- Measured voltage in mV where a regulation fault reported one. -/
  meas : Option Nat := none
  deriving DecidableEq, Repr

/-! ## Faults (chapter 15) -/

/-- One fault log entry (R465). -/
structure LogEntry where
  time : DT := 0
  info : Word := 0
  source : BitVec 16 := 0
  page : Byte := 0
  kind : Byte := 0
  cls : Byte := 0
  level : Byte := 0
  deriving DecidableEq, Repr

/-- A fault event of the step in progress (R461): the unit that raised it, none for logic of domain 0. -/
structure FaultEv where
  kind : Nat
  page : Nat
  source : Nat
  info : Word
  unit : Option Nat
  injected : Bool := false
  deriving DecidableEq, Repr

/-- One strainer count (R467). -/
structure StrCount where
  isOpen : Bool := false
  count : Nat := 0
  start : Word := 0
  deriving DecidableEq, Repr

/-- Wheel fault state (R475, R480). -/
structure WheelFault where
  fenced : Bool := false
  held : Bool := false
  recovering : Bool := false
  steepStart : Word := 0
  deriving DecidableEq, Repr

/-- The device fault collector, the strainer and the halt (R462–R481). -/
structure Faults where
  log : SMap LogEntry := []
  logProd : Word := 0
  strain : SMap StrCount := []
  wheels : SMap WheelFault := []
  /-- What each region promotion fenced and has not returned: domains, and 256 + wheel (R476). -/
  regions : SMap (List Nat) := []
  /-- Fault events of the step that are still to be collected; empty between commands (R463). -/
  queue : List FaultEv := []
  halted : Bool := false
  /-- THERMTRIP_N is asserted (R478). -/
  thermTrip : Bool := false
  deriving DecidableEq, Repr


/-! ## Start-up and debug (chapter 16) -/

/-- What the mask ROM, the fuses and the debug port keep beside their registers. -/
structure Boot where
  /-- The ROM waits for a HOST_BOOT write (R492). -/
  hostPath : Bool := false
  /-- Fuse words blown in the part, by register key; otherwise the part's own (R500, R503, R507). -/
  fuses : SMap Word := []
  /-- Words of KEYHASH and DBGKEYHASH that have been written (R507). -/
  written : List Nat := []
  /-- The debug port is closed by a tamper event until a cold reset (R502). -/
  dbgShut : Bool := false
  /-- An unlock has succeeded since the cold reset (R501). -/
  unlocked : Bool := false
  /-- The image that has passed every check and waits for ROM_EXIT: SOURCE, SVN and ENTRY (R495). -/
  loaded : Option (Nat × Nat × Nat) := none
  /-- The last QSPI transaction: buffer offset, length and direction (R505). -/
  qspi : Option (Nat × Nat × Bool) := none
  deriving DecidableEq, Repr

/-- The debug access port (R508). -/
structure Dap where
  op : Nat := 0
  addr : Nat := 0
  data : Word := 0
  status : Nat := 0
  deriving DecidableEq, Repr



/-! ## PCIe (chapter 17) -/

/-- How the last request of the host, of a downstream device or of a configuration access was completed. -/
inductive Cpl where
  | none | success | poisoned | unsupported | abort | retry | forwarded
  deriving DecidableEq, Repr

/-- What the links keep beside their registers. -/
structure Links where
  /-- Upstream PERST_N is asserted. -/
  perst : Bool := false
  /-- Quads that are to repeat their calibration at their next electrical idle (R531). -/
  zcal : List Nat := []
  /-- Lanes with a margining run in progress (R531). -/
  margin : List Nat := []
  /-- Channels of the LPDDR5X port that have finished training (R416). -/
  trained : List Nat := []
  /-- The last LTR message (R525). -/
  ltr : Option Word := none
  deriving DecidableEq, Repr


/-! ## Requests that wait (R25) -/

/-- A store that has left its core (R344): at the window, by device address; in the I/O region, by core-view address; or the
32-bit write that a store of byte 3 of the page window makes (R328). -/
inductive Posted where
  | window (a : Nat) (bs : List Byte)
  | io (a : Nat) (bs : List Byte)
  | page (p o : Nat) (v : Word)
  deriving DecidableEq, Repr

/-- The last store at port A of an exchange RAM: address, bytes, and the 8-byte word before it (R400); `stamp` tells it from
others. -/
structure PortA where
  addr : Nat
  bytes : List Byte
  old : List Byte
  stamp : Nat
  deriving DecidableEq, Repr

/-- A request that an arbiter holds: its target sleeps (R25), the caddy is being wiped (R409), or it reads HWT.QUIESCE
(R412). The requests of engines, movers and programs of cores stay with their own units. -/
inductive HeldReq where
  | regRead (a p o : Nat)
  | regWrite (a p o : Nat) (v : Word)
  /-- A request of the host to BAR4, and one to the poll page. -/
  | host (o : Nat) (r : MemReq)
  | poll (o n : Nat)
  /-- A request of the host to BAR0 by its bus address. -/
  | bus (addr : Nat) (r : MemReq)
  /-- The kettle core's write of the window table. -/
  | table (a o : Nat) (bs : List Byte)
  /-- A request of downstream port `p` to memory, through domain `src`. -/
  | peer (p src addr : Nat) (r : MemReq)
  /-- A request that the switch passes to port `p`. -/
  | port (p tag n : Nat)
  /-- A write of I3C.CTRL with DAA, and what its targets will answer. -/
  | daa (a c : Nat) (acked : BitVec 11) (answers : Nat)
  /-- CLAIM and COMPLETE by a core. -/
  | claim (k : Nat)
  | complete (k : Nat) (src n : Byte)
  /-- A posted store of core `k` (R344): its number among the core's accesses that had to wait, its core-view address, and
  whether its errors are still reported to the core. -/
  | store (k order addr : Nat) (x : Posted) (live : Bool)
  /-- An entry of the trace ring (R510): address and bytes. -/
  | trace (a : Nat) (bs : List Byte)
  /-- A mirror batch of a ring, up to the index that it was started with (R236). -/
  | mirror (r : Nat) (target : Word)
  /-- A queue to be lent whose CQ lies in memory that sleeps (R184). -/
  | lend (q : Nat)
  /-- An arrival for a source of a wheel common domain in DOZE or NAP, by key (R374). -/
  | occur (src : Nat)
  deriving DecidableEq, Repr

/-! ## The device -/

/-- Everything but the queue. -/
structure Dev where
  /-- Register words by `rk page offset`, where they differ from their reset value. -/
  regs : SMap Word := []
  /-- Pages whose EN was written 1 while they drain (R168). -/
  enPend : List Nat := []
  /-- Configuration space words that the host has written, by function × 1024 + offset / 4 (R511). -/
  cfg : SMap Word := []
  /-- Shadows of RWS registers that differ from the value in force (R539). -/
  shadow : SMap Word := []
  /-- Banked register words by register and agent (R131). -/
  banked : SMap Word := []
  /-- Device memory, with the host window table. -/
  mem : List Host.Cell := []
  /-- Poisoned 8-byte words, by address / 8 (R395). -/
  poison : SMap Bool := []
  /-- What the device has written to host memory, by host physical address. -/
  hostMem : List Host.Cell := []
  pacer : Pacer := {}
  wl : List WlEntry := []
  ledger : Ledger := {}
  gov : Governor := {}
  scbs : SMap Scb := []
  ctxs : SMap Ctx := []
  engines : SMap Engine := []
  images : SMap Image := []
  hif : Hif := {}
  srcs : SMap Src := []
  /-- Priority stacks by core, top first: (PRIO, source) (R367). -/
  prioStacks : SMap (List (Nat × Nat)) := []
  mboxes : SMap Mbox := []
  locks : SMap Lock := []
  caddy : Caddy := {}
  cores : SMap Core := []
  gpi : Gpi := {}
  uarts : SMap Uart := []
  spis : SMap Spi := []
  i3cs : SMap I3c := []
  ecp : Ecp := {}
  lqs : SMap LentQ := []
  /-- CQ entry of each subchannel's last completed NVMe command (R186). -/
  lastCqe : SMap (List Byte) := []
  /-- 64-bit counters of the RSL pairs, by key of their low register (R77). -/
  wide : SMap DT := []
  movers : SMap Mover := []
  mchans : SMap MvChan := []
  fifos : SMap Fifo := []
  /-- The transform descriptor table by index; all zero where not listed (R299). -/
  xdt : SMap (List Byte) := []
  /-- Streams that hold engines, by subchannel. -/
  streams : SMap Stream := []
  streamWait : List StreamWait := []
  /-- Levels of the link events 256 to 287 (R523). -/
  linkLevel : SMap Bool := []
  doms : SMap Dom := []
  /-- Estimate windows by domain and state (R446, R447), where a measurement or a write replaced the fused ones. -/
  lats : SMap (List LatEntry) := []
  eins : SMap (List EnEntry) := []
  eouts : SMap (List EnEntry) := []
  /-- Schedule slots in force (R441). -/
  slots : SMap Slot := []
  regions : SMap Region := []
  pmic : Pmic := {}
  faults : Faults := {}
  /-- Arbiters: HUB arbiter a is a; block b of WARB w is 32 + 2w + b; the local RAMs of wheel w are 64 + w. -/
  arbs : SMap Arb := []
  boot : Boot := {}
  dap : Dap := {}
  links : Links := {}
  /-- Host window table dwords held for a writer: agent × 65,536 + entry (R411). -/
  hwtHeld : SMap Word := []
  /-- Reads of HWT.QUIESCE by agent (R412): the requests waited for, and those of them still outstanding, by requester:
  a subchannel, 4,096 + mover, 4,200 + core. -/
  quiesce : SMap (Nat × List Nat) := []
  /-- Requests that wait at an arbiter, in the order they came (R25, R409, R412). -/
  held : List HeldReq := []
  /-- What reached the ports of the exchange RAMs in a command: the last store at port A, which the next command may meet, and
  addresses and lengths of the writes at port B (R400). -/
  portA : Option PortA := none
  portB : List (Nat × Nat) := []
  /-- The model's own: what the adapters sent through the downstream ports in the last command, oldest first. -/
  sent : List Tlp := []
  /-- The model's own: how the last request was completed. -/
  cpl : Cpl := .none
  /-- The model's own: what the last read returned. -/
  resp : List Word := []
  /-- The model's own: the counter free values are drawn with. -/
  freeCtr : Nat := 0
  /-- The model's own: order of issue of waits and operations. -/
  seq : Nat := 0
  deriving DecidableEq, Repr

/-- The block: its commands waiting, first in, first out, and the device. -/
structure State where
  pending : List Instr := []
  dev : Dev := {}
  deriving DecidableEq, Repr

/-- Why a run stops: a command that is no command. -/
inductive Fault where
  /-- A list operand does not have the length its command needs. Raised by the commands of `WellFormed`. Safe. -/
  | badOperand
  deriving DecidableEq, Repr

/-- Why a command has no outcome. -/
inductive Refusal where
  /-- A row of the table with no meaning. Raised by `exec` alone. Safe. -/
  | notModelled (mnemonic : String)
  deriving DecidableEq, Repr

/-- The machine right after a reset: every register at its Reset column, the memories cleared, no ROM step made yet (log 9);
the absent LPDDR5X's domains are OFF (R416). -/
def State.reset : State := { dev := { doms := [(26, { state := .off }), (27, { state := .off })] } }

end Sys2Proof.Machine
end

