-- ==== Sys2Proof/Machine/Ops.lean ====
section
/-!
DEFINITION. The named operations over the device: register words, saturating counters, page events, memory bytes,
free values, and the parts of the state by index.
-/

namespace Sys2Proof.Machine

/-! ### Register words -/

/-- The word of a register. -/
def Dev.reg (d : Dev) (p o : Nat) : Word := smGet d.regs (rk p o) (regReset (rk p o))

/-- The device with a register word replaced. -/
def Dev.setReg (d : Dev) (p o : Nat) (v : Word) : Dev :=
  { d with regs := smSet d.regs (rk p o) v (regReset (rk p o)) }

/-- A field of a register. -/
def Dev.rf (d : Dev) (p o lo n : Nat) : Nat := fld (d.reg p o) lo n

/-- A bit of a register. -/
def Dev.rb (d : Dev) (p o i : Nat) : Bool := bitAt (d.reg p o) i

/-- The device with a field of a register replaced. -/
def Dev.setRf (d : Dev) (p o lo n v : Nat) : Dev := d.setReg p o (withFld (d.reg p o) lo n v)

/-- Key of an agent's copy of a banked register (R131). -/
def bk (p o a : Nat) : Nat := rk p o * 128 + a

/-- An agent's copy of a banked register. -/
def Dev.bank (d : Dev) (p o a : Nat) : Word := smGet d.banked (bk p o a) 0

def Dev.setBank (d : Dev) (p o a : Nat) (v : Word) : Dev := { d with banked := smSet d.banked (bk p o a) v 0 }

/-- The shadow of an RWS register: what was last written, in force or not (R539). -/
def Dev.shadowOf (d : Dev) (p o : Nat) : Word := smGet d.shadow (rk p o) (d.reg p o)

/-- A statistics counter takes `n` events: it saturates, and the sticky bit is set by the step that reaches the maximum
(R75, R78). -/
def Dev.bump (d : Dev) (p o n so sb : Nat) : Dev :=
  let v := (d.reg p o).toNat + n
  let d := d.setReg p o (w32 (min v m32))
  if n > 0 ∧ v ≥ m32 then d.setRf p so sb 1 1 else d

/-- One half of a register of two ECC counters takes `n` events (R75). -/
def Dev.bump16 (d : Dev) (p o lo n : Nat) : Dev := d.setRf p o lo 16 (min (d.rf p o lo 16 + n) 0xFFFF)

/-- A 64-bit counter of an RSL pair takes `n` (R75, R77). -/
def Dev.wideAdd (d : Dev) (p o n : Nat) : Dev :=
  { d with wide := smSet d.wide (rk p o) (smGet d.wide (rk p o) 0 + BitVec.ofNat 64 n) 0 }

/-! ### Page events (R537, R538) -/

/-- Hardware sets page events. -/
def Dev.pageEvt (d : Dev) (p : Nat) (bits : Nat) : Dev := d.setReg p 0x010 (d.reg p 0x010 ||| w32 bits)

/-- An access breaks a rule of R538: BAD_WRITE is set, and BAD_AGENT and BAD_OFFSET take the first such access. -/
def Dev.badWrite (d : Dev) (p a o : Nat) : Dev :=
  let d := if d.rb p 0x010 0 then d else d.setReg p 0x00C (w32 (fput 24 8 a + fput 14 10 (o / 4)))
  d.pageEvt p 1

/-! ### Free values (log 11) -/

/-- The next free value. -/
def Dev.free (d : Dev) : BitVec 64 × Dev := (Config.freeValue d.freeCtr, { d with freeCtr := d.freeCtr + 1 })

/-- The next number in the order of issue. -/
def Dev.nextSeq (d : Dev) : Nat × Dev := (d.seq, { d with seq := d.seq + 1 })

/-- What the last read returned. -/
def Dev.respond (d : Dev) (ws : List Word) : Dev := { d with resp := ws }

/-! ### Memory bytes -/

/-- What a byte that is not listed reads as (log 4). -/
def memDefault : Byte := 0

/-- The canonical form of memory. -/
abbrev Memory.wf (m : List Host.Cell) : Prop := smWf memDefault m = true

/-- A byte of memory. -/
def memByte (m : List Host.Cell) (a : Nat) : Byte := smGet m a memDefault

/-- Memory with one byte written. -/
def memPut (m : List Host.Cell) (a : Nat) (b : Byte) : List Host.Cell := smSet m a b memDefault

/-- `n` bytes of memory from an address. -/
def memBytes (m : List Host.Cell) (a : Nat) : Nat → List Byte
  | 0 => []
  | n + 1 => memByte m a :: memBytes m (a + 1) n

/-- Memory with bytes written from an address. -/
def memPutAll (m : List Host.Cell) (a : Nat) : List Byte → List Host.Cell
  | [] => m
  | b :: bs => memPutAll (memPut m a b) (a + 1) bs

/-- Memory with every byte of a range back at what an unlisted byte reads as. -/
def memClear (m : List Host.Cell) (a n : Nat) : List Host.Cell := m.filter fun c => c.1 < a || a + n ≤ c.1

/-- Bytes of device memory, alias bits removed. -/
def Dev.peek (d : Dev) (a n : Nat) : List Byte := memBytes d.mem (plainAddr a) n

/-- Bytes written to device memory, alias bits removed. -/
def Dev.poke (d : Dev) (a : Nat) (bs : List Byte) : Dev := { d with mem := memPutAll d.mem (plainAddr a) bs }

/-- Whether the 8-byte word that holds an address is poisoned (R395). -/
def Dev.poisoned (d : Dev) (a : Nat) : Bool := smGet d.poison (plainAddr a / 8) false

def Dev.setPoison (d : Dev) (a : Nat) (b : Bool) : Dev := { d with poison := smSet d.poison (plainAddr a / 8) b false }

/-- A range of device memory cleared, poison and all (R404). -/
def Dev.clearMem (d : Dev) (a n : Nat) : Dev :=
  { d with mem := memClear d.mem a n, poison := d.poison.filter fun c => c.1 < a / 8 || (a + n) / 8 ≤ c.1 }

/-! ### Parts of the state by index -/

def Dev.scb (d : Dev) (i : Nat) : Scb := smGet d.scbs i {}
def Dev.setScb (d : Dev) (i : Nat) (v : Scb) : Dev := { d with scbs := smSet d.scbs i v {} }
def Dev.ctx (d : Dev) (i : Nat) : Ctx := smGet d.ctxs i {}
def Dev.setCtx (d : Dev) (i : Nat) (v : Ctx) : Dev := { d with ctxs := smSet d.ctxs i v {} }
def Dev.eng (d : Dev) (n : Nat) : Engine := smGet d.engines n {}
def Dev.setEng (d : Dev) (n : Nat) (v : Engine) : Dev := { d with engines := smSet d.engines n v {} }
def Dev.image (d : Dev) (i : Nat) : Image := smGet d.images i {}
def Dev.setImage (d : Dev) (i : Nat) (v : Image) : Dev := { d with images := smSet d.images i v {} }
def Dev.src (d : Dev) (k : Nat) : Src := smGet d.srcs k {}
def Dev.setSrc (d : Dev) (k : Nat) (v : Src) : Dev := { d with srcs := smSet d.srcs k v {} }
def Dev.stack (d : Dev) (k : Nat) : List (Nat × Nat) := smGet d.prioStacks k []
def Dev.setStack (d : Dev) (k : Nat) (v : List (Nat × Nat)) : Dev := { d with prioStacks := smSet d.prioStacks k v [] }
def Dev.mbox (d : Dev) (m : Nat) : Mbox := smGet d.mboxes m {}
def Dev.setMbox (d : Dev) (m : Nat) (v : Mbox) : Dev := { d with mboxes := smSet d.mboxes m v {} }
def Dev.lock (d : Dev) (k : Nat) : Lock := smGet d.locks k {}
def Dev.setLock (d : Dev) (k : Nat) (v : Lock) : Dev := { d with locks := smSet d.locks k v {} }
def Dev.dom (d : Dev) (k : Nat) : Dom := smGet d.doms k {}
def Dev.setDom (d : Dev) (k : Nat) (v : Dom) : Dev := { d with doms := smSet d.doms k v {} }
def Dev.region (d : Dev) (r : Nat) : Region := smGet d.regions r {}
def Dev.setRegion (d : Dev) (r : Nat) (v : Region) : Dev := { d with regions := smSet d.regions r v {} }
def Dev.core (d : Dev) (k : Nat) : Core := smGet d.cores k {}
def Dev.setCore (d : Dev) (k : Nat) (v : Core) : Dev := { d with cores := smSet d.cores k v {} }
/-- The ledger tag a core's work is charged to (R323); `k` counts the spoke cores, 64 is the kettle core. -/
def Dev.coreTag (d : Dev) (k : Nat) : Nat :=
  if (d.core k).tagAgent then agentTag (coreAgent k) else (d.core k).tagNum.toNat
def Dev.wfault (d : Dev) (w : Nat) : WheelFault := smGet d.faults.wheels w {}
def Dev.setWfault (d : Dev) (w : Nat) (v : WheelFault) : Dev :=
  { d with faults := { d.faults with wheels := smSet d.faults.wheels w v {} } }

/-- A unit is fenced, for any reason (R470). -/
def Dom.fenced (u : Dom) : Bool := u.fenceReq || u.fenceF || u.fenceW

/-- Domain `k` is fenced, by its own fences or by the halt of R477. -/
def Dev.isFenced (d : Dev) (k : Nat) : Bool := k ≠ 0 && (d.faults.halted || (d.dom k).fenced)

/-- The number of the encoding of R435. -/
def PState.code : PState → Nat
  | .active => 0
  | .freewheel => 1
  | .doze => 2
  | .nap => 3
  | .off => 4

/-- A domain below FREEWHEEL or on its way, whose unit serves nothing until its exit completes (R25). -/
def Dom.asleep (u : Dom) : Bool :=
  u.cycling || u.trans ≠ .none || u.state = .doze || u.state = .nap || u.state = .off

/-- Registers of a page whose offset satisfies a test return to their reset values. -/
def Dev.resetRegs (d : Dev) (p : Nat) (f : Nat → Bool) : Dev :=
  let keep : Nat → Bool := fun k => k / 1024 ≠ p || !(f (k % 1024 * 4))
  { d with regs := d.regs.filter (fun e => keep e.1), shadow := d.shadow.filter (fun e => keep e.1),
           banked := d.banked.filter (fun e => keep (e.1 / 128)) }

end Sys2Proof.Machine
end

