-- ==== Sys2Proof/Machine/CfgSpace.lean ====
section
/-!
DEFINITION. The configuration space of the functions that the device presents (R511–R513, R518, R520): which words exist,
what a host write reaches, and what they hold. Offsets the manual leaves to the PCIe specification are PRESUMED (log 26).
-/

namespace Sys2Proof.Machine

/-- One word of a configuration space, by dword number. -/
structure CfgReg where
  dw : Nat
  reset : Nat := 0
  rw : Nat := 0
  w1c : Nat := 0

/-- Function numbers: 0 the upstream switch port, 1 the coprocessor function, 2 + p downstream port p. -/
abbrev cfUp : Nat := 0
abbrev cfEp : Nat := 1
abbrev cfDn : Nat := 2

/-- Dword numbers of the registers that the device acts on. -/
abbrev cdCommand : Nat := 1
abbrev cdPmcsr : Nat := 0x11
abbrev cdDevCtl : Nat := 0x16
abbrev cdLinkCtl : Nat := 0x18
abbrev cdDevCtl2 : Nat := 0x1E
abbrev cdAer : Nat := 0x40
abbrev cdExtra : Nat := 0x54

/-- What every function has: command and status, class, power management, PCI Express, AER. `port` is the port type, `endp`
an endpoint, `lanes` the maximum width. -/
def cfgCommon (port lanes cls hdr : Nat) (endp : Bool) : List CfgReg := [
  { dw := 1, reset := 0x00100000, rw := 0x546, w1c := 0xF9000000 },
  { dw := 2, reset := cls * 256 + 0xB1 },
  { dw := 3, reset := hdr * 65536, rw := 0xFF },
  { dw := 13, reset := 0x40 },
  { dw := 0x10, reset := 0x00035001 }, { dw := 0x11, reset := 8, rw := 3 },
  { dw := 0x14, reset := 0x00020010 + port * 2 ^ 20 + (if endp then 0 else 0x9000) },
  { dw := 0x15, reset := 0x8022 + (if endp then 2 ^ 28 else 0) },
  { dw := 0x16, reset := 0x2810, rw := 0x78FF, w1c := 0x000F0000 },
  { dw := 0x17, reset := 4 + lanes * 16 + 2 * 1024 + 3 * 2 ^ 15 + 2 ^ 22 + (if port = 6 then 2 ^ 20 else 0) },
  { dw := 0x18, rw := if port = 6 then 0xF3 else 0x1CB },
  { dw := 0x1D, reset := 0x30803 }, { dw := 0x1E, rw := 0x140F },
  { dw := 0x1F, reset := 0x1E }, { dw := 0x20, reset := 4, rw := 0xF },
  { dw := 0x40, reset := 0x15020001 }, { dw := 0x41, w1c := 0x007FF030 }, { dw := 0x42, rw := 0x007FF030 },
  { dw := 0x43, reset := 0x00462030, rw := 0x007FF030 }, { dw := 0x44, w1c := 0x000031C1 },
  { dw := 0x45, reset := 0x2000, rw := 0x31C1 }, { dw := 0x46 }, { dw := 0x47 }, { dw := 0x48 }, { dw := 0x49 }, { dw := 0x4A }]

/-- A type 1 header: bus numbers, memory windows and bridge control, with the subsystem capability behind PCI Express. -/
def cfgBridge : List CfgReg := [
  { dw := 6, rw := 0x00FFFFFF }, { dw := 7, w1c := 0xF9000000 }, { dw := 8, rw := 0xFFF0FFF0 },
  { dw := 9, reset := 0x00010001, rw := 0xFFF0FFF0 }, { dw := 10, rw := m32 }, { dw := 11, rw := m32 },
  { dw := 15, rw := 0x00430000 }, { dw := 0x24, reset := 0x0D }]

/-- The L1 PM Substates capability: 20 µs of T_POWER_ON, 30 µs of Common_Mode_Restore_Time (R524). -/
def cfgL1 (next : Nat) : List CfgReg := [
  { dw := 0x58, reset := 0x0001001E + next * 2 ^ 20 }, { dw := 0x59, reset := 0x00501E1F },
  { dw := 0x5A, rw := 0xE3FFFF0F }, { dw := 0x5B, rw := 0xFB }]

/-- The words of each function. -/
def cfgRows (fn : Nat) : List CfgReg :=
  if fn = cfUp then
    cfgCommon 5 4 0x060400 1 false ++ cfgBridge ++
      [{ dw := 0x54, reset := 0x16010018 }, { dw := 0x55, rw := 0x1FFF1FFF }] ++ cfgL1 0
  else if fn = cfEp then
    cfgCommon 0 4 0x088000 0 true ++
      [{ dw := 4, rw := 0xFFF80000 }, { dw := 6, rw := 0xFFFF0000 }, { dw := 8, reset := 0xC, rw := 0xFC000000 },
       { dw := 9, rw := m32 }, { dw := 0x54, reset := 0x1601001F }, { dw := 0x55, reset := 1 }, { dw := 0x56, rw := 1 },
       { dw := 0x58, reset := 0x00010003 }]
  else
    cfgCommon 6 (if fn ≤ 3 then 4 else 1) 0x060400 1 false ++ cfgBridge ++
      [{ dw := 0x54, reset := 0x1601000D }, { dw := 0x55, reset := 0x1F, rw := 0x1F0000 }] ++ cfgL1 0

/-- The row of a word; none where no register is placed. -/
def cfgRow (fn dw : Nat) : Option CfgReg := (cfgRows fn).find? fun r => r.dw = dw

/-- What a configuration word holds, as the host last wrote it or after reset. -/
def Dev.cfgHeld (d : Dev) (fn dw : Nat) : Word :=
  smGet d.cfg (fn * 1024 + dw) (w32 ((cfgRow fn dw).map (·.reset) |>.getD 0))

/-- A configuration word takes a value. -/
def Dev.setCfg (d : Dev) (fn dw : Nat) (v : Word) : Dev :=
  { d with cfg := smSet d.cfg (fn * 1024 + dw) v (w32 ((cfgRow fn dw).map (·.reset) |>.getD 0)) }

/-- Device ID of a function (R511). -/
def cfgDeviceId (fn : Nat) : Nat := if fn = cfUp then 0x0661 else if fn = cfEp then 0x0660 else 0x0662

/-- The link state word of a port (R529): upstream for functions 0 and 1. -/
def Dev.linkWord (d : Dev) (fn : Nat) : Word := if fn ≤ 1 then d.reg pgPUP 0x040 else d.reg (pgPDN + (fn - 2)) 0x044

/-- A configuration word as it reads: identity and link state come from the device (R511, R512). -/
def Dev.cfgWord (d : Dev) (fn dw : Nat) : Word :=
  let l := d.linkWord fn
  if dw = 0 then w32 (d.rf pgDEV 0x040 0 16 + cfgDeviceId fn * 65536)
  else if dw = 11 ∧ fn = cfEp then d.reg pgDEV 0x044
  else if dw = 0x25 ∧ fn ≠ cfEp then d.reg pgDEV 0x044
  else if dw = 0x59 ∧ fn = cfEp then d.reg pgDEV 0x048
  else if dw = 0x5A ∧ fn = cfEp then d.reg pgDEV 0x04C
  else if dw = cdLinkCtl then
    d.cfgHeld fn dw ||| w32 (fput 16 4 (fld l 8 4) + fput 20 6 (fld l 12 4) + (if 2 ≤ fn then fput 29 1 (fld l 0 1) else 0))
  else d.cfgHeld fn dw

/-- The coprocessor function is in D3hot. -/
def Dev.inD3 (d : Dev) : Bool := fld (d.cfgHeld cfEp cdPmcsr) 0 2 = 3

/-- The device may send memory requests upstream (R516). -/
def Dev.busMaster (d : Dev) : Bool := !d.inD3 && bitAt (d.cfgHeld cfEp cdCommand) 2

end Sys2Proof.Machine
end

