-- ==== Sys2Proof/Machine/Ledger.lean ====
section
/-!
DEFINITION. The energy ledger: event counts, effective coefficients, folds with remainder, leakage and calibration
(R57–R67, R561, R562).
-/

namespace Sys2Proof.Machine

/-- LDG.CTRL.EN. -/
def Dev.ledgerOn (d : Dev) : Bool := d.rb pgLDG 0x040 0

/-- In place of a tag: the unattributed tag of whichever region counts the event (R561). -/
abbrev tagOwn : Nat := 8191

/-- `n` events of kind `k` of region `r` are counted for a tag; discarded while EN is 0 (R562). -/
def Dev.count (d : Dev) (r k tag n : Nat) : Dev :=
  if d.ledgerOn then
    let key := (r * 32 + k) * 8192 + (if tag = tagOwn then regionTag r else tag)
    { d with ledger := { d.ledger with pend := smSet d.ledger.pend key (smGet d.ledger.pend key 0 + n) 0 } }
  else d

/-- The voltage scale of region `r` at a grid voltage in steps of 12.5 mV (R58); entry 8 for regions 0 to 4. -/
def Dev.vscale (d : Dev) (r v : Nat) : Nat :=
  let e := fun i => d.rf pgLDG (0x580 + 4 * (16 * r + i)) 0 16
  if r < 5 then e 8
  else
    let i := min ((v - 44) / 2) 15
    if (v - 44) % 2 = 0 ∨ i = 15 then e i else (e i + e (i + 1)) / 2

/-- The effective coefficient with a given gain (R59). -/
def Dev.ecEffG (d : Dev) (r k g : Nat) : Nat :=
  roundDiv (d.rf pgLDG (0x100 + 4 * (32 * r + k)) 0 16 * d.vscale r (d.region r).volt * g) (2 ^ 20)

/-- The effective coefficient in force (R59). -/
def Dev.ecEff (d : Dev) (r k : Nat) : Nat := d.ecEffG r k (if r < 5 then 0x4000 else d.ledger.g.toNat)

/-- A charge of `x` units of 2^-16 pJ to a tag and to the package total (R60, R62). -/
def Dev.charge (d : Dev) (tag x : Nat) : Dev :=
  let l := d.ledger
  let s := smGet l.rem tag 0 + x
  let p := l.pkgRem + x
  { d with ledger := { l with
      acc := smSet l.acc tag (smGet l.acc tag 0 + BitVec.ofNat 64 (s / 256000)) 0
      rem := smSet l.rem tag (s % 256000) 0
      pkgAcc := l.pkgAcc + BitVec.ofNat 64 (p / 256000)
      pkgRem := p % 256000 } }

/-- A service-die region's charge enters the calibration sum (at unit gain) and the governor's shares (R66, R72). -/
def Dev.noteRegion (d : Dev) (r x raw : Nat) : Dev :=
  if r < 5 then d
  else { d with
    ledger := { d.ledger with eraw := d.ledger.eraw + raw }
    gov := { d.gov with tickCharge := smSet d.gov.tickCharge r (smGet d.gov.tickCharge r 0 + x) 0 } }

/-- A direct charge of a region, such as a domain transition or leakage. -/
def Dev.chargeRegion (d : Dev) (r tag x : Nat) : Dev :=
  if d.ledgerOn then (d.charge tag x).noteRegion r x x else d

/-- One pending count is folded at the coefficients in force (R61). -/
def Dev.foldEntry (d : Dev) (e : Nat × Nat) : Dev :=
  let rk := e.1 / 8192
  let x := e.2 * d.ecEff (rk / 32) (rk % 32)
  (d.charge (e.1 % 8192) x).noteRegion (rk / 32) x (e.2 * d.ecEffG (rk / 32) (rk % 32) 0x4000)

/-- The pending counts that satisfy a test on their key are folded. A fold made while EN is 0 drops them; counts made before EN was
written 0 are charged where EN is 1 again by the next fold (R562; log 53). -/
def Dev.foldWhere (d : Dev) (f : Nat → Bool) : Dev :=
  let now := d.ledger.pend.filter fun e => f e.1
  let d := { d with ledger := { d.ledger with pend := d.ledger.pend.filter fun e => !f e.1 } }
  if d.ledgerOn then now.foldl Dev.foldEntry d else d

/-- A tag's pending counts are folded (R60). -/
def Dev.foldTag (d : Dev) (tag : Nat) : Dev := d.foldWhere fun k => k % 8192 = tag

/-- Every pending count is folded, before a coefficient changes (R59). -/
def Dev.foldAll (d : Dev) : Dev := d.foldWhere fun _ => true

/-- A tag's accumulator. -/
def Dev.acc (d : Dev) (tag : Nat) : BitVec 64 := smGet d.ledger.acc tag 0

/-- Leakage at a temperature: the region's table interpolated, in whole µW (R61). -/
def Dev.leakAt (d : Dev) (r : Nat) (t : BitVec 16) : Nat :=
  let t := min (max t.toInt (-20 * 256)) (130 * 256) + 20 * 256
  let q := t.toNat
  let i := min (q / 2560) 14
  let e := fun i => (d.rf pgLDG (0x7C0 + 4 * (16 * r + i)) 0 24 : Int)
  ((e i * 2560 + (e (i + 1) - e i) * ((q - 2560 * i : Nat) : Int)) / 2560).toNat

/-- Leakage of one fold of a region, in units of 2^-16 pJ, truncated (R61). -/
def Dev.leakFold (d : Dev) (r : Nat) : Nat :=
  d.leakAt r (d.region r).temp * d.vscale r (d.region r).volt * 4000000 / 2 ^ 14

/-- The periodic fold of every region, with leakage (R60, R61, R562). -/
def Dev.regionFold (d : Dev) : Dev :=
  (List.range 9).foldl (fun d r => d.chargeRegion r (regionTag r) (d.leakFold r)) d.foldAll

/-- A shunt sample of a 12-bit code at the VDD_CORE setpoint in force, cut to whole millivolts (R65–R67; log 17). -/
def Dev.shuntSample (d : Dev) (code : BitVec 12) : Dev :=
  let l := d.ledger
  let l := if code = 4095 then { l with clipSec := true } else l
  let untr := d.pacer.trust = .untrusted
  let mv := d.pmic.now * 25 / 2
  { d with ledger := { l with
      vcode := if untr then l.vcode else l.vcode + mv * code.toNat
      untrSec := l.untrSec || untr } }

/-- One second has ended: the sums start again (R66, R562). -/
def Dev.newSecond (d : Dev) : Dev :=
  { d with ledger := { d.ledger with
      eraw := 0, vcode := 0, clipSec := false
      untrSec := decide (d.pacer.trust = .untrusted)
      secWhole := d.ledgerOn } }

/-- E_raw of the second in whole nJ: its charges in units of 2^-16 pJ, truncated (R66, log 17). -/
def Dev.eRaw (d : Dev) : Nat := d.ledger.eraw / (65536 * 1000)

/-- E_meas of the second in nJ (R66). -/
def Dev.eMeas (d : Dev) : Nat := d.ledger.vcode * 12500000 / (1024 * max (d.rf pgLDG 0x064 0 16) 1)

/-- The update of G at the end of a judged second, with the class C calibration fault it raises (R67). g_meas and
the sum before its clamp are kept whole, whatever their width (log 17). -/
def Dev.calUpdate (d : Dev) : Dev × Option Nat :=
  let er := d.eRaw
  let gm := if er = 0 then Config.gMeasNoCharge d.eMeas else (d.eMeas * 2 ^ 14 + er / 2) / er
  let s0 : Nat := d.ledger.s.toNat
  let s := s0 + gm - s0 / 16
  let lo := 0x3000 * 16
  let hi := 0x5000 * 16 + 15
  let bad := s < lo ∨ s > hi
  let s := min (max s lo) hi
  let d := { d with ledger := { d.ledger with s := BitVec.ofNat 20 s, g := BitVec.ofNat 16 (s / 16) } }
  let d := d.setRf pgLDG 0x060 0 16 gm
  if bad then (((d.setRf pgLDG 0x060 16 1 1).bump pgLDG 0x07C 1 0x084 0), some gm) else (d, none)

/-- A second ends: it is judged or skipped (R67, R562). The answer names a calibration fault's g_meas. -/
def Dev.calSecond (d : Dev) : Dev × Option Nat :=
  let d := d.foldAll
  if !d.ledgerOn ∨ !d.ledger.secWhole then (d.newSecond, none)
  else
    let low := decide (d.eRaw < d.rf pgLDG 0x068 0 16 * 1000000)
    let clip := d.ledger.clipSec
    let d := if clip then d.setRf pgLDG 0x060 17 1 1 else d
    if low || clip || !d.rb pgLDG 0x040 1 || d.ledger.untrSec then
      ((d.bump pgLDG 0x080 1 0x084 1).newSecond, none)
    else
      let r := d.calUpdate
      (r.1.newSecond, r.2)

end Sys2Proof.Machine
end

