-- ==== Sys2Proof/Machine/Pacer.lean ====
section
/-!
DEFINITION. The pacer: interpolation and its samples, crystal edges, holdover, host discipline (R37–R50); and the wake
list (R51–R56).
-/

namespace Sys2Proof.Machine

/-- PCR.CTRL.SRC. -/
def Dev.src_ (d : Dev) : Nat := d.rf pgPCR 0x040 0 2

/-- PCR.RATE_ADJ, signed. -/
def Dev.rateAdj (d : Dev) : Int := (d.reg pgPCR 0x050).toInt

/-- The counts of a command are taken; a count never runs backward within a period. -/
def Pacer.setCounts (p : Pacer) (c : Counts) : Pacer := { p with ring := max p.ring c.ring, ref := max p.ref c.ref }

/-- Counts of the interpolator in use since the boundary: the ring count runs on from the last synthetic boundary. -/
def Pacer.cnt (p : Pacer) : Nat :=
  match p.interp with
  | .refclk => p.ref
  | _ => p.ring - p.synth * p.ringRef

/-- The offset within the period, and whether it was clamped (R39). -/
def Pacer.offset (p : Pacer) : Nat × Bool :=
  let inc := p.inc.toNat
  let prev := p.prev.toNat
  match p.interp with
  | .none => (0, false)
  | _ =>
    let off := if prev = 0 then Config.offsetNoPeriod p.cnt inc else (p.cnt * inc + prev / 2) / prev
    if off > inc - 1 then (inc - 1, true) else (off, false)

/-- DT64 as a reader would see it now (R39). -/
def Pacer.value (p : Pacer) : DT :=
  let v := p.base + BitVec.ofNat 64 p.offset.1
  if v.toNat < p.last.toNat then p.last else v

/-- DT64 for comparisons, which are no samples (R561). -/
def Dev.now (d : Dev) : DT := d.pacer.value

/-- A sample of DT64, charged to a tag (R39, R561 kind 4). -/
def Dev.sample (d : Dev) (tag : Nat) : DT × Dev :=
  let v := d.pacer.value
  let d := if d.pacer.offset.2 then d.bump pgPCR 0x07C 1 0x084 2 else d
  let d := { d with pacer := { d.pacer with last := v } }
  (v, d.count 0 4 tag 1)

/-- `base`, `inc` and `frac` move past one boundary (R39). -/
def Pacer.advance (p : Pacer) (rate : Int) (base : DT) : Pacer :=
  let t : Int := p.frac.toNat + 2 * rate
  { p with
    base := base
    inc := BitVec.ofInt 18 (0x20000 + t / 2 ^ 24)
    frac := BitVec.ofInt 24 t }

/-- One synthetic boundary (R46), with the RATE_ADJ that the last accepted edge took (R41). -/
def Pacer.synthStep (p : Pacer) : Pacer :=
  let p := p.advance p.rate (p.base + p.inc.zeroExtend 64)
  { p with synth := p.synth + 1, prev := BitVec.ofNat 16 p.ringRef, refMark := p.ref }

/-- Synthetic boundaries one after another (R46). -/
def Pacer.synthMany (p : Pacer) : Nat → Pacer
  | 0 => p
  | n + 1 => p.synthStep.synthMany n

/-- The interpolator that SRC and REF_OK call for (R41–R43). -/
def interpFor (src : Nat) (refOk : Bool) : Interp :=
  if src = 0 then .none else if src = 2 ∧ refOk then .refclk else .ring

/-- The trust state an accepted edge leads to (R45). -/
def Pacer.gainTrust (p : Pacer) : Pacer :=
  let n := min (p.edgeRun + 1) 1024
  if p.trust ≠ .trusted ∧ n = 1024 then { p with trust := .trusted, edgeRun := n } else { p with edgeRun := n }

/-- An accepted crystal edge (R39, R41, R43, R45, R47). The period that ends at it began, in a loss, at the last synthetic boundary,
for the ring count and the REFCLK count alike (log 52). -/
def Pacer.accept (p : Pacer) (src : Nat) (rate : Int) : Pacer :=
  let ringCnt := p.ring - p.synth * p.ringRef
  let refCnt := p.ref - p.refMark
  let base := if p.missing then p.value else p.base + p.inc.zeroExtend 64
  let interp := interpFor src p.refOk
  let q := p.advance rate base
  let q := { q with
    interp := interp
    prev := BitVec.ofNat 16 (match interp with
      | .refclk => refCnt
      | _ => ringCnt)
    refOk := decide (2900 ≤ refCnt ∧ refCnt ≤ 3200)
    rate := rate
    xtalOk := true
    ringRef := ringCnt
    ring := 0, ref := 0, synth := 0, refMark := 0, missing := false }
  q.gainTrust

/-- A crystal edge arrives (R39, R44). In a loss its distance counts from the last synthetic boundary (log 52). -/
def Dev.crystalEdge (d : Dev) (c : Counts) : Dev :=
  let p := d.pacer.setCounts c
  if p.ring - p.synth * p.ringRef < 3906 then
    ({ d with pacer := { p with xtalOk := false, edgeRun := 0 } }).bump pgPCR 0x080 1 0x084 3
  else { d with pacer := p.accept d.src_ d.rateAdj }

/-- The crystal is declared missing, and every synthetic boundary already passed is made (R44–R46). With SRC 0 no interpolation begins
(R42; log 52). -/
def Dev.crystalMissing (d : Dev) (c : Counts) : Dev :=
  let p := d.pacer.setCounts c
  if p.missing ∨ p.ring < 15625 then { d with pacer := p }
  else
    let p := { p with missing := true, edgeRun := 0, synth := 0, interp := if p.interp = Interp.none then Interp.none else Interp.ring,
                      prev := BitVec.ofNat 16 p.ringRef }
    let n := if p.ringRef = 0 then 0 else p.ring / p.ringRef
    let p := p.synthMany n
    { d with pacer := if p.trust = .trusted then { p with trust := .holdover, hoEntry := p.value } else p }

/-- A synthetic boundary's position is reached while the crystal is missing (R46). -/
def Dev.syntheticBoundary (d : Dev) (c : Counts) : Dev :=
  let p := d.pacer.setCounts c
  if p.missing ∧ 0 < p.ringRef ∧ (p.synth + 1) * p.ringRef ≤ p.ring then
    { d with pacer := p.synthStep }
  else { d with pacer := p }

/-- One second in HOLDOVER makes the pacer UNTRUSTED where the crystal is missing at its end (R45; log 52). -/
def Dev.holdoverExpiry (d : Dev) (c : Counts) : Dev :=
  let p := d.pacer.setCounts c
  if p.trust = .holdover ∧ p.missing ∧ 2 ^ 32 ≤ (p.value - p.hoEntry).toNat then
    { d with pacer := { p with trust := .untrusted, wasUntrusted := true, edgeRun := 0 }
             ledger := { d.ledger with untrSec := true } }
  else { d with pacer := p }

/-- RATE_ADJ held within the range of R37. -/
def clampRate (x : Int) : Int := min (max x (-1099511627)) 1099511627

/-- Host time in DT units from nanoseconds (R48). -/
def hostDT (ns : BitVec 64) : DT := BitVec.ofNat 64 (roundDiv (ns.toNat * 2 ^ 32) (10 ^ 9))

/-- An accepted PTM pair moves the offset and the rate (R49). -/
def Dev.ptmPair (d : Dev) (h dd : DT) : Dev :=
  let p := d.pacer
  if p.ptmFirst then
    { d with pacer := { p with hostOfs := h - dd, ptmFirst := false, ptmPrevD := dd, ptmValid := true } }
  else
    let e := h - (dd + p.hostOfs)
    let delta := (dd - p.ptmPrevD).toInt
    let d := { d with pacer := { p with hostOfs := p.hostOfs + e, ptmPrevD := dd, ptmValid := true } }
    let step := if delta = 0 then Config.rateStepNoDelta e.toInt else Int.tdiv (e.toInt * 2 ^ 39) delta
    d.setReg pgPCR 0x050 (BitVec.ofInt 32 (clampRate (d.rateAdj + step)))

/-- A PTM dialogue ends (R48, R49). -/
def Dev.ptmComplete (d : Dev) (ns : BitVec 64) (dd rtt : DT) : Dev :=
  if d.pacer.ptmBusy then
    let d := { d with pacer := { d.pacer with ptmBusy := false } }
    if rtt.toNat > d.rf pgPCR 0x060 16 16 * 2 ^ 8 then d.bump pgPCR 0x064 1 0x084 0
    else d.ptmPair (hostDT ns) dd
  else d

/-! ### The wake list -/

/-- Number of entries the wake list holds. -/
abbrev wlCapacity : Nat := 512

/-- An entry placed in target order, after those of equal target (R51). -/
def wlPlace (e : WlEntry) : List WlEntry → List WlEntry
  | [] => [e]
  | x :: xs => if e.target.toNat < x.target.toNat then e :: x :: xs else x :: wlPlace e xs

/-- The ledger tag an owner's insertions and removals are charged to (R561), given a core's current tag. -/
def wlTag (coreTag : Nat → Nat) (k : WlKind) (id : Nat) : Nat :=
  match k with
  | .subch => id
  | .core => coreTag id
  | .ktimer => coreTag 64

/-- The outcome of an insertion. -/
inductive WlResult where
  | reached | inserted | refused
  deriving DecidableEq, Repr

/-- Insertion of a target (R51–R55). -/
def Dev.wlInsert (d : Dev) (tag : Nat) (e : WlEntry) : WlResult × Dev :=
  if reached d.now e.target then (.reached, d)
  else if wlCapacity ≤ d.wl.length then (.refused, d.bump pgPCR 0x078 1 0x084 1)
  else
    let l := wlPlace e d.wl
    let d := { d with wl := l }
    let d := if d.rf pgPCR 0x070 16 10 < l.length then d.setRf pgPCR 0x070 16 10 l.length else d
    (.inserted, d.count 0 3 tag 1)

/-- The entries of an owner. -/
def wlMine (k : WlKind) (id : Nat) (e : WlEntry) : Bool := e.kind = k && e.id = id

/-- Removal of an owner's entry (R54). -/
def Dev.wlRemove (d : Dev) (tag : Nat) (k : WlKind) (id : Nat) : Dev :=
  if d.wl.any (wlMine k id) then { d with wl := d.wl.filter fun e => !wlMine k id e }.count 0 3 tag 1 else d

/-- The entries that are reached, in list order, and the rest (R52). -/
def Dev.wlDue (d : Dev) : List WlEntry × List WlEntry :=
  (d.wl.filter (fun e => reached d.now e.target), d.wl.filter (fun e => !reached d.now e.target))

end Sys2Proof.Machine
end

