-- ==== Sys2Proof/Machine/Wake.lean ====
section
/-!
DEFINITION. What a request finds at a unit: the fenced error, a sleeping domain that it wakes, or service (R25, R26,
R436–R438).
-/

namespace Sys2Proof.Machine

/-- A saturating word after `n` events, and whether its sticky bit is set by them (R75, R78). -/
def satAdd (w : Word) (n : Nat) : Word × Bool :=
  (w32 (min (w.toNat + n) m32), decide (n > 0 ∧ m32 ≤ w.toNat + n))

/-- PWD.ABORTED of a domain counts (R437). -/
def Dom.countAborted (u : Dom) : Dom :=
  let r := satAdd u.aborted 1
  { u with aborted := r.1, cntSat := if r.2 then withBit u.cntSat 3 true else u.cntSat }

/-- A domain begins its exit, on demand or for a known event; an entry in progress is abandoned (R436, R437). -/
def Dev.startExit (d : Dev) (k : Nat) (demand : Bool) (known : Option DT) : Dev :=
  let u := d.dom k
  if u.cycling then d
  else
    match u.trans with
    | .exiting _ _ => d
    | .entering _ =>
      d.setDom k { u.countAborted with trans := .exiting demand known, wakeAt := none, eligible := false }
    | .none =>
      if u.state = .doze ∨ u.state = .nap ∨ u.state = .off then
        d.setDom k { u with trans := .exiting demand known, wakeAt := none, eligible := false }
      else d

/-- A request reaches a domain that sleeps (R25). -/
def Dev.demandWake (d : Dev) (k : Nat) : Dev := if k = 0 then d else d.startExit k true none

/-- A request is served by a domain: its idleness ends (R438). -/
def Dev.touch (d : Dev) (k : Nat) : Dev :=
  if (d.dom k).eligible then d.setDom k { d.dom k with eligible := false } else d

/-- What a request finds at a domain. -/
inductive Gate where
  | ok | fenced | asleep
  deriving DecidableEq, Repr

/-- A channel of LPDDR5X that is present and has still to be trained (R416): what reaches it waits. -/
def Dev.training (d : Dev) (k : Nat) : Bool :=
  (k = 26 || k = 27) && d.rf pgDRC 0x040 0 3 ≠ 0 && !d.links.trained.contains (k - 26)

/-- What a request finds, a fence first (R25, R26). -/
def Dev.gate (d : Dev) (k : Nat) : Gate :=
  if k = 0 then .ok else if d.isFenced k then .fenced else if (d.dom k).asleep || d.training k then .asleep else .ok

/-- A request arrives at a domain: a sleeping one begins to wake. -/
def Dev.knock (d : Dev) (k : Nat) : Gate × Dev :=
  match d.gate k with
  | .ok => (.ok, d.touch k)
  | .fenced => (.fenced, d)
  | .asleep => (.asleep, d.demandWake k)

end Sys2Proof.Machine
end

