-- ==== Sys2Proof/Machine/Wicu.lean ====
section
/-!
DEFINITION. The wheel interrupt controllers and the kettle core's interrupt view: levels, pending, claimability, the
request line, arrivals, claim and complete (R359–R370, R504).
-/

namespace Sys2Proof.Machine

/-- Key of private source `i` of core `c` of wheel `w`; wheel 8 is the kettle core's view. -/
def privSrc (w c i : Nat) : Nat := w * 512 + 256 + c * 32 + i

/-- Key of shared source `s` of wheel `w`. -/
def sharedSrc (w s : Nat) : Nat := w * 512 + s

/-- Whether some STARVE flag word is set (R426): the registers of the arbiter behind a starvation event. -/
def Dev.starveLevel (d : Dev) (e : Nat) : Bool :=
  if e ≤ 340 then d.reg pgHUB (0x100 + 0x80 * (e - 320) + 0x40) != 0
  else if 344 ≤ e ∧ e < 360 then d.reg (pgWARB + (e - 344) / 2) (0x100 + 0x80 * ((e - 344) % 2) + 0x40) != 0
  else if 360 ≤ e ∧ e < 368 then d.reg (pgWARB + (e - 360)) 0x204 != 0
  else false

/-- Stages that a FIFO holds. -/
def Dev.fifo (d : Dev) (f : Nat) : Fifo := smGet d.fifos f {}
def Dev.setFifo (d : Dev) (f : Nat) (v : Fifo) : Dev := { d with fifos := smSet d.fifos f v {} }

/-- LEVEL of FIFO `f` (FIF.THR). -/
def Dev.fifoLevel (d : Dev) (f : Nat) : Nat := d.rf pgFIF (0x100 + 0x40 * f + 0x04) 16 7

/-- The level of a device event (R360). -/
def Dev.eventLevel (d : Dev) (e : Nat) : Bool :=
  if 64 ≤ e ∧ e < 96 then bitAt d.gpi.level (e - 64)
  else if 96 ≤ e ∧ e < 128 then
    let l := d.fifoLevel (e - 96)
    decide (l ≠ 0 ∧ l ≤ (d.fifo (e - 96)).chain.length)
  else if 128 ≤ e ∧ e < 256 then (d.mbox (e - 128)).full
  else if 256 ≤ e ∧ e < 288 then smGet d.linkLevel e false
  else if 320 ≤ e ∧ e < 368 then d.starveLevel e
  else if 368 ≤ e ∧ e < 384 then d.rb pgFLT 0x054 (e - 368)
  else false

/-- The enabled event of a shared source's route. -/
def Dev.route (d : Dev) (w s : Nat) : Option Nat :=
  let r := d.reg (pgWICU + w) (0xB00 + 4 * s)
  if w < 8 ∧ bitAt r 31 then some (fld r 0 10) else none

/-- The level of private source `i` of core `c` of wheel `w` (R359). -/
def Dev.privLevel (d : Dev) (w c i : Nat) : Bool :=
  if w < 8 ∧ 1 ≤ i ∧ i ≤ 16 then
    let m := d.mbox (16 * w + (i - 1))
    m.full && m.target = c
  else if i = 17 then (d.core (8 * w + c)).fired
  else if w = 8 ∧ 20 ≤ i ∧ i ≤ 27 then d.rb pgKTL (0x108 + 16 * (i - 20)) 1
  else false

/-- The level of a source, by key. -/
def Dev.srcLevel (d : Dev) (k : Nat) : Bool :=
  let w := k / 512
  let r := k % 512
  if r < 256 then
    match d.route w r with
    | some e => d.eventLevel e
    | none => false
  else d.privLevel w ((r - 256) / 32) (r % 32)

/-- A source's sense is one of the edge senses (R362). -/
def Src.edge (s : Src) : Bool := 2 ≤ s.sense

/-- A source is PENDING (R363, R364). -/
def Dev.srcPending (d : Dev) (k : Nat) : Bool :=
  let s := d.src k
  if s.edge then s.count != 0
  else s.latch || (if s.sense = 0 then d.srcLevel k else !d.srcLevel k)

/-- The sources core `c` of wheel `w` can claim, apart from priority; those never written have PRIO 0 (R366). -/
def Dev.claimable (d : Dev) (w c : Nat) : List (Nat × Nat) :=
  (d.srcs.filter fun e =>
      e.1 / 512 = w && e.2.prio ≠ 0 && !e.2.mask && e.2.active.isNone &&
      (if e.1 % 512 < 256 then e.2.target = c else (e.1 % 512 - 256) / 32 = c) && d.srcPending e.1).map
    fun e => (e.2.prio, if e.1 % 512 < 256 then e.1 % 512 else e.1 % 32)

/-- The running priority of a core (R367). -/
def Dev.running (d : Dev) (k : Nat) : Nat := ((d.stack k).head?.map (·.1)).getD 0

/-- THRESH of a core; the kettle core's view keeps its own word. -/
def Dev.thresh (d : Dev) (k : Nat) : Nat :=
  if k < 64 then d.rf (pgWICU + k / 8) (0x100 + 0x40 * (k % 8)) 0 4 else (d.core k).kThresh

/-- The best of a list of (PRIO, source): highest PRIO, then lowest source number. -/
def bestSrc : List (Nat × Nat) → Option (Nat × Nat)
  | [] => none
  | x :: xs =>
    match bestSrc xs with
    | none => some x
    | some y => if y.1 > x.1 ∨ (y.1 = x.1 ∧ y.2 < x.2) then some y else some x

/-- The source a CLAIM by core `k` would pick (R367). -/
def Dev.claimPick (d : Dev) (k : Nat) : Option (Nat × Nat) :=
  bestSrc ((d.claimable (k / 8) (k % 8)).filter fun e => e.1 > d.thresh k && e.1 > d.running k)

/-- A core's request line (R366). -/
def Dev.line (d : Dev) (k : Nat) : Bool := (d.claimPick k).isSome

/-- Key of source number `s` as core `k` sees it. -/
def coreSrcKey (k s : Nat) : Nat := if s < 32 then privSrc (k / 8) (k % 8) s else sharedSrc (k / 8) s

/-- An arrival at an edge source (R363). -/
def Src.arrive (s : Src) : Src :=
  if s.edge then (if s.count = 255 then { s with ovf := true } else { s with count := s.count + 1 }) else s

/-- An arrival at a source, which an edge source counts (R363) where `counts` says so. A fenced wheel discards it (R475). One
that reaches a wheel common domain in DOZE or NAP wakes it and is counted once it has woken (R374); the sources of a domain in OFF
come back with the reset sense, which counts none. -/
def Dev.srcArrive (d : Dev) (k : Nat) (counts : Bool) : Dev :=
  let u := commonDom (k / 512)
  if k / 512 < 8 ∧ d.gate u ≠ .ok then
    if d.isFenced u ∨ (d.dom u).state = .off then d
    else
      let e := d.demandWake u
      if counts ∧ (d.src k).edge then { e with held := e.held ++ [.occur k] } else e
  else if counts then d.setSrc k (d.src k).arrive
  else d

/-- A source whose sense counts falls follows its level: a fall is an arrival (R362), but where the source has no route (R360). -/
def Dev.srcFall (d : Dev) (k : Nat) : Dev :=
  let s := d.src k
  if s.sense = 3 ∨ s.sense = 4 then
    let now := d.srcLevel k
    let routed := decide (256 ≤ k % 512) || (d.route (k / 512) (k % 512)).isSome
    let d := if s.level ∧ !now ∧ routed then d.srcArrive k true else d
    d.setSrc k { d.src k with level := now }
  else d

/-- Every source follows its level. -/
def Dev.srcFalls (d : Dev) : Dev := d.srcs.foldl (fun d e => d.srcFall e.1) d

/-- One occurrence at a source (R362). -/
def Dev.srcOccur (d : Dev) (k : Nat) : Dev :=
  let s := d.src k
  (d.srcArrive k (decide (s.sense = 2 ∨ s.sense = 4))).srcFall k

/-- A CLAIM read by core `k` (R367). -/
def Dev.claim (d : Dev) (k : Nat) : Nat × Dev :=
  match d.claimPick k with
  | none => (0, d)
  | some (p, s) =>
    let key := coreSrcKey k s
    let d := d.setSrc key { d.src key with active := some k, latch := false }
    (s, d.setStack k ((p, s) :: d.stack k))

/-- The stack without the entry of a source. -/
def dropSrc (s : Nat) : List (Nat × Nat) → List (Nat × Nat)
  | [] => []
  | x :: xs => if x.2 = s then xs else x :: dropSrc s xs

/-- A COMPLETE by core `k` of source `s` with a handled count (R368). -/
def Dev.complete (d : Dev) (k s n : Nat) : Dev :=
  let key := coreSrcKey k s
  let v := d.src key
  if s ≠ 0 ∧ v.active = some k then
    let v := if v.edge then { v with count := BitVec.ofNat 8 (v.count.toNat - n) } else v
    (d.setSrc key { v with active := none }).setStack k (dropSrc s (d.stack k))
  else if k < 64 then
    let p := pgWICU + k / 8
    (d.bump p 0x040 1 0x044 0).pageEvt p 0x10000
  else d

/-- PEND_SET of one source (R365). -/
def Src.pendSet (s : Src) : Src := if s.edge then s.arrive else { s with latch := true }

/-- PEND_CLR of one source (R365). -/
def Src.pendClr (s : Src) : Src := if s.edge then { s with count := 0 } else { s with latch := false }

/-- An operation on each source of a word of a bank whose bit is 1, from the first that the bank has. -/
def Dev.eachSrc (d : Dev) (f : Src → Src) (key : Nat → Nat) (first : Nat) (bits : Word) : Dev :=
  (List.range 32).foldl (fun d b => if bitAt bits b ∧ first ≤ b then d.setSrc (key b) (f (d.src (key b))) else d) d

/-- The SRC_CFG word of a source (R373). -/
def Dev.srcCfg (d : Dev) (k : Nat) : Word :=
  let s := d.src k
  w32 (fput 31 1 (b2n s.ovf) + fput 30 1 (b2n s.active.isSome) + fput 29 1 (b2n (d.srcPending k)) + fput 16 8 s.count.toNat +
    fput 8 3 s.target + fput 4 3 s.sense + fput 0 4 s.prio)

/-- A write of SRC_CFG (R365, R370); none where it is discarded. -/
def Dev.srcCfgWrite (d : Dev) (k : Nat) (v : Word) : Option Dev :=
  let s := d.src k
  let shared := k % 512 < 256
  let target := if shared then fld v 8 3 else s.target
  let sense := fld v 4 3
  if sense > 4 ∨ (s.active.isSome ∧ (target ≠ s.target ∨ sense ≠ s.sense)) then none
  else
    let s := if sense ≠ s.sense then { s with count := 0, latch := false, sense := sense, level := d.srcLevel k } else s
    some (d.setSrc k { s with target := target, prio := fld v 0 4, ovf := s.ovf && !bitAt v 31 })

/-- A 32-bit word of a property of 32 sources. -/
def srcWord (f : Nat → Bool) : Word :=
  w32 ((List.range 32).foldl (fun n b => n + (if f b then 2 ^ b else 0)) 0)

/-- RUNc (R373). -/
def Dev.runWord (d : Dev) (k : Nat) : Word :=
  let st := d.stack k
  w32 (fput 8 8 ((st.head?.map (·.2)).getD 0) + fput 4 4 st.length + fput 0 4 (d.running k))

/-- REQc (R373): the best claimable PRIO, and LINE. -/
def Dev.reqWord (d : Dev) (k : Nat) : Word :=
  w32 (fput 4 4 (((bestSrc (d.claimable (k / 8) (k % 8))).map (·.1)).getD 0) + b2n (d.line k))

/-- Occurrences of a device event at every enabled route that names it (R361). -/
def Dev.routeEvent (d : Dev) (e : Nat) : Dev :=
  let want : Word := w32 (0x80000000 + e)
  let hits := d.regs.filter fun r => pgWICU * 1024 ≤ r.1 && r.1 < (pgWICU + 8) * 1024 && 0xB80 / 4 ≤ r.1 % 1024 &&
    r.1 % 1024 < 0xF00 / 4 && r.2 &&& 0x800003FF = want
  hits.foldl (fun d r => d.srcOccur (sharedSrc (r.1 / 1024 - pgWICU) (r.1 % 1024 - 0xB00 / 4))) d

end Sys2Proof.Machine
end

