-- ==== Sys2Proof/Machine/Mem.lean ====
section
/-!
DEFINITION. The memories: which unit serves an address, check bits, poison and injection (R393–R396, R482, R483, R565),
alias writes (R397, R398), the host window table (R410), and the energy events of accesses (R57).
-/

namespace Sys2Proof.Machine

/-- The domain whose unit serves an address (R390). -/
def addrDom (a : Nat) : Nat :=
  let p := plainAddr a
  match rangeOf a with
  | .sram _ => 124 + p / 0x300000
  | .xram w _ => commonDom w
  | .hwt => 3
  | .lram g => if g = agKettle then 1 else coreDom ((g - 1) / 8) ((g - 1) % 8)
  | .dram => 26 + p / 256 % 2
  | .hostwin => 3
  | .portwin q => 8 + q
  | _ => 0

/-- The hub segment of a service-die domain; none on the I/O die, whose crossbar is in domain 0. -/
def segOf (dom : Nat) : Option Nat :=
  if 28 ≤ dom ∧ dom < 76 then some 148 else if 76 ≤ dom ∧ dom < 124 then some 149
  else if 124 ≤ dom ∧ dom < 140 then some 150 else if 140 ≤ dom ∧ dom < 148 then some 151
  else if 148 ≤ dom then some dom else none

/-- The segments on the path of a hub request between two domains (R419, R420): none within the I/O die, and within a wheel the
one its uplink leads into (log 24). -/
def hubPath (src dst : Nat) : List Nat :=
  match segOf src, segOf dst with
  | none, none => []
  | s, t =>
    if (domWheel src).isSome ∧ domWheel src = domWheel dst ∨ segOf src = some dst then s.toList
    else (s.toList ++ [150] ++ t.toList).eraseDups

/-- The segments on the path of an access to an address by a unit of a domain: a wheel's own units reach its exchange RAM, at port
A or port B, without a segment (R14, R327, R426). -/
def addrPath (src a : Nat) : List Nat :=
  match rangeOf a with
  | .xram w _ => if domWheel src = some w then [] else hubPath src (commonDom w)
  | _ => hubPath src (addrDom a)

/-- The domains that an access meets: those of its path, then the one that serves it. -/
def pathTo (src a : Nat) : List Nat := addrPath src a ++ [addrDom a]

/-- A request knocks at domains one after another, and stops where one does not serve it. -/
def Dev.knockAll (d : Dev) : List Nat → Gate × Dev
  | [] => (.ok, d)
  | k :: ks =>
    match d.knock k with
    | (.ok, d) => d.knockAll ks
    | r => r

/-- What a request finds at the first of some domains that does not serve it. -/
def Dev.gateAll (d : Dev) (ks : List Nat) : Gate := ((ks.map d.gate).find? (· ≠ .ok)).getD .ok

/-- A hub request of a unit of domain `src` reaches the unit that serves an address (R25, R26, R420). -/
def Dev.reach (d : Dev) (src a : Nat) : Gate × Dev := d.knockAll (pathTo src a)

/-- Whether a fence stands on the way to an address (R473). -/
def Dev.fencedOn (d : Dev) (ks : List Nat) : Bool := ks.any fun k => d.gate k = .fenced

/-- The domains on the way to an address that sleep. -/
def Dev.sleeping (d : Dev) (src a : Nat) : List Nat :=
  (pathTo src a).filter fun k => d.gate k = .asleep

/-- Populated bytes of LPDDR5X (R414). -/
def Dev.dramSize (d : Dev) : Nat :=
  match d.rf pgDRC 0x040 0 3 with
  | 1 => 2 * 2 ^ 30
  | 2 => 4 * 2 ^ 30
  | 3 => 8 * 2 ^ 30
  | 4 => 12 * 2 ^ 30
  | 5 => 16 * 2 ^ 30
  | _ => 0

/-- An LPDDR5X address is in the populated part. -/
def Dev.dramHas (d : Dev) (a : Nat) : Bool := decide (a < dramBase + d.dramSize)

/-! ### Fault events -/

/-- A fault event enters the step's collection (R463). -/
def Dev.raiseFault (d : Dev) (e : FaultEv) : Dev := { d with faults := { d.faults with queue := d.faults.queue ++ [e] } }

/-- Class of a kind as raised (R461). -/
def kindClass (k : Nat) : Nat :=
  if k = 0 ∨ 31 < k then 0
  else if 28 ≤ k then 5
  else if k = 20 ∨ k = 21 ∨ k = 22 ∨ k = 26 then 3
  else if k = 13 ∨ k = 18 ∨ (k ≤ 12 ∧ k % 2 = 0) then 2
  else 1

/-! ### Checkers -/

/-- The checker of a memory: page, number, kinds of a corrected and an uncorrectable error, SOURCE, INFO, unit, and where
each count stands. -/
structure Checker where
  page : Nat
  num : Nat
  ce : Nat
  ue : Nat
  source : Nat
  info : Nat
  unit : Option Nat
  corr : Option (Nat × Nat)
  unc : Option (Nat × Nat)
  /-- The memory stores poison; link ECC of LPDDR5X does not (R415). -/
  keeps : Bool := true

/-- The checker of the 8-byte word at an address (R461, R482). -/
def checkerOf (a : Nat) : Option Checker :=
  let p := plainAddr a
  match rangeOf a with
  | .sram _ =>
    let g := p / 0x300000
    some { page := pgMEM, num := g, ce := 1, ue := 2, source := g, info := p / 8, unit := some (124 + g),
           corr := some (0x100 + 4 * g, 0), unc := some (0x140 + 4 * g, 0) }
  | .xram w _ =>
    some { page := pgMEM, num := 16 + w, ce := 3, ue := 4, source := 16 + w, info := p / 8, unit := some (commonDom w),
           corr := some (0x180 + 4 * w, 0), unc := some (0x180 + 4 * w, 16) }
  | .lram g =>
    if g = agKettle then
      some { page := pgKTL, num := 1, ce := 27, ue := 28, source := 1, info := p % 0x8000 / 8, unit := none,
             corr := none, unc := none }
    else
      some { page := pgMEM, num := 23 + g, ce := 5, ue := 6, source := g, info := p / 8,
             unit := some (coreDom ((g - 1) / 8) ((g - 1) % 8)), corr := some (0x1A0, 0), unc := some (0x1A0, 16) }
  | .caddy =>
    some { page := pgCDY, num := 0, ce := 7, ue := 8, source := 0, info := (p - caddyBase) / 8, unit := none,
           corr := some (0x064, 0), unc := some (0x064, 16) }
  | .poll =>
    some { page := pgKTL, num := 0, ce := 27, ue := 28, source := 0, info := (p - pollBase) / 8, unit := none,
           corr := none, unc := none }
  | .dram =>
    some { page := pgDRC, num := p / 256 % 2, ce := 11, ue := 12, source := p / 256 % 2, info := (p - dramBase) / 8,
           unit := some (26 + p / 256 % 2), corr := some (0x048, 0), unc := some (0x048, 16), keeps := false }
  | _ => none

/-- The injection a checker's next check meets, if any, as DOUBLE; a ONESHOT one is spent (R483). -/
def Dev.takeInject (d : Dev) (p c : Nat) : Option Bool × Dev :=
  let mode := d.rf p 0x02C 4 2
  if (mode = 1 ∨ mode = 2) ∧ d.rf p 0x02C 8 8 = c then
    (some (d.rb p 0x02C 3), if mode = 1 then d.setRf p 0x02C 4 2 0 else d)
  else (none, d)

/-- An ECC counter takes one event. -/
def Dev.eccCount (d : Dev) (p : Nat) (c : Option (Nat × Nat)) : Dev :=
  match c with
  | some (o, lo) => d.bump16 p o lo 1
  | none => d

/-- The check of one 8-byte word as it is read: whether it is poisoned (R395, R483). -/
def Dev.checkWord (d : Dev) (a : Nat) : Bool × Dev :=
  match checkerOf a with
  | none => (d.poisoned a, d)
  | some c =>
    match d.takeInject c.page c.num with
    | (none, d) => (d.poisoned a, d)
    | (some dbl, d) =>
      let ev := fun k => { kind := k, page := c.page, source := c.source, info := w32 c.info, unit := c.unit,
                           injected := true : FaultEv }
      if d.poisoned a then (true, d)
      else if dbl then
        let d := (d.eccCount c.page c.unc).raiseFault (ev c.ue)
        (true, if c.keeps then d.setPoison a true else d)
      else (false, (d.eccCount c.page c.corr).raiseFault (ev c.ce))

/-- The checks of the words that `n` bytes from an address lie in. -/
def Dev.checkWords (d : Dev) (a n : Nat) : Bool × Dev :=
  ((List.range ((a % 8 + n + 7) / 8)).map fun i => a / 8 * 8 + 8 * i).foldl
    (fun r w => let c := r.2.checkWord w; (r.1 || c.1, c.2)) (false, d)

/-- A read of device memory: its bytes, and whether a word of them is poisoned. -/
def Dev.memRead (d : Dev) (a n : Nat) : List Byte × Bool × Dev :=
  let r := d.checkWords a n
  (r.2.peek a n, r.1, r.2)

/-! ### Writes -/

/-- A byte as an alias write leaves it (R397). -/
def aliasByte (a : Nat) (old new : Byte) : Byte :=
  if a < 2 ^ 45 then new else if a / 2 ^ 45 = 2 then old ||| new else old &&& ~~~new

/-- The bytes that a write leaves at an address. -/
def Dev.merged (d : Dev) (a : Nat) (bs : List Byte) : List Byte := (d.peek a bs.length).zipWith (aliasByte a) bs

/-- A write of bytes that lie in one 8-byte word: whether it was refused for poison (R394, R396). -/
def Dev.writeWord (d : Dev) (a : Nat) (bs : List Byte) : Bool × Dev :=
  if bs.length = 8 ∧ a < 2 ^ 45 then (false, (d.setPoison a false).poke a bs)
  else if rangeOf a = .dram then (false, d.poke a bs)
  else
    let c := d.checkWord (a / 8 * 8)
    if c.1 then (true, c.2) else (false, c.2.poke a (c.2.merged a bs))

/-- Bytes cut at 8-byte boundaries, each part with its address. -/
def wordParts (a : Nat) (bs : List Byte) : Nat → List (Nat × List Byte)
  | 0 => []
  | n + 1 =>
    let k := 8 - a % 8
    if bs.isEmpty then [] else (a, bs.take k) :: wordParts (a + k) (bs.drop k) n

/-- A write to device memory: whether some word refused it for poison. -/
def Dev.memWrite (d : Dev) (a : Nat) (bs : List Byte) : Bool × Dev :=
  (wordParts a bs (bs.length + 1)).foldl
    (fun r p => let c := r.2.writeWord p.1 p.2; (r.1 || c.1, c.2)) (false, d)

/-- A write marked poisoned stores every word it touches as poisoned, with its data (R396, log 29); LPDDR5X refuses it
(R415). -/
def Dev.memPoisonWrite (d : Dev) (a : Nat) (bs : List Byte) : Dev :=
  if rangeOf a = .dram then
    let c := plainAddr a / 256 % 2
    (d.bump pgDRC 0x04C 1 0x050 0).raiseFault
      { kind := 13, page := pgDRC, source := c, info := w32 ((plainAddr a - dramBase) / 8), unit := some (26 + c) }
  else
    ((List.range ((a % 8 + bs.length + 7) / 8)).map fun i => a / 8 * 8 + 8 * i).foldl (fun d w => d.setPoison w true)
      (d.memWrite a bs).2

/-! ### The host window (R410) -/

/-- Entry `i` of the host window table. -/
def Dev.hwtEntry (d : Dev) (i : Nat) : BitVec 64 := BitVec.ofNat 64 (leNat (d.peek (hwtBase + 8 * i) 8))

/-- An entry is valid. -/
def hwtValid (e : BitVec 64) : Bool := e.getLsbD 63 && fld e 56 4 = 0 && fld e 0 21 = 0

/-- Why the host window refuses a request (R87, R88). -/
inductive WinErr where
  | invalid | noRead | noWrite | asleep
  deriving DecidableEq, Repr

/-- Host memory may be reached: the host is awake, and the function may send requests (R88, R516). -/
def Dev.hostOpen (d : Dev) : Bool := d.rb pgHIF 0x040 0 && d.busMaster

/-- Translation of a host window address (R87, R88, R410). -/
def Dev.hostXlate (d : Dev) (write : Bool) (a : Nat) : Except WinErr Nat :=
  if !d.hostOpen then .error .asleep
  else
    let o := a - hostBase
    let e := d.hwtEntry (o / 2 ^ 21)
    if !hwtValid e then .error .invalid
    else if write ∧ !e.getLsbD 62 then .error .noWrite
    else if !write ∧ !e.getLsbD 61 then .error .noRead
    else .ok (fld e 21 35 * 2 ^ 21 + o % 2 ^ 21)

/-- A request that its entry refuses: its lookup (R410), and HWT.REFUSED. -/
def Dev.countRefused (d : Dev) (tag : Nat) : Dev := (d.count 1 4 tag 1).bump pgHWT 0x048 1 0x04C 0

/-- Bytes the device writes to host memory. -/
def Dev.hostPoke (d : Dev) (hpa : Nat) (bs : List Byte) : Dev := { d with hostMem := memPutAll d.hostMem hpa bs }

/-- A store at port A of an exchange RAM is noted, as its address, the `n` bytes it left and the word that stood there before: the
next command may reach port B in the same step (R400). -/
def Dev.notePortA (d : Dev) (a n : Nat) (old : List Byte) : Dev :=
  let r := d.nextSeq
  { r.2 with portA := some { addr := a, bytes := d.peek a n, old := old, stamp := r.1 } }

/-! ### Energy events of an access (R57, log 24) -/

/-- The region and kind that count the 128-bit transfers of a segment (R57, R425). -/
def segKind (k : Nat) : Nat × Nat := if k = 148 then (5, 6) else if k = 149 then (6, 6) else if k = 150 then (7, 3) else (8, 5)

/-- The transfers of `n` bytes between a requester and a target: one count for each segment of the path and, from die to die, one
for the bridge, in the direction in which the data goes (R19, R57). -/
def Dev.countHub (d : Dev) (tag src dst : Nat) (path : List Nat) (write : Bool) (n : Nat) : Dev :=
  let t := (n + 15) / 16
  let d := path.foldl (fun d k => d.count (segKind k).1 (segKind k).2 tag t) d
  if (segOf src).isSome = (segOf dst).isSome then d
  else (d.count 7 4 tag t).wideAdd pgBRG (if write = (segOf dst).isNone then 0x04C else 0x054) t

/-- The TLPs of a request through the controller (region 1) or the switch (region 2), and its data (R57). -/
def Dev.countTlp (d : Dev) (r tag heads n : Nat) : Dev := (d.count r 2 tag heads).count r 3 tag ((n + 31) / 32)

/-- The events that the memory accessed counts for one access of at most 32 bytes. -/
def Dev.countTarget (d : Dev) (tag : Nat) (write : Bool) (a n : Nat) : Dev :=
  match rangeOf a with
  | .sram _ => d.count 7 (if n < 32 then 2 else if write then 1 else 0) tag 1
  | .xram w _ =>
    let d := d.count (if w < 4 then 5 else 6) 2 tag 1
    if write then { d with portB := d.portB ++ [(a, n)] } else d
  | .lram g => if g = agKettle then d else d.count (if g ≤ 32 then 5 else 6) 1 tag 1
  | .dram => d.count 4 (if write then 1 else 0) tag ((n + 1) / 2)
  | .hostwin => ((d.count 1 4 tag 1).count 1 2 tag (if write then 1 else 2)).count 1 3 tag ((n + 31) / 32)
  | _ => d

/-- The events of one access of at most 32 bytes through the hub by a unit of a domain. The kettle SRAM of the poll page counts
its words where it is read. -/
def Dev.countAccess (d : Dev) (tag src : Nat) (write : Bool) (a n : Nat) : Dev :=
  (d.countHub tag src (addrDom a) (addrPath src a) write n).countTarget tag write a n

end Sys2Proof.Machine
end

