-- ==== Sys2Proof/Machine/Events.lean ====
section
/-!
DEFINITION. Device events: their WICU routes, the engines' waiting subchannels and arrival counts, and the trace ring
(R107, R361, R510); with the state changes of a subchannel and its boundary image (R137, R169).
-/

namespace Sys2Proof.Machine

/-- The boundary image takes a subchannel's state (R169). -/
def Dev.copyImage (d : Dev) (i : Nat) : Dev :=
  let s := d.scb i
  d.setImage i { state := s.state, ccwAddr := s.ccwAddr, residual := s.residual }

/-- A subchannel changes state (R137). -/
def Dev.setSub (d : Dev) (i : Nat) (st : SubState) (c : Cause) : Dev :=
  (d.setScb i { d.scb i with state := st, cause := c }).copyImage i

/-- A subchannel begins a wait, in the order of waits. -/
def Dev.subWait (d : Dev) (i : Nat) (c : Cause) : Dev :=
  let r := d.nextSeq
  let d := r.2
  (d.setCtx i { d.ctx i with waitSeq := r.1 }).setSub i .waiting c

/-- The entry of least wait order among those that satisfy a test. -/
def firstWaiter (f : Nat → Bool) (d : Dev) : List (Nat × Scb) → Option Nat
  | [] => none
  | e :: es =>
    match firstWaiter f d es with
    | none => if f e.1 then some e.1 else none
    | some j => if f e.1 && (d.ctx e.1).waitSeq < (d.ctx j).waitSeq then some e.1 else some j

/-- The longest-waiting subchannel of engine `n` whose WAIT_EVENT names an event (R107). -/
def Dev.eventWaiter (d : Dev) (n e : Nat) : Option Nat :=
  firstWaiter (fun i => i / 256 = n && (d.scb i).state = .waiting && (d.scb i).cause = .event &&
    fld (d.ctx i).ccw.param 0 10 = e) d d.scbs

/-- A WAIT_EVENT ends with its event (R108, R109). -/
def Dev.deliver (d : Dev) (i : Nat) : Dev :=
  let d := d.wlRemove i .subch i
  let d := d.setScb i { d.scb i with residual := 0, lastDevstat := 0 }
  (d.setCtx i { d.ctx i with phase := .done }).setSub i .pending .none

/-- The arrival count of an event rises (R107); 256 is added where the overflow bit is set. -/
def Engine.arrive (g : Engine) (e : Nat) : Engine :=
  let v := smGet g.arr e 0
  { g with arr := smSet g.arr e (if v % 256 = 255 then 511 else v + 1) 0 }

/-- An occurrence reaches a channel engine (R107). -/
def Dev.engineEvent (d : Dev) (e n : Nat) : Dev :=
  match d.eventWaiter n e with
  | some i => d.deliver i
  | none => if (d.dom (ceDom n)).state = .off then d else d.setEng n ((d.eng n).arrive e)

/-- An entry of the trace ring is written through the bridge to its bank group (R19, R510): it waits for a domain that sleeps on its
way, and is lost at a fence (R26). -/
def Dev.traceStore (d0 : Dev) (a : Nat) (bs : List Byte) : Dev :=
  match d0.reach 0 a with
  | (.ok, d) =>
    let d := ((d.memWrite a bs).2).countAccess (agentTag agDebug) 0 true a 16
    d.setReg pgDBG 0x690 (d.reg pgDBG 0x690 + 1)
  | (.asleep, d) => { d0 with doms := d.doms, held := d0.held ++ [.trace a bs] }
  | (.fenced, _) => d0.bump pgDBG 0x694 1 0x698 0

/-- The trace writer is busy with an entry. -/
def Dev.tracing (d : Dev) : Bool := d.held.any fun q => match q with
  | .trace _ _ => true
  | _ => false

/-- An occurrence reaches the trace writer (R510), which samples its time (R561); one that finds it busy is lost. -/
def Dev.traceEvent (d : Dev) (e : Nat) : Dev :=
  let c := d.reg pgDBG 0x680
  if bitAt c 31 ∧ fld c 0 10 ≤ e ∧ e ≤ fld c 16 10 then
    if d.tracing then d.bump pgDBG 0x694 1 0x698 0
    else
      let base := (d.reg pgDBG 0x684).toNat + d.rf pgDBG 0x688 0 16 * 2 ^ 32
      let t := d.sample (agentTag agDebug)
      t.2.traceStore (base + 16 * ((d.reg pgDBG 0x690).toNat % 2 ^ d.rf pgDBG 0x68C 0 4)) (leBytes 8 t.1.toNat ++ leBytes 8 e)
  else d

/-- An occurrence of a device event (R361). -/
def Dev.raiseEvent (d : Dev) (e : Nat) : Dev :=
  ((List.range 16).foldl (fun d n => d.engineEvent e n) (d.routeEvent e)).traceEvent e

/-- The doorbell of mailbox `m` of all 128 (R359, R376): the target core's source, the mailbox's event, and the wake of the
target core's domain. -/
def Dev.doorbell (d : Dev) (m : Nat) : Dev :=
  let w := m / 16
  let c := (d.mbox m).target
  let d := (d.srcOccur (privSrc w c (m % 16 + 1))).raiseEvent (128 + m)
  d.demandWake (coreDom w c)

/-- A lock of wheel `w` becomes free (R359, source 19). -/
def Dev.lockFreeOccur (d : Dev) (w : Nat) : Dev :=
  (List.range 8).foldl (fun d c => d.srcOccur (privSrc w c 19)) d

end Sys2Proof.Machine
end

