-- ==== Sys2Proof/Machine/Streams.lean ====
section
/-!
DEFINITION. The transform engines: descriptors and their checks, the stages as functions of their input, allocation, the
result area and the end of a stream (R293–R319, R568).
-/

namespace Sys2Proof.Machine

/-! ### Descriptors (R299) -/

/-- Bytes of a little-endian field. -/
def fieldAt (bs : List Byte) (o n : Nat) : Nat := leNat ((bs.drop o).take n)

/-- A descriptor of the table. -/
def Dev.xdesc (d : Dev) (i : Nat) : List Byte := smGet d.xdt i (List.replicate 64 0)

def Dev.setXdesc (d : Dev) (i : Nat) (bs : List Byte) : Dev := { d with xdt := smSet d.xdt i bs (List.replicate 64 0) }

def dNStages (ds : List Byte) : Nat := fieldAt ds 0 1 % 4
def dKind (ds : List Byte) (i : Nat) : Nat := fieldAt ds (1 + i) 1
def dParam (ds : List Byte) (i : Nat) : Nat := fieldAt ds (0x10 + 8 * i) 8
def dCapacity (ds : List Byte) : Nat := fieldAt ds 4 4
def dResult (ds : List Byte) : Nat := fieldAt ds 8 8

/-- The engine kind of a stage kind: 0 AES, 1 SHA, 2 DEFLATE, 3 the CRC logic; none where reserved. -/
def stageEngine (k : Nat) : Option Nat :=
  if 1 ≤ k ∧ k ≤ 4 then some 0 else if k = 8 then some 1 else if k = 0x0C ∨ k = 0x0D then some 3
  else if k = 0x10 ∨ k = 0x11 then some 2 else none

/-- The stages' engine kinds. -/
def dEngines (ds : List Byte) : List (Option Nat) := (List.range (dNStages ds)).map fun i => stageEngine (dKind ds i)

/-- The engine kinds a descriptor is allocated (R296). -/
def dNeeds (ds : List Byte) : List Nat :=
  let ks := (dEngines ds).filterMap id
  if ks = [3] then [1] else ks.filter fun k => k ≠ 3

/-- The parameter bits a stage kind's table names. -/
def paramMask (k : Nat) : Nat :=
  if k = 1 ∨ k = 2 then 0x311F3F else if k = 3 ∨ k = 4 then 0xFFFFFFFF0001003F else if k = 8 then 3
  else if k = 0x0C ∨ k = 0x0D then 1 else if k = 0x10 then 7 else 0

/-- DU_N, TWEAK and KEY of an AES stage. -/
def pDuN (sp : Nat) : Nat := sp / 2 ^ 8 % 32
def pTweak (sp : Nat) : Nat := sp / 2 ^ 20 % 4
def pKey (sp : Nat) : Nat := sp % 64
def pBit16 (sp : Nat) : Bool := sp / 2 ^ 16 % 2 = 1
def pAad (sp : Nat) : Nat := sp / 2 ^ 32

/-- Bytes at the start of the IV field that the AES stage may use. -/
def ivBytes (k sp : Nat) : Nat := if k = 3 ∨ k = 4 then 12 else if pTweak sp = 0 then 16 else 0

/-- A key slot grants a stage kind to a channel engine (R300, R313). -/
def Dev.keyGrants (d : Dev) (k sp n : Nat) : Bool :=
  let v := d.reg pgXAE (0x100 + 4 * pKey sp)
  bitAt v 31 && bitAt v 30 == decide (k ≤ 2) && bitAt v n

/-- A stage's own parameters obey its table, for a command's OP on a binding (R300). -/
def Dev.stageOk (d : Dev) (ds : List Byte) (op : Byte) (binding : Word) (n i : Nat) : Bool :=
  let k := dKind ds i
  let sp := dParam ds i
  sp &&& paramMask k = sp &&
  (if k = 1 ∨ k = 2 then
    decide (9 ≤ pDuN sp ∧ pDuN sp ≤ 16 ∧ pTweak sp ≤ 1) &&
    (pTweak sp = 0 || ((op = 0x40 || op = 0x41) && fld binding 28 4 = 1 &&
      decide (pDuN sp ≤ d.rf pgNVA (0x114 + 0x40 * fld binding 0 5) 0 4)))
   else if k = 0x10 then decide (1 ≤ sp ∧ sp ≤ 4) else true) &&
  (if 1 ≤ k ∧ k ≤ 4 then d.keyGrants k sp n && ((ds.drop (0x30 + ivBytes k sp)).all (· == 0)) else true)

/-- Engines of a kind, and the page and domain of one. -/
def engCount (k : Nat) : Nat := if k = 1 then 8 else 4
def engPage (k : Nat) : Nat := if k = 0 then pgXAE else if k = 1 then pgXSH else pgXDF
def engDom (k e : Nat) : Nat := if k = 0 then 140 + e / 2 else if k = 1 then 142 + e / 4 else 144 + e

/-- An engine may take a stream: its page enabled, its domain not fenced (R297, R316). -/
def Dev.engUsable (d : Dev) (k e : Nat) : Bool := d.rb (engPage k) 0x008 0 && !d.isFenced (engDom k e)

/-- An engine serves no stream. -/
def Dev.engFree (d : Dev) (k e : Nat) : Bool := d.streams.all fun s => !s.2.engs.contains (16 * k + e)

/-- The checks of R300: a descriptor is valid for a command. `stored`: output goes to memory or a device. -/
def Dev.xdtValid (d : Dev) (ds : List Byte) (op : Byte) (binding : Word) (n : Nat) (stored : Bool) : Bool :=
  let ctrl := fieldAt ds 0 1
  let ns := dNStages ds
  let es := dEngines ds
  let res := dResult ds
  decide (128 ≤ ctrl ∧ ctrl % 128 < 4 ∧ 0 < ns) &&
  ((List.range 3).all fun i => if i < ns then (stageEngine (dKind ds i)).isSome else dKind ds i = 0) &&
  ((List.range 3).all fun i => i < ns || dParam ds i = 0) &&
  es.eraseDups.length = es.length &&
  ((List.range ns).all fun i => d.stageOk ds op binding n i) &&
  fieldAt ds 0x28 8 = 0 &&
  (es.contains (some 0) || fieldAt ds 0x30 16 = 0) &&
  res % 256 = 0 && decide (res < 2 ^ 45) &&
  (match rangeOf res with
   | .sram _ => true
   | .xram _ _ => true
   | _ => false) &&
  (!stored || dCapacity ds ≠ 0) &&
  ((dNeeds ds).all fun k => (List.range (engCount k)).any fun e => d.engUsable k e)

/-! ### The stages as functions of their input -/

/-- What the stages make of a stream's bytes. -/
structure StreamRes where
  out : List Byte
  /-- The first error, with its stage (R310). -/
  err : Option (Nat × Nat) := none
  crc : Nat := 0
  tag : List Byte := List.replicate 16 0
  trailing : Nat := 0
  /-- Bytes 0x40–0xBF of the result area. -/
  sha : List Byte := List.replicate 128 0
  /-- Region 8 events by kind (R57). -/
  counts : List (Nat × Nat) := []

/-- An XTS stage (R301, R302): output and error. -/
def xtsStage (enc : Bool) (sp first : Nat) (key inp : List Byte) (final : Bool) : List Byte × Option Nat :=
  let k1 := aesRoundKeys (key.take 32)
  let k2 := aesRoundKeys ((key.drop 32).take 32)
  let run := xtsBlocks enc k1 k2 first (2 ^ pDuN sp)
  let part := inp.length % 16
  if !final ∨ part = 0 then (run inp, none)
  else if pBit16 sp then (run (inp ++ List.replicate (16 - part) 0), none)
  else (run inp, some 3)

/-- A GCM stage (R303, R304): output, error and tag. `saved` is the TAG field at the take. -/
def gcmStage (enc : Bool) (sp : Nat) (iv key saved inp : List Byte) (final : Bool) : List Byte × Option Nat × List Byte :=
  let rks := aesRoundKeys (key.take 32)
  let na := pAad sp
  let held := if !enc ∧ pBit16 sp then 16 else 0
  let body := inp.take (inp.length - held)
  let aad := body.take na
  let text := body.drop na
  let other := xorBytes text (gcmStream rks iv text.length)
  let out := aad ++ other
  if !final then (out, none, [])
  else if inp.length < na + held then (out, some 5, [])
  else
    let tag := gcmTag rks iv aad (if enc then other else text)
    if enc then (if pBit16 sp then out ++ tag else out, none, tag)
    else (out, if tag = (if pBit16 sp then inp.drop (inp.length - 16) else saved) then none else some 4, tag)

/-- The loaded SHA state of a stage: words, bits and pending bytes (R305). -/
def shaLoad (sp : Nat) (area : List Byte) : List Word × Nat × List Byte :=
  if sp % 4 < 2 then (shaInit, 0, [])
  else ((List.range 8).map (fun i => w32 (beNat ((area.drop (0x40 + 4 * i)).take 4))), fieldAt area 0x60 8,
        (area.drop 0x80).take (fieldAt area 0x68 1))

/-- A SHA stage's fields of the result area once its input has ended, and the blocks it has hashed (R305). -/
def shaStage (sp : Nat) (area inp : List Byte) (final : Bool) : List Byte × Nat :=
  let l := shaLoad sp area
  let msg := l.2.2 ++ inp
  let bits := l.2.1 + 8 * inp.length
  if final ∧ (sp % 4 = 0 ∨ sp % 4 = 3) then
    let full := msg ++ shaPad bits (msg.length % 64)
    (shaBytes (shaBlocks l.1 full) ++ leBytes 8 bits ++ List.replicate 88 0, full.length / 64)
  else
    let rest := msg.drop (msg.length / 64 * 64)
    (shaBytes (shaBlocks l.1 msg) ++ leBytes 8 bits ++ leBytes 1 rest.length ++ List.replicate 23 0 ++ rest ++
      List.replicate (64 - rest.length) 0, msg.length / 64)

/-- A CRC stage's result (R306). -/
def crcStage (k sp : Nat) (area inp : List Byte) : Nat :=
  let m := if k = 0x0C then 2 ^ 32 - 1 else 2 ^ 64 - 1
  let poly := if k = 0x0C then crc32cPoly else crc64Poly
  let init := if sp % 2 = 1 then (fieldAt area 0x18 8 % (m + 1)) ^^^ m else m
  crcRun poly init inp ^^^ m

/-- The stage whose loaded SHA state is invalid, as the stream takes its descriptor (R305). -/
def Stream.badSha (s : Stream) : Option Nat :=
  (List.range (dNStages s.desc)).find? fun j =>
    decide (dKind s.desc j = 8 ∧ 2 ≤ dParam s.desc j % 4 ∧ 63 < fieldAt s.area 0x68 1)

/-- Stage `i` of a stream. -/
def Stream.stage (s : Stream) (final : Bool) (r : StreamRes) (i : Nat) : StreamRes :=
  let k := dKind s.desc i
  let sp := dParam s.desc i
  let fin := final && r.err.isNone
  let note : Option Nat → Option (Nat × Nat) := fun e => if r.err.isSome then r.err else e.map fun c => (c, i)
  let inp := r.out
  if k = 1 ∨ k = 2 then
    let first := if pTweak sp = 0 then fieldAt s.desc 0x30 16 else s.first
    let x := xtsStage (k = 1) sp first s.key inp fin
    { r with out := x.1, err := note x.2,
             counts := (0, 14 * (x.1.length / 16 + ceilDiv x.1.length (2 ^ pDuN sp))) :: r.counts }
  else if k = 3 ∨ k = 4 then
    let x := gcmStage (k = 3) sp ((s.desc.drop 0x30).take 12) s.key ((s.area.drop 0x20).take 16) inp fin
    { r with out := x.1, err := note x.2.1, tag := if x.2.2.isEmpty then r.tag else x.2.2,
             counts := (0, 14 * (ceilDiv (x.1.length - pAad sp) 16 + if fin then 2 else 0)) :: r.counts }
  else if k = 8 then
    let x := shaStage sp s.area inp fin
    { r with sha := x.1, counts := (1, 64 * x.2) :: r.counts }
  else if k = 0x0C ∨ k = 0x0D then
    { r with crc := crcStage k sp s.area inp, counts := (4, ceilDiv inp.length 32) :: r.counts }
  else if k = 0x10 then
    { r with out := deflateAll sp inp fin, counts := (2, 4 * sp * inp.length) :: r.counts }
  else
    let x := inflate inp
    { r with out := x.2.1, trailing := if x.1 = .ended then inp.length - x.2.2 else 0,
             err := note (if x.1 = .bad then some 6 else if fin ∧ x.1 = .need then some 7 else none),
             counts := (3, 8 * x.2.1.length) :: r.counts }

/-- The stages over the bytes a stream has taken; `final`: the stream has ended. -/
def Stream.run (s : Stream) (final : Bool) : StreamRes :=
  (List.range (dNStages s.desc)).foldl (s.stage final) { out := s.inp }

/-! ### The streams of the device -/

def Dev.stream (d : Dev) (i : Nat) : Option Stream := smFind d.streams i

/-- The tag's region 8 counts rise to what a run has reached. -/
def Dev.countStages (d : Dev) (tag : Nat) (before after : List (Nat × Nat)) : Dev :=
  (after.zip (before ++ List.replicate after.length (0, 0))).foldl (fun d p => d.count 8 p.1.1 tag (p.1.2 - p.2.2)) d

/-- The first block of the result area (R310). -/
def resultHead (status inLen outLen crc : Nat) : List Byte :=
  leBytes 4 status ++ leBytes 4 0 ++ leBytes 8 inLen ++ leBytes 8 outLen ++ leBytes 8 crc

/-- A stream frees its engines and its descriptor. -/
def Dev.freeStream (d : Dev) (i : Nat) : Dev := { d with streams := smErase d.streams i }

/-- A stream completes: its result area, its counts, its engines freed (R311). -/
def Dev.streamComplete (d : Dev) (i : Nat) (s : Stream) : Dev :=
  let r := s.run true
  let area := resultHead (2 ^ 31) s.inp.length r.out.length r.crc ++ r.tag ++ leBytes 8 r.trailing ++
    List.replicate 8 0 ++ r.sha ++ List.replicate 64 0
  let d := (d.memWrite (dResult s.desc) area).2
  let d := (d.count 8 5 i 16).bump pgXCR 0x04C 1 0x054 0
  d.freeStream i

/-- A stream ends with an error: the first block of its result area (R312). -/
def Dev.streamFail (d : Dev) (i : Nat) (s : Stream) (err stage : Nat) : Dev :=
  let d := (d.memWrite (dResult s.desc) (resultHead (fput 16 8 err + fput 0 2 stage) s.inp.length s.out 0)).2
  ((d.count 8 5 i 2).bump pgXCR 0x050 1 0x054 1).freeStream i

/-- Bytes enter a stream (`final`: they are its last): the output for its destination, and the error it meets (R294, R309). Output
byte CAPACITY comes before what a stage finds wrong in the same bytes. -/
def Dev.streamFeed (d : Dev) (i : Nat) (s : Stream) (bs : List Byte) (final : Bool) :
    List Byte × Option (Nat × Nat) × Dev :=
  let before := s.run false
  let s := { s with inp := s.inp ++ bs }
  let r := s.run final
  let cap := dCapacity s.desc
  let over_ := s.stored && cap < r.out.length
  let lim := if s.stored then r.out.take cap else r.out
  let new := lim.drop s.out
  let err := if over_ then some (1, dNStages s.desc - 1) else r.err
  let s := { s with out := lim.length, ended := final }
  let d := { d with streams := smPut d.streams i s }.countStages i before.counts.reverse r.counts.reverse
  match err with
  | some e => (if s.stored then new else [], some e, d.streamFail i s e.1 e.2)
  | none => (if s.stored then new else [], none, d)

/-! ### Allocation (R296–R298) -/

/-- A domain is in ACTIVE or FREEWHEEL. -/
def Dev.awake (d : Dev) (k : Nat) : Bool := !(d.dom k).asleep

/-- The engine of a kind that an allocation takes. -/
def Dev.pickEngine (d : Dev) (k : Nat) : Option Nat :=
  let free := (List.range (engCount k)).filter fun e => d.engUsable k e && d.engFree k e
  match free.find? fun e => d.awake (engDom k e) with
  | some e => some e
  | none => free.head?

/-- The descriptor is in use by a stream. -/
def Dev.descBusy (d : Dev) (idx : Nat) : Bool := d.streams.any fun s => s.2.idx = idx

/-- Waiters in the order they are served: class 3 first, then arrival. -/
def waitBefore (a b : StreamWait) : Bool := b.cls < a.cls || (a.cls = b.cls && a.seq < b.seq)

def insertWait (w : StreamWait) : List StreamWait → List StreamWait
  | [] => [w]
  | x :: xs => if waitBefore w x then w :: x :: xs else x :: insertWait w xs

/-- The waiters that can be served now; `held` are the kinds kept for earlier ones (R297). -/
def grantable (d : Dev) (held : List Nat) : List StreamWait → List StreamWait
  | [] => []
  | w :: ws =>
    let idx := fld (d.ctx w.sub).ccw.xdt 0 10
    if d.descBusy idx then grantable d held ws
    else
      let needs := dNeeds (d.xdesc idx)
      let lack := needs.filter fun k => (d.pickEngine k).isNone
      if lack.isEmpty ∧ needs.all (fun k => !held.contains k) then w :: grantable d held ws
      else grantable d (lack ++ held) ws

/-- The stream of a CCW takes its descriptor and engines (R296, R298, R314). -/
def Dev.takeStream (d : Dev) (i : Nat) (stored : Bool) : Dev :=
  let c := (d.ctx i).ccw
  let idx := fld c.xdt 0 10
  let ds := d.xdesc idx
  let engs := (dNeeds ds).filterMap fun k => (d.pickEngine k).map fun e => 16 * k + e
  let aes := (List.range (dNStages ds)).find? fun j => stageEngine (dKind ds j) = some 0
  let sp := dParam ds (aes.getD 0)
  let key := if aes.isSome then d.peek (caddyBase + 64 * pKey sp) 64 else []
  let lbads := d.rf pgNVA (0x114 + 0x40 * fld (d.scb i).binding 0 5) 0 4
  let s : Stream := { idx := idx, desc := ds, area := d.peek (dResult ds) 256, engs := engs, key := key,
                      first := c.param.toNat * 2 ^ (lbads - pDuN sp), stored := stored, op := c.op }
  let d := engs.foldl (fun d e => d.demandWake (engDom (e / 16) (e % 16))) d
  let d := ((engs.map fun e => engPage (e / 16)).eraseDups).foldl (fun d p => d.bump p 0x044 1 0x048 0) d
  { d with streams := smPut d.streams i s, streamWait := d.streamWait.filter fun w => w.sub ≠ i }

/-- The engines of a stream can take data: their domains are awake. -/
def Dev.streamReady (d : Dev) (s : Stream) : Bool := s.engs.all fun e => d.awake (engDom (e / 16) (e % 16))

/-- The engine kind that a stage runs in: CRC in the engine of the stage before it, or after it at stage 0, or alone in a SHA
engine (R296). -/
def dHost (ds : List Byte) (j : Nat) : Option Nat :=
  match stageEngine (dKind ds j) with
  | some 3 => if dNStages ds = 1 then some 1 else stageEngine (dKind ds (if j = 0 then 1 else j - 1))
  | k => k

/-- The first stage of a stream that runs in one of the engines of a test, for ENGINE_LOST. -/
def Stream.stageOf (s : Stream) (f : Nat → Bool) : Nat :=
  ((List.range (dNStages s.desc)).find? fun j => s.engs.any fun e => dHost s.desc j = some (e / 16) && f e).getD 0

end Sys2Proof.Machine
end

