-- ==== Sys2Proof/Machine/AdapterCheck.lean ====
section
/-!
DEFINITION. What an adapter accepts: bindings (R172), the checks of validity rows 10 and 12 (R96, R186, R191, R202, R204,
R206, R207, R210–R212), and whether the instance is usable (R173).
-/

namespace Sys2Proof.Machine

/-- Adapter kind of a binding, and its fields (R172). -/
def bKind (b : Word) : Nat := fld b 28 4
def bQueue (b : Word) : Nat := fld b 0 5
def bWindow (b : Word) : Nat := fld b 0 4
def bLegacy (b : Word) : Bool := bitAt b 11
def bTarget (b : Word) : Nat := fld b 4 7
def bI3c (b : Word) : Nat := fld b 0 3
def bCs (b : Word) : Nat := fld b 2 2
def bPort (b : Word) : Nat := fld b 0 2
def bPins (b : Word) : Nat := fld b 5 6
def bLowPin (b : Word) : Nat := fld b 0 5
def bMbox (b : Word) : Nat := fld b 0 7
def bCore (b : Word) : Nat := fld b 8 3

/-- A BINDING value is no reserved encoding (R172). -/
def bindingOk (b : Word) : Bool :=
  let x := b.toNat % 2 ^ 28
  match bKind b with
  | 0 => x = 0
  | 1 => x < 32
  | 2 => x < 16
  | 3 => x &&& 0xFF7 = x && decide (bI3c b ≤ 4 ∧ 0x08 ≤ bTarget b ∧ bTarget b ≤ 0x77)
  | 4 => x < 16
  | 5 => x < 4
  | 6 => x < 2048 && decide (1 ≤ bPins b ∧ bLowPin b + bPins b ≤ 32)
  | 7 => x < 32
  | 8 => x &&& 0x77F = x
  | _ => false

abbrev opREAD : Byte := 0x40
abbrev opWRITE : Byte := 0x41
abbrev opCONTROL : Byte := 0x42
abbrev opSENSE : Byte := 0x43

/-- The adapter supports the command (R96). -/
def adapterOp (b : Word) (op : Byte) : Bool :=
  match bKind b with
  | 1 | 2 | 3 | 4 | 5 => true
  | 6 => op = opCONTROL || op = opSENSE
  | 7 => op ≠ opWRITE
  | 8 => op ≠ opCONTROL
  | _ => false

/-- Whether a CCW has XF, SKIP or IDAL. -/
def Ccw.xf (c : Ccw) : Bool := bitAt c.flagsB 4
def Ccw.ord (c : Ccw) : Bool := bitAt c.flagsB 5
def Ccw.eb (c : Ccw) : Bool := bitAt c.flagsB 6
def Ccw.dl (c : Ccw) : Bool := bitAt c.flagsB 7
def Ccw.skip (c : Ccw) : Bool := bitAt c.flagsA 2
def Ccw.idal (c : Ccw) : Bool := bitAt c.flagsA 3
def Ccw.sli (c : Ccw) : Bool := bitAt c.flagsA 4
def Ccw.cd (c : Ccw) : Bool := bitAt c.flagsA 5
def Ccw.cc (c : Ccw) : Bool := bitAt c.flagsA 6
def Ccw.susp (c : Ccw) : Bool := bitAt c.flagsA 7
def Ccw.pcn (c : Ccw) : Bool := bitAt c.flagsA 1
def Ccw.post (c : Ccw) : Bool := bitAt c.flagsA 0

/-- The adapter defines the MOD value (R96). -/
def adapterMod (b : Word) (c : Ccw) : Bool :=
  let m := c.mod_.toNat
  let op := c.op
  match bKind b with
  | 1 =>
    (if op = opREAD then m ≤ 1 && (!c.skip || c.xf) else if op = opSENSE then m = 0 else m ≤ 2)
  | 3 => m / 8 = 0 && (if op = opCONTROL then m % 4 ≤ 2 else m % 4 = 0) && (!bLegacy b || m / 4 % 2 = 0)
  | 4 => m ≤ 1
  | 5 => if op = opCONTROL then m ≤ 1 else m = 0
  | 6 => if op = opCONTROL then m ≤ 1 else m = 0
  | 7 => if op = opREAD then m ≤ 1 else m = 0
  | 8 => if op = opWRITE then m ≤ 1 else m = 0
  | _ => m = 0

/-- LBADS and MAX_PAGES of a lent queue. -/
def Dev.lbads (d : Dev) (q : Nat) : Nat := d.rf pgNVA (0x114 + 0x40 * q) 0 4
def Dev.maxPages (d : Dev) (q : Nat) : Nat := d.rf pgNVA (0x114 + 0x40 * q) 16 8

/-- Bytes of memory window `j`. -/
def Dev.mwSize (d : Dev) (j : Nat) : Nat := 2 ^ (d.rf pgWCH (0x308 + 16 * j) 16 5 + 12)

/-- An offset of `n` bytes lies in memory window `j`. -/
def Dev.mwFits (d : Dev) (j off n : Nat) : Bool := decide (off + n ≤ d.mwSize j)

/-- COUNT of every CCW of a chain, heads and successors alike, suits the adapter (R92, R186). -/
def Dev.adapterCount (d : Dev) (b : Word) (c : Ccw) : Bool :=
  let n := c.count.toNat
  let op := c.op
  match bKind b with
  | 1 =>
    if op = opREAD ∨ op = opWRITE then n % 2 ^ d.lbads (bQueue b) = 0
    else if op = opSENSE then n ≤ 16
    else if c.mod_ = 2 then 16 ≤ n && n % 16 = 0 else n = 0
  | 2 => if op = opCONTROL ∨ op = opSENSE then n % 4 = 0 else true
  | 5 => if op = opCONTROL then n = 0 else if op = opSENSE then n ≤ 4 else true
  | 6 => if op = opCONTROL then n = 0 else n ≤ 4
  | 7 => if op = opCONTROL then n = 0 else if op = opSENSE then n ≤ 8 else true
  | 8 => if op = opSENSE then n ≤ 8 else n ≤ 16
  | _ => true

/-- The PARAM of a head, with the placing of its own area, suits the adapter (R96, R191). -/
def Dev.adapterParam (d : Dev) (b : Word) (c : Ccw) : Bool :=
  let p := c.param.toNat
  let n := c.count.toNat
  let op := c.op
  let m := c.mod_.toNat
  match bKind b with
  | 1 =>
    (if op = opREAD ∨ op = opWRITE then true else if op = opCONTROL ∧ m = 1 then true else p = 0) &&
    (op = opSENSE || c.xf || c.idal || n = 0 || c.addr.toNat % 4 = 0)
  | 2 =>
    if op = opCONTROL ∧ n = 0 then p % 4 = 0 && d.mwFits (bWindow b) (p % 2 ^ 32) 4
    else p < 2 ^ 36 && (op = opREAD || op = opWRITE || p % 4 = 0) && d.mwFits (bWindow b) p n
  | 3 =>
    if op = opCONTROL then
      (if m % 4 = 0 then p = 0 else if m % 4 = 1 then p ≤ 0x7F else 0x80 ≤ p && p ≤ 0xFE)
    else if op = opSENSE then p = 0
    else
      let l := p / 2 ^ 60
      l ≤ 4 && p % 2 ^ 60 < 2 ^ (8 * l)
  | 4 =>
    p / 2 ^ 21 % 8 ≤ 4 && p / 2 ^ 13 % 4 ≠ 3 && p / 2 ^ 11 % 4 ≠ 3 && p / 2 ^ 9 % 4 ≠ 3 && p % 2 ^ 9 = 0
  | 5 => if op = opREAD ∨ (op = opCONTROL ∧ m = 0) then p < 2 ^ 32 else p = 0
  | 6 => if op = opCONTROL then p / 2 ^ 32 < 2 ^ bPins b && p % 2 ^ 32 < 2 ^ bPins b else p = 0
  | _ => p = 0

/-! ### Whether the instance is usable (R173) -/

abbrev codeTIMEOUT : Nat := 2
abbrev codeLINKDOWN : Nat := 3
abbrev codeNOTREADY : Nat := 4
abbrev codeREVOKED : Nat := 5

/-- DEVSTAT of a condition (R176). -/
def devstat (kind code detail : Nat) : Word := w32 (fput 28 4 kind + fput 16 12 code + fput 0 16 detail)

/-- Data Link Layer Link Active of downstream port `p` (R523). -/
def Dev.portUp (d : Dev) (p : Nat) : Bool := smGet d.linkLevel (262 + p) false

/-- A downstream port can carry an adapter's traffic: it has a link, and neither it nor the switch is fenced. -/
def Dev.portUsable (d : Dev) (p : Nat) : Bool := d.portUp p && !d.isFenced (8 + p) && !d.isFenced 3

/-- The port is the producer of an enabled FIFO (R281): SRC and INST as R280 gives them. -/
def Dev.producerFifo (d : Dev) (src inst : Nat) : Option Nat :=
  (List.range 32).find? fun f =>
    let c := d.reg pgFIF (0x100 + 0x40 * f)
    bitAt c 31 && fld c 24 4 = src && fld c 16 3 = inst

/-- The DAT entry that holds a binding's target (R217). -/
def Dev.datFor (d : Dev) (b : Word) : Option Nat :=
  (List.range 11).find? fun t =>
    let e := d.reg pgI3C (0x140 + 0x80 * bI3c b + 4 * t)
    bitAt e 31 && (if bLegacy b then bitAt e 7 && fld e 0 7 = bTarget b else fld e 16 8 = bTarget b)

def Dev.lq (d : Dev) (q : Nat) : LentQ := smGet d.lqs q {}
def Dev.setLq (d : Dev) (q : Nat) (v : LentQ) : Dev := { d with lqs := smSet d.lqs q v {} }
def Dev.uart (d : Dev) (u : Nat) : Uart := smGet d.uarts u {}
def Dev.setUart (d : Dev) (u : Nat) (v : Uart) : Dev := { d with uarts := smSet d.uarts u v {} }
def Dev.spi (d : Dev) (s : Nat) : Spi := smGet d.spis s {}
def Dev.setSpi (d : Dev) (s : Nat) (v : Spi) : Dev := { d with spis := smSet d.spis s v {} }
def Dev.i3c (d : Dev) (c : Nat) : I3c := smGet d.i3cs c {}
def Dev.setI3c (d : Dev) (c : Nat) (v : I3c) : Dev := { d with i3cs := smSet d.i3cs c v {} }

/-- Domain of the unit that serves a binding's instance. -/
def Dev.bindDom (d : Dev) (b : Word) : Nat :=
  match bKind b with
  | 1 => 8 + b2n (d.rb pgNVA (0x104 + 0x40 * bQueue b) 24)
  | 2 => 8 + d.rf pgWCH (0x308 + 16 * bWindow b) 24 3
  | 3 => 14 + bI3c b / 2
  | 4 => 17 + bPort b / 2
  | 5 => 19
  | 6 => 20
  | 7 => 21 + bQueue b / 16
  | 8 => commonDom (bMbox b / 16)
  | _ => 0

/-- The condition that makes an instance unusable for a command, as a CODE (R173). -/
def Dev.notReady (d : Dev) (b : Word) (c : Ccw) : Option Nat :=
  let no := fun (x : Bool) => if x then none else some codeNOTREADY
  if d.isFenced (d.bindDom b) then some codeNOTREADY
  else match bKind b with
  | 1 =>
    match (d.lq (bQueue b)).state with
    | .free => some codeNOTREADY
    | .revoking => some codeREVOKED
    | .lent => no (d.portUsable (b2n (d.rb pgNVA (0x104 + 0x40 * bQueue b) 24)))
  | 2 =>
    let w := d.reg pgWCH (0x308 + 16 * bWindow b)
    no (bitAt w 31 && decide (fld w 24 3 < 6) && d.portUsable (fld w 24 3))
  | 3 =>
    let r := d.reg pgI3C (0x100 + 0x80 * bI3c b)
    no (bitAt r 31 && (d.datFor b).isSome && (!bitAt c.mod_ 2 || bitAt r 30) && (d.producerFifo 3 (bI3c b)).isNone)
  | 4 =>
    let r := d.reg pgSPI (0x100 + 0x40 * bPort b)
    no (bitAt r 31 && !bitAt r 30 && (d.producerFifo 2 (bPort b)).isNone)
  | 5 => no (d.rb pgUAR (0x100 + 0x40 * bPort b) 31 && (d.producerFifo 1 (bPort b)).isNone)
  | 7 =>
    let r := d.reg pgFIF (0x100 + 0x40 * bQueue b)
    no (bitAt r 31 && !bitAt r 30)
  | _ => none

/-- A write or read through a memory window that forbids it (R203). -/
def Dev.mwForbids (d : Dev) (b : Word) (op : Byte) : Bool :=
  let w := d.reg pgWCH (0x308 + 16 * bWindow b)
  bKind b = 2 && (if op = opREAD ∨ op = opSENSE then !bitAt w 30 else !bitAt w 29)

end Sys2Proof.Machine
end

