-- ==== Sys2Proof/Machine/Mailbox.lean ====
section
/-!
DEFINITION. Mailboxes and locks: posts, release and reply, acquisition, release and breaking of locks (R375–R386).
-/

namespace Sys2Proof.Machine

/-- The outcome of a post (WMBX.POST_RESULT). -/
inductive PostRes where
  | accepted | full | fenced
  deriving DecidableEq, Repr

/-- A WICU, mailbox or lock operation of wheel `w` is counted for a tag (R57). -/
def Dev.countWheelOp (d : Dev) (w tag : Nat) : Dev := d.count (if w < 4 then 5 else 6) 7 tag 1

/-- A post to mailbox `m` of all 128 for core `c`, by a sender whose work carries a tag (R376, R378). -/
def Dev.mboxPost (d : Dev) (tag sender m c : Nat) (msg : List Byte) (call : Bool) : PostRes × Dev :=
  let w := m / 16
  if d.isFenced (commonDom w) then (.fenced, d.bump (pgWMBX + w) 0x04C 1 0x058 1)
  else
    let d := (d.countWheelOp w tag).touch (commonDom w)
    let b := d.mbox m
    if b.full then (.full, d.bump (pgWMBX + w) 0x04C 1 0x058 1)
    else
      let d := d.bump (pgWMBX + w) 0x048 1 0x058 0
      let t := d.sample tag
      let d := t.2.setMbox m { b with full := true, call := call, target := c, sender := sender, postTime := toDs32 t.1, msg := msg }
      (.accepted, d.doorbell m)

/-- A mailbox is freed (R379). -/
def Dev.mboxFree (d : Dev) (m : Nat) : Dev := (d.setMbox m { d.mbox m with full := false, call := false }).srcFalls

/-! ### Locks (R382–R386); locks 0 to 127 are the wheels', 128 to 143 the global ones -/

/-- Page and offsets of LOCK_MISUSE, LOCK_BREAKS and their sticky bits, by lock; the wheel. -/
def lockWheel (l : Nat) : Option Nat := if l < 128 then some (l / 16) else none

/-- A lock becomes free: waiters see the occurrence of its wheel (R359). -/
def Dev.lockFreed (d : Dev) (l : Nat) : Dev :=
  match lockWheel l with
  | some w => d.lockFreeOccur w
  | none => d

/-- A lock frees itself, broken (R384). -/
def Dev.lockBreak (d : Dev) (l : Nat) : Dev :=
  let k := d.lock l
  match k.owner with
  | none => d
  | some o =>
    let d := d.setLock l { k with owner := none, broken := true, lastOwner := o }
    let d := match lockWheel l with
      | some w => d.bump (pgWMBX + w) 0x054 1 0x058 3
      | none => d
    d.lockFreed l

/-- What a read of a lock returns (R382). -/
def Dev.lockShown (d : Dev) (l : Nat) : Word :=
  match (d.lock l).owner with
  | some o => w32 o
  | none => w32 (fput 8 1 (b2n (d.lock l).broken))

/-- A read of a lock by an agent (R382): the word returned; a free lock is acquired. -/
def Dev.lockRead (d : Dev) (tag agent l : Nat) : Word × Dev :=
  let k := d.lock l
  (d.lockShown l, if k.owner.isSome then d else
    let t := d.sample tag
    t.2.setLock l { k with owner := some agent, time := toDs32 t.1 })

/-- A write of 0 to a lock by an agent (R383). -/
def Dev.lockWrite (d : Dev) (agent l : Nat) : Dev :=
  let k := d.lock l
  if k.owner = some agent then (d.setLock l { k with owner := none, broken := false, lastOwner := agent }).lockFreed l
  else
    let d := match lockWheel l with
      | none => d.bump pgKTL 0x3C0 1 0x3C4 0
      | some w => (d.bump (pgWMBX + w) 0x050 1 0x058 2).pageEvt (pgWMBX + w) 0x10000
    if 1 ≤ agent ∧ agent ≤ 64 then d.srcOccur (privSrc ((agent - 1) / 8) ((agent - 1) % 8) 18) else d

/-- Every lock that an agent of a set owns frees itself (R384). -/
def Dev.breakLocks (d : Dev) (f : Nat → Bool) : Dev :=
  (d.locks.filter fun e => match e.2.owner with
    | some o => f o
    | none => false).foldl (fun d e => d.lockBreak e.1) d

end Sys2Proof.Machine
end

