-- ==== Sys2Proof/Machine/Posting.lean ====
section
/-!
DEFINITION. Status posting and the poll contract: records and rings, waiting records, mirrors and flushes, the poll page and
the urgent byte (R224–R252, R566, R567).
-/

namespace Sys2Proof.Machine

/-! ### Rings -/

/-- RCFG of ring `r`. -/
def Dev.rcfg (d : Dev) (r : Nat) : Word := d.reg pgHIF (0x600 + 4 * r)

def Dev.ringEn (d : Dev) (r : Nat) : Bool := bitAt (d.rcfg r) 31
def Dev.ringMirror (d : Dev) (r : Nat) : Bool := bitAt (d.rcfg r) 30
def Dev.ringUrg (d : Dev) (r : Nat) : Bool := bitAt (d.rcfg r) 29

/-- Records the ring holds. -/
def Dev.ringSize (d : Dev) (r : Nat) : Nat := 2 ^ fld (d.rcfg r) 16 5

def Dev.merr (d : Dev) (r : Nat) : Bool := d.rb pgHIF (0x070 + 4 * (r / 32)) (r % 32)

def Dev.prod (d : Dev) (r : Nat) : Word := smGet d.hif.prod r 0
def Dev.mirrored (d : Dev) (r : Nat) : Word := smGet d.hif.mirrored r 0
def Dev.cons (d : Dev) (r : Nat) : Word := d.reg pgHIF (0xE00 + 4 * r)

/-- Device address of the record with an index (R229). -/
def Dev.ringSlot (d : Dev) (r n : Nat) : Nat := d.rf pgHIF (0x400 + 4 * r) 5 21 * 32 + 32 * (n % d.ringSize r)

/-- The ring is full by its indices (R228, R229). -/
def Dev.ringFull (d : Dev) (r : Nat) : Bool :=
  !d.ringEn r || decide (d.ringSize r ≤ (d.prod r - d.cons r).toNat) ||
    (d.ringMirror r && !d.merr r && decide (d.ringSize r ≤ (d.prod r - d.mirrored r).toNat))

/-- The domains between the posting logic, in the memory segment, and the slot of a ring's next record (R232). -/
def Dev.slotPath (d : Dev) (r : Nat) : List Nat := pathTo 150 (d.ringSlot r (d.prod r).toNat)

/-- What the next record of a ring finds on its way to the bank group of its slot (R567). -/
def Dev.ringGate (d : Dev) (r : Nat) : Gate := d.gateAll (d.slotPath r)

/-- A new record of the ring would wait (R231, R567). -/
def Dev.ringBlocked (d : Dev) (r : Nat) : Bool := d.ringFull r || d.ringGate r ≠ .ok

/-- The 32 bytes of a record (R224, R225). -/
def Rec.bytes (x : Rec) (seq : Nat) : List Byte :=
  leBytes 2 x.sub ++ [x.kind, x.code] ++ leBytes 4 x.residual.toNat ++ leBytes 6 x.ccwAddr.toNat ++ leBytes 2 seq ++
    leBytes 8 x.time.toNat ++ leBytes 4 x.energy.toNat ++ leBytes 4 x.devstat.toNat

/-- A record enters its ring (R225, R229, R245, R566). -/
def Dev.ringEnter (d : Dev) (r : Nat) (x : Rec) : Dev :=
  let p := d.prod r
  let a := d.ringSlot r p.toNat
  let d := (d.memWrite a (x.bytes p.toNat)).2
  let d := (d.countAccess x.sub 150 true a 32).touch (addrDom a)
  { d with hif := { d.hif with prod := smSet d.hif.prod r (p + 1) 0
                               unread := smSet d.hif.unread r (smGet d.hif.unread r [] ++ [x.sub / 256]) [] } }

/-- A record is formed for a subchannel (R162): its time is sampled and its charge taken from a mark. -/
def Dev.formRec (d : Dev) (i : Nat) (mark : BitVec 64) (x : Rec) : Rec × Dev :=
  let t := d.sample i
  ({ x with sub := i, time := t.1, energy := reportUJ (t.2.acc i - mark) }, t.2)

/-- A ring that has room, but sleeps, is woken for the record that waits (R25, R567). -/
def Dev.wakeRing (d : Dev) (r : Nat) : Dev := if d.ringFull r then d else (d.knockAll (d.slotPath r)).2

/-- The subchannel's place in the store is taken, by a record that waits or by the ENGINE_CHECK that is owed (R232). -/
def Dev.slotTaken (d : Dev) (i : Nat) : Bool :=
  d.hif.store.any (fun w => w.record.sub = i) || d.hif.checks.any fun c => c.sub = i

/-- A formed record goes to its ring, or waits behind those that already wait for it (R231); whether it entered. -/
def Dev.postRec (d : Dev) (r : Nat) (x : Rec) (live : Bool) : Bool × Dev :=
  if d.ringBlocked r || d.hif.store.any (fun w => w.ring = r) then
    let d := d.wakeRing r
    (false, { d with hif := { d.hif with store := d.hif.store ++ [{ ring := r, record := x, live := live }] } })
  else (true, d.ringEnter r x)

/-- A fenced engine's subchannel is owed an ENGINE_CHECK record (R169, R232). -/
def Dev.formCheck (d : Dev) (c : PendingCheck) : Dev :=
  let f := d.formRec c.sub c.startMark
    { sub := c.sub, kind := 5, code := 7, residual := c.image.residual, ccwAddr := c.image.ccwAddr, time := 0, energy := 0,
      devstat := c.cause }
  (f.2.postRec c.ring f.1 false).2

/-- The ENGINE_CHECK records whose subchannel has no other record waiting are formed, in subchannel order (R232). -/
def Dev.formChecks (d : Dev) : Dev :=
  let free := fun (c : PendingCheck) => !(d.hif.store.any fun w => w.record.sub = c.sub)
  let now := d.hif.checks.filter free
  let d := { d with hif := { d.hif with checks := d.hif.checks.filter fun c => !free c } }
  now.foldl Dev.formCheck d

/-! ### Deferral and the poll page -/

def Dev.awakeHost (d : Dev) : Bool := d.rb pgHIF 0x040 0

/-- Deferred records of a ring (R242). -/
def Dev.deferred (d : Dev) (r : Nat) : Nat :=
  if d.ringMirror r && (!d.awakeHost || d.hif.flushing) then (d.prod r - d.mirrored r).toNat else 0

/-- Enabled rings. -/
def Dev.enabledRings (d : Dev) : List Nat := (List.range 128).filter d.ringEn

/-- DEFER_TOTAL: the sum over all rings, in its 24 bits (log 50). -/
def Dev.deferTotal (d : Dev) : Nat := (List.range 128).foldl (fun n r => n + d.deferred r) 0 % 2 ^ 24

/-- Records wait for ring space (SUMMARY.RING_WAIT). -/
def Dev.ringWait (d : Dev) : Bool := !d.hif.store.isEmpty || !d.hif.checks.isEmpty

/-- The pacer is UNTRUSTED. -/
def Dev.untrusted (d : Dev) : Bool := d.pacer.trust = .untrusted

/-- A ring with URG set holds an unread record. -/
def Dev.urgentRing (d : Dev) : Bool := d.enabledRings.any fun r => d.ringUrg r && d.prod r != d.cons r

/-- The fault log holds entries not consumed (R466). -/
def Dev.faultBit (d : Dev) : Bool := d.faults.logProd != d.reg pgFLT 0x04C

/-- Engine `n` has a record that is unread in some ring (R245). -/
def Dev.engUnread (d : Dev) (n : Nat) : Bool := d.hif.unread.any fun e => e.2.contains n

/-- SUMMARY (R244). -/
def Dev.summary (d : Dev) : Nat :=
  fput 23 1 (b2n d.ringWait) + fput 22 1 (b2n (d.deferTotal ≠ 0)) + fput 21 1 (b2n d.gov.ceilBit) +
    fput 20 1 (b2n d.untrusted) + fput 19 1 (b2n d.urgentRing) + fput 18 1 (b2n d.faultBit) +
    (List.range 16).foldl (fun s n => s + b2n (d.engUnread n) * 2 ^ n) 0

/-- The urgent byte (R250). -/
def Dev.urgentByte (d : Dev) : Byte :=
  BitVec.ofNat 8 (fput 7 1 (b2n d.awakeHost) + fput 6 1 (b2n (d.rb pgHIF 0x058 0)) + fput 5 1 (b2n d.ringWait) +
    fput 4 1 (b2n (d.deferTotal ≠ 0)) + fput 3 1 (b2n d.gov.ceilBit) + fput 2 1 (b2n d.untrusted) +
    fput 1 1 (b2n d.faultBit) + b2n d.urgentRing)

/-- The 32-bit word at an offset of the poll page, given NOW (R244). -/
def Dev.pollWord (d : Dev) (now : DT) (o : Nat) : Word :=
  if o = 0x000 then w32 d.summary
  else if o = 0x008 then lo32 now else if o = 0x00C then hi32 now
  else if o = 0x010 then w32 (fput 2 1 (b2n d.hif.flushing) + fput 1 1 (b2n d.hif.postSync) + b2n d.awakeHost)
  else if o = 0x014 then d.urgentByte.zeroExtend 32
  else if o = 0x018 then lo32 d.hif.nextPoll else if o = 0x01C then hi32 d.hif.nextPoll
  else if o = 0x020 then w32 d.deferTotal
  else if 0x200 ≤ o ∧ o < 0x400 then d.prod ((o - 0x200) / 4)
  else if 0x400 ≤ o ∧ o < 0x600 then w32 (d.deferred ((o - 0x400) / 4))
  else 0

/-- A read of `n` words of the poll page by a tag (R244, R246, R561): one sample where NOW is among them. -/
def Dev.pollRead (d : Dev) (tag o n : Nat) : List Word × Dev :=
  let offs := (List.range n).map fun k => o / 4 * 4 + 4 * k
  let s := if offs.contains 0x008 || offs.contains 0x00C then d.sample tag else (0, d)
  ((offs.map (s.2.pollWord s.1)), s.2.count 0 2 tag n)

/-! ### Mirrors (R234–R241) -/

/-- Host window offset of the index block (HIF.MIDX). -/
def Dev.midx (d : Dev) : Nat := d.rf pgHIF 0x050 12 20 * 2 ^ 12 + d.rf pgHIF 0x054 0 5 * 2 ^ 32

/-- How the writes of a mirror go: all made; refused by the window entry (R237); or not, for a fence on the way to a record (R26). -/
inductive MirRes where
  | ok (d : Dev)
  | refused (d : Dev)
  | fenced (d : Dev)

/-- One mirror write, charged to a tag. -/
def Dev.mirrorWrite (d : Dev) (tag a : Nat) (bs : List Byte) : MirRes :=
  match d.hostXlate true a with
  | .ok hpa => .ok ((d.countAccess tag 4 true a bs.length).hostPoke hpa bs)
  | .error _ => .refused (d.countRefused tag)

/-- The domains on the way to a record of a ring, from the mirror logic in the endpoint. -/
def Dev.recPath (d : Dev) (r : Nat) (m : Word) : List Nat := pathTo 4 (d.ringSlot r m.toNat)

/-- Records of a ring from one index, one after another, until one cannot be mirrored. -/
def Dev.mirrorRecs (d : Dev) (r : Nat) (m : Word) : Nat → MirRes
  | 0 => .ok d
  | n + 1 =>
    if d.fencedOn (d.recPath r m) then .fenced d
    else
      let bs := d.peek (d.ringSlot r m.toNat) 32
      let tag := leNat (bs.take 2) % 4096
      let d := d.countAccess tag 4 false (d.ringSlot r m.toNat) 32
      match d.mirrorWrite tag (hostBase + (d.reg pgHIF (0xA00 + 4 * r)).toNat * 32 + 32 * (m.toNat % d.ringSize r)) bs with
      | .ok d => d.mirrorRecs r (m + 1) n
      | e => e

/-- MERR of a ring is set, with its class C fault (R237). -/
def Dev.mirrorError (d : Dev) (r : Nat) : Dev :=
  let o := 0x070 + 4 * (r / 32)
  let d := (d.setReg pgHIF o (withBit (d.reg pgHIF o) (r % 32) true)).pageEvt pgHIF 0x10000
  d.raiseFault { kind := 16, page := pgHIF, source := r, info := d.mirrored r, unit := some 4 }

/-- The records of a ring up to an index are mirrored, then the index word, whose events serve no subchannel (R236, R240, R566).
What a fence stops stays to be mirrored, and the index word is not written (log 36). -/
def Dev.mirrorTo (d : Dev) (r : Nat) (target : Word) : Dev :=
  match d.mirrorRecs r (d.mirrored r) (target - d.mirrored r).toNat with
  | .fenced d => d
  | .refused d => d.mirrorError r
  | .ok d =>
    match d.mirrorWrite tagOwn (hostBase + d.midx + 4 * r) (leBytes 4 target.toNat) with
    | .ok d => { d with hif := { d.hif with mirrored := smSet d.hif.mirrored r target 0 } }
    | .refused d => d.mirrorError r
    | .fenced d => d

/-- The running flush has records of ring `r` to write: M_i < F_i, and MERR is clear (R240). -/
def Dev.flushTodo (d : Dev) (r : Nat) : Bool :=
  let n := ((smFind d.hif.flushTo r).getD (d.mirrored r) - d.mirrored r).toNat
  !d.merr r && decide (0 < n ∧ n < 2 ^ 31)

/-- The first ring at or above a number that the flush has still to write. -/
def Dev.flushNext (d : Dev) : Option Nat := (rangeFrom d.hif.flushPos (128 - d.hif.flushPos)).find? d.flushTodo

/-- The flush goes past the rings that it finds with nothing to write (R241). -/
def Dev.flushSkip (d : Dev) : Dev := { d with hif := { d.hif with flushPos := d.flushNext.getD 128 } }

/-- A flush has passed ring `r`, or none runs (R241). -/
def Dev.flushPassed (d : Dev) (r : Nat) : Bool := !d.hif.flushing || decide (r < d.hif.flushPos)

/-- The domains on the way to the records of a ring up to an index. -/
def Dev.mirrorDoms (d : Dev) (r : Nat) (target : Word) : List Nat :=
  ((List.range (target - d.mirrored r).toNat).flatMap fun k => d.recPath r (d.mirrored r + w32 k)).eraseDups

/-- A ring may start a batch at all (R235). -/
def Dev.mirrorReady (d : Dev) (r : Nat) : Bool :=
  d.hostOpen && d.ringMirror r && !d.merr r && d.flushPassed r && d.prod r != d.mirrored r

/-- TIME of the oldest record not yet mirrored. -/
def Dev.oldestTime (d : Dev) (r : Nat) : DT := BitVec.ofNat 64 (leNat (d.peek (d.ringSlot r (d.mirrored r).toNat + 16) 8))

/-- The moderation time of a ring has passed (R235). -/
def Dev.modTimeDue (d : Dev) (r : Nat) : Bool := reached d.now (dsTarget (d.oldestTime r) (d.reg pgHIF (0x800 + 4 * r)))

/-- Some condition of R235 calls for a batch. -/
def Dev.mirrorDue (d : Dev) (r : Nat) : Bool :=
  d.mirrorReady r && (decide (fld (d.rcfg r) 0 8 ≤ (d.prod r - d.mirrored r).toNat) || d.ringUrg r || d.modTimeDue r)

/-- A mirror of a ring up to an index is made where every domain on its way is awake; sleeping ones are woken (R25). Whether it was. -/
def Dev.mirrorMake (d : Dev) (r : Nat) (target : Word) : Bool × Dev :=
  let ks := d.mirrorDoms r target
  if ks.any fun k => d.gate k = .asleep then (false, ks.foldl (fun d k => (d.knock k).2) d) else (true, d.mirrorTo r target)

/-- A batch of the ring waits for a domain. -/
def Dev.batching (d : Dev) (r : Nat) : Bool := d.held.any fun q => match q with
  | .mirror j _ => j = r
  | _ => false

/-- A mirror batch goes on to the index that it was started with: at once, or when the domains on its way have woken. -/
def Dev.mirrorRun (d : Dev) (r : Nat) (target : Word) : Dev :=
  match d.mirrorMake r target with
  | (true, d) => d
  | (false, d) => { d with held := d.held ++ [.mirror r target] }

/-- A mirror batch starts, and samples the producer index (R236). -/
def Dev.mirrorBatch (d : Dev) (r : Nat) : Dev := if d.batching r then d else d.mirrorRun r (d.prod r)

/-- A batch that waited goes on, unless ASLEEP or an error has stopped it (R237, R238). -/
def Dev.mirrorAgain (d : Dev) (r : Nat) (target : Word) : Dev :=
  if d.hostOpen && d.ringMirror r && !d.merr r && d.flushPassed r then d.mirrorRun r target else d

/-- MERR is written 1: mirroring resumes from M_i, or 2^K below the producer index (R237). -/
def Dev.merrResume (d : Dev) (r : Nat) : Dev :=
  let o := 0x070 + 4 * (r / 32)
  let d := d.setReg pgHIF o (withBit (d.reg pgHIF o) (r % 32) false)
  if d.ringSize r < (d.prod r - d.mirrored r).toNat then
    { d with hif := { d.hif with mirrored := smSet d.hif.mirrored r (d.prod r - w32 (d.ringSize r)) 0 } }
  else d

/-- Step 2 of R240: the flush begins. -/
def Dev.flushStart (d : Dev) : Dev :=
  let fs := ((List.range 128).filter fun r => d.ringMirror r && !d.merr r).foldl (fun m r => smPut m r (d.prod r))
    ([] : SMap Word)
  { d with hif := { d.hif with flushing := true, flushPos := 0, flushTo := fs } }.flushSkip

/-- Step 5 of R240. -/
def Dev.flushEnd (d : Dev) : Dev :=
  ({ d with hif := { d.hif with flushing := false, postSync := true, flushPos := 0, flushTo := [] } }).bump pgHIF 0x064 1 0x06C 0

/-- The flush goes on with its next ring, or ends (R240, R241). -/
def Dev.flushStep (d : Dev) : Dev :=
  if !d.hif.flushing ∨ !d.hostOpen then d
  else match d.flushNext with
    | none => d.flushEnd
    | some r => (d.mirrorMake r ((smFind d.hif.flushTo r).getD (d.mirrored r))).2.flushSkip

/-- ASLEEP is written (R238). -/
def Dev.hostAsleep (d : Dev) : Dev :=
  let d := d.setRf pgHIF 0x040 0 1 0
  { d with hif := { d.hif with flushing := false, postSync := false, flushPos := 0, flushTo := [] } }

/-- AWAKE is written (R240). -/
def Dev.hostAwake (d : Dev) : Dev := if d.awakeHost then d else (d.setRf pgHIF 0x040 0 1 1).flushStart

end Sys2Proof.Machine
end

