-- ==== Sys2Proof/Machine/EngPath.lean ====
section
/-!
DEFINITION. The memory side of a channel engine: the address-use table, single accesses of at most 32 bytes, areas and
indirect data address lists (R83–R90, R124–R126, R472).
-/

namespace Sys2Proof.Machine

/-- What a CCW uses an address for (R86). -/
inductive Use where
  | fetch | idal | data | cond
  deriving DecidableEq, Repr

/-- Exception codes (R170). -/
abbrev xPROGRAM : Byte := 1
abbrev xINVALID : Byte := 2
abbrev xADDRESS : Byte := 3
abbrev xPROTECTION : Byte := 4
abbrev xDATA : Byte := 5
abbrev xDEVICE : Byte := 6
abbrev xENGINE : Byte := 7
abbrev xLENGTH : Byte := 8
abbrev xDEADLINE : Byte := 9
abbrev xENERGY : Byte := 0xA
abbrev xTIMEOUT : Byte := 0xB

/-- CDY.ACCESS grants an agent (R407, R408). -/
def Dev.caddyGrants (d : Dev) (a : Nat) : Bool := a = agKettle || d.rb pgCDY (0x040 + 4 * (a / 32)) (a % 32)

/-- The exception that the address-use table gives for an address, if any (R86–R88, R90). -/
def Dev.useErr (d : Dev) (n : Nat) (u : Use) (write : Bool) (a : Nat) : Option (Byte × Word) :=
  match rangeOf a with
  | .sram _ => none
  | .xram _ _ => none
  | .caddy =>
    if u = .fetch ∨ u = .idal then some (xPROTECTION, 0x8005)
    else if d.caddyGrants (ceAgent n) then none else some (xPROTECTION, 0x8006)
  | .lram g => if g = agKettle ∨ u = .fetch then some (xPROTECTION, 0x8005) else none
  | .dram => if d.dramHas a then none else some (xADDRESS, 0x8007)
  | .hostwin =>
    match d.hostXlate write a with
    | .ok _ => none
    | .error .invalid => some (xADDRESS, 0x8001)
    | .error .noRead => some (xPROTECTION, 0x8002)
    | .error .noWrite => some (xPROTECTION, 0x8003)
    | .error .asleep => some (xADDRESS, 0x8004)
  | .unmapped => some (xADDRESS, 0x8000)
  | _ => some (xPROTECTION, 0x8005)

/-- The row of the address-use table that holds an address (R89). -/
def Dev.useRow (d : Dev) (a : Nat) : Nat := if rangeOf a = .dram ∧ !d.dramHas a then 17 else rangeRow a

/-- The counters that a refused access moves: CDY.DENIED and HWT.REFUSED. -/
def Dev.noteRefusal (d : Dev) (i : Nat) (det : Word) : Dev :=
  if det = 0x8006 then d.bump pgCDY 0x05C 1 0x060 1
  else if det = 0x8001 ∨ det = 0x8002 ∨ det = 0x8003 then d.countRefused i
  else d

/-- The outcome of an access: done with its data, held until something else happens, or failed. -/
inductive Acc where
  | ok (data : List Byte) (d : Dev)
  | stall (d : Dev)
  | fail (code : Byte) (detail : Word) (d : Dev)

/-- The events of one access on behalf of a subchannel (R57): an engine beat and the transfers of its route. -/
def Dev.countBeat (d : Dev) (i : Nat) (write : Bool) (a n : Nat) : Dev :=
  (d.count (if i / 256 < 8 then 5 else 6) 4 i 1).countAccess i (ceDom (i / 256)) write a n

/-- An access that a wipe of the caddy holds (R409). -/
def Dev.wipeHolds (d : Dev) (u : Use) (a : Nat) : Bool := d.caddy.wiping && rangeOf a = .caddy && (u = .data || u = .cond)

/-- A read of at most 32 bytes that is still to be made for a subchannel. -/
def Dev.engAsk (d : Dev) (i : Nat) (u : Use) (a n : Nat) : Acc :=
  if d.wipeHolds u a then .stall d
  else match d.useErr (i / 256) u false a with
  | some (c, det) => .fail c det (d.noteRefusal i det)
  | none =>
    match d.reach (ceDom (i / 256)) a with
    | (.fenced, d) => .fail xENGINE 3 d
    | (.asleep, d) => .stall d
    | (.ok, d) =>
      match rangeOf a with
      | .hostwin => .stall ((d.setCtx i { d.ctx i with hostReq := some (a, n) }).countBeat i false a n)
      | .caddy =>
        if plainAddr a < caddyBase + 4096 then .ok (List.replicate n 0) (d.countBeat i false a n)
        else
          let r := d.memRead a n
          if r.2.1 then .fail xDATA 0 r.2.2 else .ok r.1 (r.2.2.countBeat i false a n)
      | _ =>
        let r := d.memRead a n
        if r.2.1 then .fail xDATA 0 (r.2.2.countBeat i false a n) else .ok r.1 (r.2.2.countBeat i false a n)

/-- A read of at most 32 bytes for a subchannel. What the host has answered to it is used as it is: its request was checked and
translated when it was sent (R87, R88, R412). -/
def Dev.engRead (d : Dev) (i : Nat) (u : Use) (a n : Nat) : Acc :=
  match (d.ctx i).hostGot with
  | some (a', bs) => if a' = a then .ok (bs.take n) (d.setCtx i { d.ctx i with hostGot := none }) else .stall d
  | none => if (d.ctx i).hostReq.isSome then .stall d else d.engAsk i u a n

/-- A write of at most 32 bytes for a subchannel. -/
def Dev.engWrite (d : Dev) (i : Nat) (u : Use) (a : Nat) (bs : List Byte) : Acc :=
  if d.wipeHolds u a then .stall d
  else match d.useErr (i / 256) u true a with
  | some (c, det) => .fail c det (d.noteRefusal i det)
  | none =>
    match d.reach (ceDom (i / 256)) a with
    | (.fenced, d) => .fail xENGINE 3 d
    | (.asleep, d) => .stall d
    | (.ok, d) =>
      match rangeOf a with
      | .hostwin =>
        match d.hostXlate true a with
        | .ok hpa =>
          let d := (d.hostPoke hpa bs).countBeat i true a bs.length
          .ok [] (d.setCtx i { d.ctx i with hostWrote := some ((a + bs.length - 1) / 4 * 4) })
        | .error _ => .stall d
      | _ =>
        let r := d.memWrite a bs
        if r.1 then .fail xDATA 0 (r.2.countBeat i true a bs.length) else .ok [] (r.2.countBeat i true a bs.length)

/-- Bytes cut at 32-byte boundaries, each part with its address. -/
def beatParts (a : Nat) (bs : List Byte) : Nat → List (Nat × List Byte)
  | 0 => []
  | n + 1 =>
    let k := 32 - a % 32
    if bs.isEmpty then [] else (a, bs.take k) :: beatParts (a + k) (bs.drop k) n

/-- Parts written one after another, within a row; a part beyond the row fails with RANGE_CROSSED (R89). -/
def Dev.writeParts (d : Dev) (i row : Nat) : List (Nat × List Byte) → Acc
  | [] => .ok [] d
  | (a, bs) :: ps =>
    if d.useRow a ≠ row then .fail xADDRESS 0x8008 d
    else match d.engWrite i .data a bs with
      | .ok _ d => d.writeParts i row ps
      | r => r

/-- Bytes written from an address on. Where a part must wait, none is written. -/
def Dev.engWriteAll (d : Dev) (i row a : Nat) (bs : List Byte) : Acc :=
  let ps := beatParts a bs (bs.length + 1)
  let made := ps.takeWhile fun p => (d.useErr (i / 256) .data true p.1).isNone && d.useRow p.1 = row
  let asleep := (made.flatMap fun p => d.sleeping (ceDom (i / 256)) p.1).eraseDups
  if asleep.isEmpty then d.writeParts i row ps else .stall (asleep.foldl Dev.demandWake d)

/-! ### Areas -/

/-- The areas take a stream's output, bounded by CAPACITY and not by COUNT (R294, R309). -/
def Ctx.freeArea (x : Ctx) : Bool := x.ccw.op = 0x40 && x.ccw.xf

/-- The area of a CCW without IDAL. -/
def Dev.openArea (d : Dev) (i : Nat) : Dev :=
  let x := d.ctx i
  let c := x.ccw
  if c.idal then d.setCtx i { x with area := {}, stored := 0, idalNext := c.addr.toNat }
  else
    let n := if x.freeArea then 2 ^ 48 else c.count.toNat
    d.setCtx i { x with stored := 0, area := { addr := c.addr.toNat, left := n, row := d.useRow c.addr.toNat } }

/-- The detail that makes an IDAL entry invalid (R125). -/
def idalErr (bs : List Byte) : Option Word :=
  if fieldAt bs 12 4 ≠ 0 then some 0x401
  else if fieldAt bs 8 4 = 0 then some 0x402
  else if 2 ^ 48 ≤ fieldAt bs 0 8 then some 0x403
  else none

/-- The next IDAL entry is read where the area in use is consumed (R124, R125); `used` bytes of COUNT are consumed. -/
def Dev.loadArea (d : Dev) (i used : Nat) : Acc :=
  let x := d.ctx i
  if x.area.left ≠ 0 ∨ !x.ccw.idal then .ok [] d
  else match d.engRead i .idal x.idalNext 16 with
    | .ok bs d =>
      match idalErr bs with
      | some det => .fail xPROGRAM det d
      | none =>
        let x := d.ctx i
        let a := fieldAt bs 0 8
        .ok [] (d.setCtx i { x with
          idalNext := x.idalNext + 16
          area := { addr := a, left := if x.freeArea then fieldAt bs 8 4 else min (fieldAt bs 8 4) (x.ccw.count.toNat - used), row := d.useRow a } })
    | r => r

/-- Bytes from an address to the end of its 32-byte block, at most `n`. -/
def beatLen (a n : Nat) : Nat := min n (32 - a % 32)

/-- One beat read from the area in use, at most `lim` bytes. -/
def Dev.readArea (d : Dev) (i lim : Nat) : Acc :=
  let x := d.ctx i
  let n := beatLen x.area.addr (min x.area.left lim)
  if d.useRow x.area.addr ≠ x.area.row then .fail xADDRESS 0x8008 d
  else match d.engRead i .data x.area.addr n with
    | .ok bs d =>
      let x := d.ctx i
      .ok bs (d.setCtx i { x with area := { x.area with addr := x.area.addr + n, left := x.area.left - n } })
    | r => r

/-- One beat written to the area in use: as much of the bytes as fits a beat and the area. -/
def Dev.writeArea (d : Dev) (i : Nat) (bs : List Byte) : Acc :=
  let x := d.ctx i
  let n := beatLen x.area.addr (min x.area.left bs.length)
  if d.useRow x.area.addr ≠ x.area.row then .fail xADDRESS 0x8008 d
  else match d.engWrite i .data x.area.addr (bs.take n) with
    | .ok _ d =>
      let x := d.ctx i
      .ok (bs.drop n) (d.setCtx i { x with area := { x.area with addr := x.area.addr + n, left := x.area.left - n } })
    | r => r

end Sys2Proof.Machine
end

