-- ==== Sys2Proof/Machine/Fifos.lean ====
section
/-!
DEFINITION. The order in which a port serves operations (R175), and the port FIFOs: packing, the receive latch and overrun, stages leaving the chain, FLUSH and DROP (R277–R291).
-/

namespace Sys2Proof.Machine

/-! ### The order of operations at a port (R175) -/

/-- A command that takes data from the device. -/
def Ccw.sink (c : Ccw) : Bool := c.op = opREAD || c.op = opSENSE

/-- The port and direction that an operation of a command occupies; none where it waits for no other (R175, R207). -/
def portKey (b : Word) (op : Byte) (m : Byte) : Option Nat :=
  match bKind b with
  | 3 => some (0x300 + bI3c b)
  | 4 => some (0x400 + bPort b)
  | 5 => if op = opSENSE ∨ (op = opCONTROL ∧ m = 1) then none else some (0x500 + 2 * bPort b + b2n (op ≠ opREAD))
  | 7 => if op = opREAD then some (0x700 + bQueue b) else none
  | _ => none

/-- The port of a subchannel's command. -/
def Dev.ctxKey (d : Dev) (i : Nat) : Option Nat := portKey (d.scb i).binding (d.ctx i).ccw.op (d.ctx i).ccw.mod_

/-- The oldest operation of a subchannel that is not complete. -/
def Ctx.frontOp (x : Ctx) : Option DevOp := x.ops.find? (!·.taken)

/-- A subchannel's oldest operation is the one its port serves (R175, R206, R217). -/
def Dev.served (d : Dev) (i : Nat) : Bool :=
  match (d.ctx i).frontOp with
  | none => false
  | some o =>
    let b := (d.scb i).binding
    (match d.ctxKey i with
     | none => true
     | some k => d.ctxs.all fun e => e.1 = i || d.ctxKey e.1 ≠ some k || e.2.ops.all fun p => p.taken || o.id < p.id) &&
    (bKind b ≠ 4 || (match (d.spi (bPort b)).heldBy with
      | some j => j = i
      | none => true)) &&
    (bKind b ≠ 3 || !(d.i3c (bI3c b)).daaBusy || decide ((d.ctx i).chainMoved + (d.ctx i).moved + (d.ctx i).fed + (d.ctx i).burst ≠ 0))

/-- The device's own state gives an operation its outcome. -/
def Dev.setOpRes (d : Dev) (i : Nat) (r : OpRes) : Dev :=
  match (d.ctx i).frontOp with
  | none => d
  | some o =>
    let x := d.ctx i
    d.setCtx i { x with ops := x.ops.map fun (p : DevOp) => if p.id = o.id ∧ p.res.isNone then { p with res := some r } else p }

/-! ### Packing -/

/-- FIF.CFG of FIFO `f`. -/
def Dev.fifoCfg (d : Dev) (f : Nat) : Word := d.reg pgFIF (0x100 + 0x40 * f)

/-- A stage transfer of a FIFO is counted (R57). -/
def Dev.countStage (d : Dev) (tag : Nat) : Dev := d.count 3 1 tag 1

/-- Occupied stages at which a producer treats the chain as full (R282). -/
abbrev fifoFull : Nat := 63

/-- A stage enters the chain: the level event on the occupancy it makes (R286), or its discard under a pending DROP
(R288, R290). -/
def Dev.fifoEnter (d : Dev) (f : Nat) (s : Stage) : Dev :=
  let v := d.fifo f
  let d := d.countStage (regionTag 3)
  if v.dropPend then d.setFifo f { v with dropPend := !s.eop }
  else
    let d := d.setFifo f { v with chain := v.chain ++ [s] }
    if d.fifoLevel f ≠ 0 ∧ v.chain.length + 1 = d.fifoLevel f then d.raiseEvent (96 + f) else d

/-- The stage an assembly word makes (R278, R282): an empty one is one byte of 0. -/
def asmStage (asm : List Byte) (eop bad : Bool) : Stage := { data := if asm.isEmpty then [0] else asm, eop := eop, bad := bad }

/-- A packet ends with an empty assembly word: its last stage, if that is still in the chain, carries EOP; a packet whose stages have
all left ends in a stage without bytes, and one that is nothing but a partial item in a BAD one (log 21). -/
def Dev.fifoSeal (d : Dev) (f : Nat) (bad some_ : Bool) : Dev :=
  let v := d.fifo f
  match v.chain.getLast? with
  | some s =>
    if !s.eop then d.setFifo f { v with chain := v.chain.dropLast ++ [{ s with eop := true, bad := s.bad || bad }] }
    else if some_ then d.fifoEnter f { data := [], eop := true, bad := bad }
    else if bad then d.fifoEnter f (asmStage [] true true)
    else d
  | none =>
    if v.dropPend ∧ some_ then d.setFifo f { v with dropPend := false }
    else if some_ then d.fifoEnter f { data := [], eop := true, bad := bad }
    else if bad then d.fifoEnter f (asmStage [] true true)
    else d

/-- The FIFO domain of FIFO `f`. -/
def fifoDom (f : Nat) : Nat := 21 + f / 16

/-- Bytes and packet ends move from the receive latch into the assembly word, and a word of 8 bytes or of a packet's end into the
chain (R278), while there is room and the FIFO's domain is awake (R292). -/
def Dev.fifoFill (d : Dev) (f : Nat) : Nat → Dev
  | 0 => d
  | n + 1 =>
    let v := d.fifo f
    if d.gate (fifoDom f) ≠ .ok then d
    else match v.latch with
    | [] => d
    | .byte b :: rest =>
      if v.asm.length < 7 then (d.setFifo f { v with asm := v.asm ++ [b], latch := rest }).fifoFill f n
      else if v.chain.length < fifoFull then
        ((d.setFifo f { v with asm := [], latch := rest }).fifoEnter f (asmStage (v.asm ++ [b]) false false)).fifoFill f n
      else d
    | .packetEnd bad some_ :: rest =>
      if v.asm.isEmpty ∧ (v.chain.length < fifoFull ∨ (v.chain.getLast?.map (!·.eop)).getD false ∨ !(some_ || bad)) then
        ((d.setFifo f { v with latch := rest }).fifoSeal f bad some_).fifoFill f n
      else if !v.asm.isEmpty ∧ v.chain.length < fifoFull then
        ((d.setFifo f { v with asm := [], latch := rest }).fifoEnter f (asmStage v.asm true bad)).fifoFill f n
      else d

/-- Rounds enough for the receive latch. -/
abbrev latchFuel : Nat := 64

/-- Bytes a receive latch holds. -/
def Fifo.latched (v : Fifo) : Nat := (v.latch.filter fun x => match x with
  | .byte _ => true
  | .packetEnd _ _ => false).length

/-- A byte is lost at a full receive latch (R282). -/
def Dev.fifoLost (d : Dev) (f : Nat) : Dev :=
  let v := d.fifo f
  let d := d.bump pgFIF (0x100 + 0x40 * f + 0x14) 1 0x0F8 f
  if v.chain.length ≤ fifoFull then
    (d.setFifo f { v with asm := [], latch := [], discard := true }).fifoEnter f (asmStage v.asm true true)
  else d.setFifo f { v with discard := true }

/-- The packet of a producer ends (R278, R279, R282), and a waiting FLUSH can take effect. -/
def Dev.fifoEnd (d : Dev) (f : Nat) (bad : Bool) : Dev :=
  let v := d.fifo f
  let lost := v.discard && (!v.asm.isEmpty || !v.latch.isEmpty)
  let items : List LatchItem := if v.discard ∧ !lost then [] else [.packetEnd (bad || lost) (decide (v.pktLen ≠ 0))]
  (d.setFifo f { v with latch := v.latch ++ items, inPkt := false, pktLen := 0, discard := false }).fifoFill f latchFuel

/-- A producer has a byte for its FIFO (R278, R280, R282). It wakes the FIFO's domain, which takes it from the receive latch (R292);
a fenced one takes nothing. PKT_MAX cuts the packets of a UART or an SPI target. -/
def Dev.fifoByte (d : Dev) (f : Nat) (b : Byte) : Dev :=
  match d.knock (fifoDom f) with
  | (.fenced, d) => d
  | (_, d) =>
    let v := d.fifo f
    let d := d.setFifo f { v with inPkt := true, pktLen := v.pktLen + 1 }
    let v := d.fifo f
    let d :=
      if v.discard then d
      else
        let d := (d.setFifo f { v with latch := v.latch ++ [.byte b] }).fifoFill f latchFuel
        if 16 < (d.fifo f).latched then (d.setFifo f v).fifoLost f else d
    let c := d.fifoCfg f
    if fld c 24 4 ≠ 3 ∧ fld c 0 12 ≠ 0 ∧ fld c 0 12 ≤ (d.fifo f).pktLen then d.fifoEnd f false else d

/-! ### The consumer's end -/

/-- The head stage leaves the chain through its check, for a tag (R285, R565); none where the chain is empty. -/
def Dev.fifoTake (d : Dev) (f tag : Nat) : Option Stage × Dev :=
  match (d.fifo f).chain with
  | [] => (none, d)
  | s :: rest =>
    let d := (d.setFifo f { d.fifo f with chain := rest, begun := !s.eop }).srcFalls.countStage tag
    let i := d.takeInject pgFIF f
    let ev := fun k => { kind := k, page := pgFIF, source := f, info := 0, unit := some (21 + f / 16),
                         injected := i.1.isSome : FaultEv }
    let r : Stage × Dev :=
      if i.1 = some true ∨ s.err = 2 then ({ s with bad := true, err := 0 }, i.2.raiseFault (ev 10))
      else if i.1 = some false ∨ s.err = 1 then
        ({ s with err := 0 }, (i.2.bump16 pgFIF (0x100 + 0x40 * f + 0x10) 0 1).raiseFault (ev 9))
      else (s, i.2)
    (some r.1, r.2.fifoFill f latchFuel)

/-- The stages up to and including the first EOP dropped, and whether one was found. -/
def dropPacket : List Stage → List Stage × Bool
  | [] => ([], false)
  | s :: ss => if s.eop then (ss, true) else dropPacket ss

/-- DROP takes effect: the rest of the head packet is discarded, with stages not yet arrived (R288). -/
def Dev.fifoDropNow (d : Dev) (f : Nat) : Dev :=
  let v := d.fifo f
  if v.dropPend then d.setFifo f { v with dropReq := false }
  else
    let r := dropPacket v.chain
    (d.setFifo f { v with chain := r.1, dropPend := !r.2, dropReq := false, begun := false }).srcFalls.fifoFill f latchFuel

/-- FLUSH takes effect: every stage is discarded (R287). -/
def Dev.fifoFlushNow (d : Dev) (f : Nat) : Dev :=
  d.setFifo f { d.fifo f with chain := [], asm := [], latch := [], flushPend := false, begun := false } |>.srcFalls

/-- The subchannel whose READ is active on FIFO `f` (R175, R289). -/
def Dev.fifoReader (d : Dev) (f : Nat) : Option Nat :=
  (d.ctxs.find? fun e => bKind (d.scb e.1).binding = 7 && bQueue (d.scb e.1).binding = f && e.2.ccw.op = opREAD &&
    d.served e.1).map (·.1)

/-- The READ active on a FIFO ends short, with a DETAIL; one that has ended at its packet's end is left as it is (R289). -/
def Dev.fifoCutRead (d : Dev) (f : Nat) (detail : Nat) : Dev :=
  match d.fifoReader f with
  | none => d
  | some i =>
    let x := d.ctx i
    let cut := fun (r : Option OpRes) => match r with
      | none => some ({ status := w32 detail } : OpRes)
      | some z => some (if z.status = 0 then z else { z with status := z.status ||| w32 detail })
    d.setCtx i { x with ops := x.ops.map fun (o : DevOp) => if o.taken then o else { o with res := cut o.res } }

/-- What a FLUSH and a DROP wait for has come: no burst is held, and the producer is between packets (R287, R289, R290). -/
def Dev.fifoDeferred (d : Dev) (f : Nat) : Dev :=
  let v := d.fifo f
  if v.reserved ≠ 0 then d
  else
    let d := if v.flushPend ∧ !v.inPkt then (d.fifoFlushNow f).fifoCutRead f 1 else d
    if v.dropReq then (d.fifoDropNow f).fifoCutRead f 2 else d

/-- LATE_WD of a page counts a withdrawal after a reservation (R179). -/
def Dev.lateWd (d : Dev) (p : Nat) : Dev := d.bump p 0x0F0 1 0x0F4 0

/-- FLUSH and DROP written together through FIF.CMD (R287–R290). -/
def Dev.fifoCmd (d : Dev) (f : Nat) (flush drop : Bool) : Dev :=
  let v := d.fifo f
  let d := if flush ∧ v.reserved ≠ 0 then d.lateWd pgFIF else d
  (d.setFifo f { v with flushPend := v.flushPend || flush, dropReq := v.dropReq || (drop && !v.dropPend) }).fifoDeferred f

/-- The producer's packet ends: what waited for that takes effect. -/
def Dev.fifoClose (d : Dev) (f : Nat) (bad : Bool) : Dev := (d.fifoEnd f bad).fifoDeferred f

/-- CFG.EN is written 1: the FIFO starts empty (R291). -/
def Dev.fifoEnable (d : Dev) (f : Nat) : Dev :=
  (d.setFifo f {}).setReg pgFIF (0x100 + 0x40 * f) (withBit (d.fifoCfg f) 31 true)

/-- CFG.EN is written 0: the producer closes its packet, unless an overrun has, and every stage is discarded (R287, R291). -/
def Dev.fifoDisable (d : Dev) (f : Nat) : Dev :=
  let d := d.setReg pgFIF (0x100 + 0x40 * f) (withBit (d.fifoCfg f) 31 false)
  let v := d.fifo f
  let closed := v.discard && v.asm.isEmpty && v.latch.isEmpty
  let d := if v.inPkt ∧ !closed ∧ v.chain.length ≤ fifoFull then
      (d.setFifo f { v with asm := [], latch := [], inPkt := false, pktLen := 0, discard := false }).fifoEnter f (asmStage v.asm true true)
    else d
  d.fifoCmd f true false

/-- Packets held: EOP stages (FIF.STAT). -/
def Fifo.packets (v : Fifo) : Nat := (v.chain.filter (·.eop)).length

/-- The consumer may start on the head packet, or has (R283). -/
def Dev.fifoReady (d : Dev) (f : Nat) : Bool :=
  let v := d.fifo f
  let t := d.rf pgFIF (0x100 + 0x40 * f + 4) 0 7
  !v.dropPend && (v.begun || v.packets ≠ 0 || (t ≠ 0 && t ≤ v.chain.length) || fifoFull ≤ v.chain.length)

/-- Bytes that wait in a receive latch enter the chain once its domain is awake (R292). -/
def Dev.fifoFollow (d : Dev) (f : Nat) : Dev :=
  if (d.fifo f).latch.isEmpty then d else (d.fifoFill f latchFuel).fifoDeferred f

/-- FIF.RD_LO is read by a consumer of CMODE 1, for a tag (R284). -/
def Dev.fifoReadStage (d : Dev) (f tag : Nat) : Word × Dev :=
  let c := d.fifoCfg f
  if !bitAt c 30 then (0, d)
  else match d.fifoTake f tag with
    | (none, d) => (0, d.setReg pgFIF (0x100 + 0x40 * f + 0x20) 0)
    | (some s, d) =>
      let v := leNat s.data
      let d := d.setReg pgFIF (0x100 + 0x40 * f + 0x1C) (w32 (v / 2 ^ 32))
      (w32 v, d.setReg pgFIF (0x100 + 0x40 * f + 0x20)
        (w32 (fput 7 1 (b2n s.bad) + fput 6 1 (b2n s.eop) + s.data.length)))

end Sys2Proof.Machine
end

