-- ==== Sys2Proof/Machine/Subchannel.lean ====
section
/-!
DEFINITION. The life of a subchannel: operations, dispatch, records and their order, boundaries, HALT, CLEAR, draining and
the ends of a program (R128–R171).
-/

namespace Sys2Proof.Machine

/-! ### Engines -/

/-- PG_CTRL.EN of a page. -/
def Dev.pageEn (d : Dev) (p : Nat) : Bool := d.rb p 0x008 0

/-- The subchannel that the sequencer of engine `n` works for: the one that holds it (R140), or one that drains and whose data
chain of device commands is still to be completed (R163, R167). -/
def Dev.activeSub (d : Dev) (n : Nat) : Option Nat :=
  match d.scbs.find? fun e => e.1 / 256 = n && e.2.state = .active with
  | some e => some e.1
  | none => (d.scbs.find? fun e => e.1 / 256 = n && e.2.state = .draining &&
      ((d.ctx e.1).phase = .fetching || (d.ctx e.1).phase = .ready)).map (·.1)

/-- A subchannel of engine `n` is ACTIVE, WAITING or DRAINING (R168). -/
def Dev.engineBusy (d : Dev) (n : Nat) : Bool :=
  d.scbs.any fun e => e.1 / 256 = n && (e.2.state = .active || e.2.state = .waiting || e.2.state = .draining)

/-- PG_STAT.DRAINING of an engine (R167, R168). -/
def Dev.ceDraining (d : Dev) (n : Nat) : Bool := !d.pageEn (pgCE + n) && d.engineBusy n

/-- Operations of a subchannel that hold a slot. -/
def Ctx.opsHeld (x : Ctx) : Nat := (x.ops.filter (!·.taken)).length

/-- Operations of a subchannel are outstanding. -/
def Ctx.opsOut (x : Ctx) : Bool := x.ops.any (!·.taken)

/-- Slots in use: held by operations, granted, or reaping. -/
def Dev.slotsUsed (d : Dev) (n : Nat) : List Nat :=
  (d.ctxs.filter fun e => e.1 / 256 = n).flatMap (fun e => (e.2.ops.filter (!·.taken)).map (·.slot) ++ e.2.granted.toList) ++
    (d.eng n).reaping.map fun r => r.1 / 256

/-- The lowest free in-flight slot of an engine (R142). -/
def Dev.freeSlot (d : Dev) (n : Nat) : Option Nat :=
  let u := d.slotsUsed n
  (List.range 32).find? fun s => !u.contains s

/-- HIGH_WATER follows IN_USE. -/
def Dev.noteSlots (d : Dev) (n : Nat) : Dev :=
  let u := (d.slotsUsed n).length
  if (d.eng n).highWater < u then d.setEng n { d.eng n with highWater := u } else d

/-- The first of the subchannels of engine `n` that satisfy a test, in the order of R140. -/
def Dev.pickSub (d : Dev) (n : Nat) (f : Nat → Scb → Bool) : Option Nat :=
  let g := d.eng n
  let mine := d.scbs.filter fun e => e.1 / 256 = n && f e.1 e.2
  let inClass := fun (c : Nat) (last : Nat) =>
    let ls := (mine.filter fun e => e.2.cls.toNat = c).map fun e => e.1 % 256
    match ls.find? fun l => decide (last < l) with
    | some l => some l
    | none => ls.head?
  (match inClass 3 g.last3 with
   | some l => some l
   | none => match inClass 2 g.last2 with
     | some l => some l
     | none => match inClass 1 g.last1 with
       | some l => some l
       | none => inClass 0 g.last0).map fun l => n * 256 + l

/-- The number last dispatched in a class. -/
def Engine.setLast (g : Engine) (c : BitVec 2) (l : Nat) : Engine :=
  match c.toNat with
  | 3 => { g with last3 := l }
  | 2 => { g with last2 := l }
  | 1 => { g with last1 := l }
  | _ => { g with last0 := l }

/-- A freed slot goes to the subchannel with cause SLOT that R140 would dispatch first (R143). -/
def Dev.grantSlot (d : Dev) (n : Nat) : Dev :=
  match d.freeSlot n with
  | none => d
  | some s =>
    match d.pickSub n (fun i b => b.state = .waiting && b.cause = .slot && decide ((d.ctx i).opsHeld < 8)) with
    | none => d
    | some i => (d.setCtx i { d.ctx i with granted := some s }).setSub i .pending .none

/-! ### Charges and bounds -/

/-- Charge of a subchannel since a mark. -/
def Dev.chargeSince (d : Dev) (i : Nat) (mark : BitVec 64) : BitVec 64 := d.acc i - mark

/-- The bound found exceeded, as its DEVSTAT: 0 EB, 1 BUDGET (R158). `eb`: the CCW's own bound is tested too. -/
def Dev.boundHit (d : Dev) (i : Nat) (eb : Bool) : Option Word :=
  let s := d.scb i
  let x := d.ctx i
  if eb && x.ccw.eb && boundExceeded (d.chargeSince i s.ccwMark) x.ccw.ebound then some 0
  else if s.budget ≠ 0 ∧ boundExceeded (d.chargeSince i s.startMark) s.budget then some 1
  else none

/-! ### The end of a program -/

/-- What waited for a burst of the port of a binding takes effect once none is held (R179, R287–R289). -/
def Dev.burstEnds (d : Dev) (b : Word) : Dev :=
  match bKind b with
  | 5 =>
    let v := d.uart (bPort b)
    if v.flushPend ∧ v.reserved = 0 then d.setUart (bPort b) { v with rx := [], flushPend := false } else d
  | 7 => d.fifoDeferred (bQueue b)
  | _ => d

/-- A burst that cannot move ends: the bytes it holds at its port go back to it. -/
def Dev.dropBurst (d : Dev) (i : Nat) : Dev :=
  if (d.ctx i).burst = 0 then d
  else
    let b := (d.scb i).binding
    let d := if bKind b = 5 then d.setUart (bPort b) { d.uart (bPort b) with reserved := 0 }
      else if bKind b = 7 then d.setFifo (bQueue b) { d.fifo (bQueue b) with reserved := 0 } else d
    (d.setCtx i { d.ctx i with burst := 0 }).burstEnds b

/-- A slot that was granted and has not been used is free again (R143). -/
def Dev.dropSlot (d : Dev) (i : Nat) : Dev :=
  if (d.ctx i).granted.isSome then (d.setCtx i { d.ctx i with granted := none }).grantSlot (i / 256) else d

/-- The transaction of SPI port `s` ends with the release of its select (R206, R215). -/
def Dev.spiReleased (d : Dev) (s : Nat) : Dev :=
  (d.setSpi s { d.spi s with heldBy := none }).bump pgSPI (0x100 + 0x40 * s + 0x18) 1 (0x100 + 0x40 * s + 0x30) 0

/-- A chip select that a subchannel holds is released (R206). -/
def Dev.releaseSelect (d : Dev) (i : Nat) : Dev :=
  (d.spis.filter fun e => e.2.heldBy = some i).foldl (fun d e => d.spiReleased e.1) d

/-- What a program holds is given up as it ends: its wake list entry, its stream, a held chip select, the staging area. -/
def Dev.quit (d : Dev) (i : Nat) : Dev :=
  let d := (((d.wlRemove i .subch i).freeStream i).dropBurst i).dropSlot i
  let d := d.releaseSelect i
  let d := { d with
    streamWait := d.streamWait.filter fun w => w.sub ≠ i
    lqs := d.lqs.map fun (e : Nat × LentQ) => (e.1, if e.2.stager = some i then { e.2 with stager := none } else e.2) }
  let x := d.ctx i
  d.setCtx i { ops := x.ops.filter (!·.taken), ccw := x.ccw, plan := x.plan, after := x.after, waitSeq := x.waitSeq }

/-- The record that ends the program, and the state after it. -/
def Dev.planEnd (d : Dev) (i : Nat) (r : RecPlan) (a : After) : Dev :=
  let d := d.quit i
  d.setCtx i { d.ctx i with plan := [r], after := some a }

/-- The program is to end with HALTED or DRAINED (R162). A HALT that takes effect is no longer pending. -/
def Dev.planHalted (d : Dev) (i : Nat) : Dev :=
  (d.setScb i { d.scb i with haltReq := false }).planEnd i { kind := 6, code := 0x0C } .stopped
def Dev.planDrained (d : Dev) (i : Nat) : Dev := d.planEnd i { kind := 7, code := 0x0D } .stopped

/-- The program is to end with an exception, no operation being outstanding (R170). -/
def Dev.planExc (d : Dev) (i : Nat) (e : Exc) : Dev :=
  let p := pgCE + i / 256
  let d := if e.code = xDEADLINE then d.bump p 0x06C 1 0x074 2 else if e.code = xENERGY then d.bump p 0x070 1 0x074 3 else d
  let d := d.setScb i { d.scb i with residual := e.residual, lastDevstat := e.devstat }
  d.planEnd i { kind := 5, code := e.code } .stopped

/-- Kinds of record that end a program (R139). -/
def endKind (k : Byte) : Bool := k = 2 || k = 5 || k = 6 || k = 7

/-- A record of the subchannel waits for its ring (R138). -/
def Dev.inRingWait (d : Dev) (i : Nat) : Bool := (d.scb i).state = .waiting && (d.scb i).cause = .ring

/-- The record that ends the program is planned, or waits as the last (R139). -/
def Ctx.ending (x : Ctx) : Bool := x.plan.any (fun r => endKind r.kind) || x.after = some .idle || x.after = some .stopped

/-- An exception is found. It waits for a record that waits for its ring (R169), and for outstanding operations, beyond which
nothing further is issued (R171); where the program's end has been found before, it is none (R139). -/
def Dev.findExc (d : Dev) (i : Nat) (e : Exc) : Dev :=
  let x := d.ctx i
  if x.exc.isSome then d
  else if d.inRingWait i then if x.ending then d else d.setCtx i { x with exc := some e }
  else if !x.opsOut then d.planExc i e
  else
    let d := (d.setCtx i { x with phase := .running, exc := some e, hostReq := none }).dropSlot i
    if (d.scb i).state = .draining then d else d.subWait i .device

/-- The flags of requests lapse as a program ends (R139). -/
def Dev.endState (d : Dev) (i : Nat) (st : SubState) : Dev :=
  (d.setScb i { d.scb i with haltReq := false, suspReq := false, inChain := false }).setSub i st .none

/-! ### Completion (R147–R151, R158–R162) -/

/-- Commands that transfer control. -/
def ctrlOp (op : Byte) : Bool := op = 0x09 || op = 0x0A || op = 0x0B

/-- The fetch of a CCW is requested: rows 1 and 2 of R127. An address that follows in sequence stays in its row (R83). -/
def Dev.startFetch (d : Dev) (i a : Nat) : Dev :=
  let n := i / 256
  let d := (d.setScb i { d.scb i with ccwAddr := BitVec.ofNat 48 a }).copyImage i
  let x := d.ctx i
  if a % 32 ≠ 0 then d.findExc i ⟨xPROGRAM, 1, 0, false⟩
  else if x.row.isSome ∧ x.row ≠ some (d.useRow a) then d.findExc i ⟨xADDRESS, 0x8008, 0, false⟩
  else match d.useErr n .fetch false a with
    | some (c, det) => (d.noteRefusal i det).findExc i ⟨c, det, 0, false⟩
    | none =>
      let d := d.setCtx i { x with phase := .fetching, row := some (d.useRow a), boundary := false }
      let d := d.count (if n < 8 then 5 else 6) 3 i 1
      if rangeOf a = .hostwin then d.countAccess i (ceDom n) false a 32 else d

/-- The completion of the CCW in execution (step 8 of R145): its records and what follows them. A bound first found exceeded at an
inner CCW of a data chain ends the program in that CCW, once the chain's operations have completed (R159, R171). -/
def Dev.ccwCompletion (d : Dev) (i : Nat) : Dev :=
  let d := d.foldTag i
  let s := d.scb i
  let x := d.ctx i
  let c := x.ccw
  let hit := d.boundHit i true
  let seqNext := BitVec.ofNat 48 (s.ccwAddr.toNat + 32)
  let d := if ctrlOp c.op then d else d.setCtx i { d.ctx i with ticRun := 0 }
  let inner := c.cd && x.devEnd.isNone
  let post := bitAt x.headA 0 && !inner && c.op ≠ 0x3F
  let recs : List RecPlan := if post then [{ kind := 1, code := 0 }] else []
  let mover := c.op = 0x20 ∨ c.op = 0x21
  let ends : Option Byte := if c.op = 0x3F then some (BitVec.ofNat 8 (fld c.param 0 8))
    else if ctrlOp c.op ∨ inner ∨ (c.cc ∧ !c.cd) then none else some 0
  match ends with
  | some code =>
    let d := d.quit i
    d.setCtx i { d.ctx i with plan := recs ++ [{ kind := 2, code := code }], after := some .idle }
  | none =>
    match hit with
    | some b =>
      if inner then d.findExc i ⟨xENERGY, b, s.residual, false⟩ else
      let p := pgCE + i / 256
      let d := d.bump p 0x070 1 0x074 3
      let d := d.quit i
      d.setCtx i { d.ctx i with
        plan := recs ++ [{ kind := 5, code := xENERGY, devstat := some b }], after := some .stopped }
    | none =>
      if inner then
        if mover ∧ s.haltReq then (d.setScb i { d.scb i with ccwAddr := seqNext }).planHalted i
        else if mover ∧ !d.pageEn (pgCE + i / 256) then (d.setScb i { d.scb i with ccwAddr := seqNext }).planDrained i
        else
          let d := d.setCtx i { d.ctx i with succ := true, chainTic := false, chainMoved := x.chainMoved + x.moved }
          d.startFetch i seqNext.toNat
      else if ctrlOp c.op then
        if x.succ then d.startFetch i x.nextAddr.toNat
        else d.setCtx i { d.ctx i with plan := recs, after := some (.next x.nextAddr) }
      else
        let d := d.setScb i { d.scb i with inChain := false }
        d.setCtx i { d.ctx i with plan := recs, after := some (.next seqNext), succ := false }

/-! ### Records and what follows them (R138, R161) -/

/-- The next state once every planned record is in the ring. `waited`: some record had to wait. Plans of a further end are
left for the caller to post. -/
def Dev.applyAfter (d : Dev) (i : Nat) (waited : Bool) (a : After) : Dev :=
  let n := i / 256
  let s := d.scb i
  let x := d.ctx i
  let drain := !d.pageEn (pgCE + n)
  let d := d.setCtx i { x with after := none }
  match x.exc with
  | some e => d.planExc i e
  | none =>
  match a with
  | .idle => d.endState i .idle
  | .stopped => d.endState i .stopped
  | .suspended =>
    let d := d.setScb i { d.scb i with suspReq := false }
    if s.haltReq then (d.setSub i .suspended .none).planHalted i
    else if drain then (d.setSub i .suspended .none).planDrained i
    else d.setSub i .suspended .none
  | .next a =>
    let d := d.setScb i { d.scb i with ccwAddr := a }
    if s.haltReq then d.planHalted i
    else if drain then d.planDrained i
    else (d.setCtx i { d.ctx i with phase := .fetch, boundary := true }).setSub i .pending .none
  | .execute =>
    if waited ∧ s.haltReq then d.planHalted i
    else if waited ∧ drain then d.planDrained i
    else (d.setCtx i { d.ctx i with phase := .ready }).setSub i (if waited then .pending else .active) .none
  | .complete =>
    let d := d.setCtx i { d.ctx i with phase := .done }
    if waited ∧ (drain ∨ s.haltReq) then d.ccwCompletion i else d.setSub i (if waited then .pending else .active) .none

/-- The planned records are posted one after another, and what follows them takes place. A record that cannot enter its ring, or
cannot be formed since another of the subchannel waits (R232), leaves it WAITING with cause RING (R138). The SCB keeps what an
EXCEPTION record carries (R170). -/
def Dev.proceed (d : Dev) (i : Nat) (waited : Bool) : Nat → Dev
  | 0 => d
  | fuel + 1 =>
    let x := d.ctx i
    match x.plan with
    | r :: rs =>
      if d.slotTaken i then d.subWait i .ring else
      let s := d.scb i
      let f := d.formRec i s.startMark
        { sub := i, kind := r.kind, code := r.code, residual := r.residual.getD s.residual, ccwAddr := r.ccwAddr.getD s.ccwAddr,
          time := 0, energy := 0, devstat := r.devstat.getD s.lastDevstat }
      let d := f.2.setCtx i { x with plan := rs }
      let d := if r.kind = 5 then d.setScb i { d.scb i with residual := f.1.residual, lastDevstat := f.1.devstat } else d
      match d.postRec s.ring.toNat f.1 true with
      | (true, d) => d.proceed i waited fuel
      | (false, d) => d.subWait i .ring
    | [] =>
      match x.after with
      | none => d
      | some a => (d.applyAfter i waited a).proceed i waited fuel

/-- Records enough for any plan. -/
abbrev planFuel : Nat := 12

/-- The planned records are posted. -/
def Dev.go (d : Dev) (i : Nat) : Dev := d.proceed i false planFuel

/-- An exception is found, and its record posted where nothing is outstanding (R171). -/
def Dev.raiseExc (d : Dev) (i : Nat) (code : Byte) (det residual : Word) (counts : Bool := false) : Dev :=
  let e := d.findExc i ⟨code, det, residual, counts⟩
  if (d.ctx i).exc.isSome ∨ d.inRingWait i then e else e.go i

/-- COUNT minus the bytes transferred (R170). -/
def Ctx.remaining (x : Ctx) : Word := x.ccw.count - w32 x.moved

/-- A failed access ends the CCW, and the burst it was made for (row 14 of R127). -/
def Dev.failAccess (d : Dev) (i : Nat) (code : Byte) (det : Word) : Dev :=
  (d.dropBurst i).raiseExc i code det (d.ctx i).remaining true

/-- The input of a CCW's stream is poisoned: its result block says so (ERR 2 of R310, R312). -/
def Dev.inputPoisoned (d : Dev) (i : Nat) : Dev :=
  match d.stream i with
  | some s => if (d.ctx i).ccw.xf then d.streamFail i s 2 0 else d
  | none => d

/-- A failed access to the source of a CCW ends it, and a stream whose input is poisoned with it. -/
def Dev.failSource (d : Dev) (i : Nat) (code : Byte) (det : Word) : Dev :=
  (if code = xDATA then d.inputPoisoned i else d).failAccess i code det

/-- The wait of a subchannel ends: it is to be dispatched and its CCW completed. -/
def Dev.waitDone (d : Dev) (i : Nat) : Dev := (d.setCtx i { d.ctx i with phase := .done }).setSub i .pending .none

/-- The CCW of a subchannel has been carried out, while it holds the sequencer or waits on its device. -/
def Dev.ccwDone (d : Dev) (i : Nat) : Dev :=
  let x := d.ctx i
  let op := x.ccw.op
  let d := if op = 0x20 ∨ op = 0x21 then d.setScb i { d.scb i with residual := 0, lastDevstat := 0 }
    else if opREAD.toNat ≤ op.toNat then d.setScb i { d.scb i with residual := x.remaining } else d
  let d := d.setCtx i { x with phase := .done }
  if (d.scb i).state = .active then d.copyImage i
  else if (d.scb i).state = .draining then (d.ccwCompletion i).proceed i true planFuel
  else d.setSub i .pending .none

/-- All data have moved: the read that acknowledges host window writes comes first, where ORD asks for it (R558). -/
def Dev.dataDone (d : Dev) (i : Nat) : Dev :=
  let x := d.ctx i
  match x.ccw.ord, x.hostWrote with
  | true, some a =>
    if d.hostOpen then d.setCtx i { x with phase := .flush, hostReq := some (a, 4) }
    else d.raiseExc i xADDRESS 0x8004 0
  | _, _ => d.ccwDone i

/-! ### Operations (R135) -/

/-- START (R135). -/
def Dev.subStart (d : Dev) (i : Nat) (a : BitVec 48) : Dev :=
  let d := d.foldTag i
  let t := d.sample i
  let d := t.2
  ((d.setCtx i {}).setScb i { d.scb i with
    state := .pending, cause := .none, ccwAddr := a, residual := 0, lastDevstat := 0, programT0 := t.1, startMark := d.acc i,
    haltReq := false, suspReq := false }).copyImage i

/-- RESUME (R135, R155). -/
def Dev.subResume (d : Dev) (i : Nat) : Dev :=
  let x := d.ctx i
  (d.setCtx i { x with phase := .fetch, resumed := true, ticRun := 0, row := if x.boundary then x.row else none
                       boundary := false }).setSub i .pending .none

/-- A wait that HALT or draining ends at once (R164, R297): TIME, EVENT, SPOKE, SLOT, or DEVICE for a stream. -/
def Dev.endsAtOnce (d : Dev) (i : Nat) : Bool :=
  match (d.scb i).cause with
  | .time | .event | .spoke | .slot => true
  | .device => d.streamWait.any fun w => w.sub = i
  | _ => false

/-- HALT meets a wait (R164). -/
def Dev.haltWait (d : Dev) (i : Nat) : Dev :=
  if !d.endsAtOnce i then d
  else if !(d.ctx i).opsOut then (d.planHalted i).go i
  else (d.setCtx i { d.ctx i with cut := true }).setSub i .waiting .device

/-- HALT takes effect on a subchannel that is to stop at once, or waits for its boundary (R163, R164). -/
def Dev.subHalt (d : Dev) (i : Nat) : Dev :=
  let s := d.scb i
  if s.haltReq then d
  else
    let d := d.setScb i { s with haltReq := true }
    match s.state with
    | .suspended => (d.planHalted i).go i
    | .pending => if !(d.ctx i).opsOut then (d.planHalted i).go i else d
    | .waiting => d.haltWait i
    | _ => d

/-- Draining reaches a subchannel (R167). -/
def Dev.subDrain (d : Dev) (i : Nat) : Dev :=
  let s := d.scb i
  let x := d.ctx i
  match s.state with
  | .suspended => (d.planDrained i).go i
  | .pending => if !x.opsOut then (d.planDrained i).go i else (d.setCtx i { x with cut := true }).setSub i .draining .none
  | .waiting =>
    if d.endsAtOnce i ∧ !x.opsOut then (d.planDrained i).go i
    else if s.cause = .ring then d
    else (d.setCtx i { x with cut := x.cut || s.cause = .slot }).setSub i .draining .none
  | _ => d

/-- The CCW in execution begins a wait; one that a HALT, or draining, already requested ends it as it would end one that has
begun (R163, R164, R167). -/
def Dev.beginWait (d : Dev) (i : Nat) (c : Cause) : Dev :=
  let d := d.subWait i c
  if (d.scb i).haltReq then d.haltWait i else if !d.pageEn (pgCE + i / 256) then d.subDrain i else d

/-- An engine drains (R167). -/
def Dev.engineDrain (d : Dev) (n : Nat) : Dev :=
  (d.scbs.filter fun e => e.1 / 256 = n).foldl (fun d e => d.subDrain e.1) d

/-- CLEAR (R135, R166). -/
def Dev.subClear (d : Dev) (i : Nat) : Dev :=
  let n := i / 256
  let d := d.quit i
  let x := d.ctx i
  let g := d.eng n
  let d := d.setEng n { g with reaping := g.reaping ++ (x.ops.filter (!·.taken)).map fun o => (o.slot * 256 + i % 256, o.cid.toNat) }
  let s := d.scb i
  let d := { d with hif := { d.hif with store := d.hif.store.map fun (w : WaitRec) => if w.record.sub = i then { w with live := false } else w } }
  ((d.setCtx i {}).setScb i { cls := s.cls, ring := s.ring, binding := s.binding, budget := s.budget }).copyImage i

/-! ### A fenced, cycled or reset engine (R169, R569) -/

/-- One subchannel of an engine that is fenced, cycled or reset (R169). -/
def Dev.subLost (d : Dev) (cause : Word) (i : Nat) : Dev :=
  let m := d.image i
  if m.state = .idle ∨ m.state = .stopped then d
  else
    let s := d.scb i
    let waits := d.hif.store.filter fun w => w.record.sub = i && w.live
    let owed := !(waits.any fun w => endKind w.record.kind)
    let d := { d with hif := { d.hif with
      store := d.hif.store.map fun (w : WaitRec) => if w.record.sub = i then { w with live := false } else w
      checks := if owed then d.hif.checks ++ [{ sub := i, cause := cause, image := m, ring := s.ring.toNat, startMark := s.startMark : PendingCheck }]
                else d.hif.checks } }
    let d := d.quit i
    let d := d.setCtx i { d.ctx i with plan := [], after := none }
    let d := if owed then d.setScb i { d.scb i with residual := m.residual, lastDevstat := cause } else d
    d.endState i .stopped

/-- The subchannels of an engine end with ENGINE_CHECK (R169). -/
def Dev.engineLost (d : Dev) (n : Nat) (cause : Word) : Dev :=
  ((d.images.filter fun e => e.1 / 256 = n).foldl (fun d e => d.subLost cause e.1) d).formChecks

/-- Every SCB of an engine is zeroed, with its slots and counts, and the wake list entries of its waits go (R129, R498, R54). -/
def Dev.engineZero (d : Dev) (n : Nat) : Dev :=
  let d := (d.scbs.filter fun e => e.1 / 256 = n).foldl (fun d e => d.wlRemove e.1 .subch e.1) d
  { d with
    scbs := d.scbs.filter fun e => e.1 / 256 ≠ n
    ctxs := d.ctxs.filter fun e => e.1 / 256 ≠ n
    images := d.images.filter fun e => e.1 / 256 ≠ n
    engines := smErase d.engines n }

/-! ### Rings that can take records again (R231, R232, R567) -/

/-- The oldest record that waits for a ring which can take it enters, and its subchannel goes on; else a subchannel goes on whose
next record waited for the place in the store (R232). -/
def Dev.drainOne (d : Dev) : Option Dev :=
  match d.hif.store.find? fun w => !d.ringBlocked w.ring with
  | some w =>
    let d := { d with hif := { d.hif with store := d.hif.store.erase w } }
    let d := d.ringEnter w.ring w.record
    let d := if w.live then d.proceed w.record.sub true planFuel else d
    some d.formChecks
  | none =>
    (d.scbs.find? fun e => d.inRingWait e.1 && !d.slotTaken e.1).map fun e => d.proceed e.1 true planFuel

/-- Waiting records enter until none can; a ring that has room and sleeps is woken for its own (R567). -/
def Dev.drainRings (d : Dev) : Nat → Dev
  | 0 => d
  | n + 1 => match d.drainOne with
    | none => ((d.hif.store.map (·.ring)).eraseDups).foldl Dev.wakeRing d
    | some d => d.drainRings n

/-! ### Bounds at a fold (R158, R159) -/

/-- A bound found exceeded at a fold that has charged the subchannel ends the CCW in execution, or the wait. -/
def Dev.foldTest (old d : Dev) (i : Nat) : Dev :=
  let b := d.scb i
  let x := d.ctx i
  let executes := (x.phase = .ready || x.phase = .running || x.phase = .flush) &&
    (b.state = .active || b.state = .pending || b.state = .waiting || b.state = .draining)
  if d.acc i = old.acc i ∨ !(executes ∨ b.state = .waiting) then d
  else match d.boundHit i executes with
    | some w => d.raiseExc i xENERGY w (if executes then x.remaining else b.residual) executes
    | none => d

/-! ### Dispatch and fetch (R140, R145) -/

/-- SUBCHANNEL_DISPATCH (R140): the subchannel is dispatched, and where a CCW is to be fetched, its fetch begins. -/
def Dev.dispatch (d : Dev) (n : Nat) : Dev :=
  if (d.activeSub n).isSome then d
  else match d.pickSub n (fun _ b => b.state = .pending) with
    | none => d
    | some i =>
      let s := d.scb i
      let x := d.ctx i
      let d := (d.setEng n ((d.eng n).setLast s.cls (i % 256))).setSub i .active .none
      if x.phase ≠ .fetch then d
      else if x.boundary ∧ s.suspReq then
        (d.setCtx i { d.ctx i with plan := [{ kind := 4, code := 0 }], after := some .suspended }).go i
      else (d.startFetch i s.ccwAddr.toNat).go i

end Sys2Proof.Machine
end

