-- ==== Sys2Proof/Machine/Fetch.lean ====
section
/-!
DEFINITION. The validity of a CCW, rows 3 to 12 of R127, and what follows a fetch (R79–R81, R91–R93, R121–R123, R145).
-/

namespace Sys2Proof.Machine

/-- A CCW from its 32 bytes (R79). -/
def parseCcw (bs : List Byte) : Ccw :=
  { op := BitVec.ofNat 8 (fieldAt bs 0 1), flagsA := BitVec.ofNat 8 (fieldAt bs 1 1), flagsB := BitVec.ofNat 8 (fieldAt bs 2 1),
    mod_ := BitVec.ofNat 8 (fieldAt bs 3 1), count := w32 (fieldAt bs 4 4), addr := BitVec.ofNat 64 (fieldAt bs 8 8),
    param := BitVec.ofNat 64 (fieldAt bs 16 8), xdt := BitVec.ofNat 16 (fieldAt bs 24 2), ebound := BitVec.ofNat 16 (fieldAt bs 26 2),
    deadline := w32 (fieldAt bs 28 4) }

/-- Command codes of R91. -/
def opDefined (op : Nat) : Bool :=
  [0x09, 0x0A, 0x0B, 0x10, 0x11, 0x12, 0x18, 0x19, 0x1A, 0x20, 0x21, 0x28, 0x30, 0x3F, 0x40, 0x41, 0x42, 0x43].contains op

/-- A device command. -/
def devOp (op : Byte) : Bool := decide (0x40 ≤ op.toNat ∧ op.toNat ≤ 0x43)

/-- The FLAGS_A and FLAGS_B bits a command may set (R93). -/
def flagMask (op : Nat) : Byte × Byte :=
  if op = 0x41 then (0xFB, 0xF0)
  else if op = 0x40 then (0xFF, 0xF0)
  else if op = 0x42 ∨ op = 0x43 then (0xD3, 0xE0)
  else if op = 0x0B then (0x00, 0x00)
  else if op = 0x09 ∨ op = 0x0A then (0x80, 0x80)
  else if op = 0x18 then (0xC2, 0x80)
  else if op = 0x1A then (0xC3, 0xA0)
  else if op = 0x20 ∨ op = 0x21 then (0xEB, 0xF0)
  else if op = 0x28 then (0xC3, 0xC0)
  else if op = 0x3F then (0x80, 0x80)
  else (0xC3, 0x80)

/-- SEL of a condition. -/
def Ccw.sel (c : Ccw) : Nat := fld c.mod_ 0 3

/-- Row 7: the flags of a CCW, or of a successor (R93, R122). -/
def flagsOk (c : Ccw) (succ : Bool) : Bool :=
  if succ then c.flagsA &&& (if c.op = 0x40 then 0x7C else 0x78) = c.flagsA
  else
    let m := flagMask c.op.toNat
    c.flagsA &&& m.1 = c.flagsA && c.flagsB &&& m.2 = c.flagsB && (c.op ≠ 0x21 || c.xf)

/-- Row 9: fields that must be zero (R80, R81, R97, R104). -/
def unusedOk (c : Ccw) (succ : Bool) : Bool :=
  let op := c.op.toNat
  let energy := (op = 0x09 ∨ op = 0x0A) ∧ c.sel = 3
  (succ || ((c.dl || c.deadline = 0) && (c.eb || energy || c.ebound = 0) && (c.xf || c.xdt = 0))) &&
  (if op = 0x09 then c.sel = 0 || c.count = 0
   else if op = 0x0A then c.count = 0 && (c.sel = 0 || c.addr = 0)
   else if op = 0x0B then c.count = 0 && c.param = 0 && c.mod_ = 0
   else if op = 0x10 ∨ op = 0x12 ∨ op = 0x18 ∨ op = 0x19 ∨ op = 0x3F then c.count = 0 && c.addr = 0 && c.mod_ = 0
   else if op = 0x11 then c.count = 0 && c.addr = 0
   else if op = 0x1A then c.param = 0
   else if op = 0x20 then succ || c.mod_ = 0
   else if op = 0x21 then succ || (c.param = 0 && c.mod_ = 0)
   else if op = 0x28 then c.mod_ = 0
   else if op = 0x30 then c.count = 0 && c.addr = 0 && c.param = 0 && c.mod_ = 0
   else if op = 0x40 then !c.skip || (c.addr = 0 && !c.idal)
   else if op = 0x42 then c.count ≠ 0 || c.addr = 0
   else true)

/-- Row 10 for commands without an adapter (R104, R91). -/
def modOk (c : Ccw) : Bool :=
  let op := c.op.toNat
  if op = 0x09 ∨ op = 0x0A then fld c.mod_ 3 3 = 0 && c.sel ≤ 3 && (c.sel = 0 || !bitAt c.mod_ 6)
  else if op = 0x11 ∨ op = 0x1A then fld c.mod_ 1 7 = 0
  else true

/-- Row 11: reserved PARAM bits (R91, R104). -/
def paramOk (c : Ccw) : Bool :=
  let op := c.op.toNat
  let p := c.param.toNat
  if op = 0x09 ∨ op = 0x0A then
    (if c.sel = 1 ∨ c.sel = 3 then p = 0 else if c.sel = 2 then p / 2 ^ 32 = 0 else true)
  else if op = 0x11 then p / 2 ^ 10 % 2 ^ 22 = 0
  else if op = 0x12 then p / 2 ^ 32 = 0
  else if op = 0x18 then p / 2 ^ 8 % 2 ^ 24 = 0
  else if op = 0x19 then p / 2 ^ 13 = 0 && p / 2 ^ 10 % 4 = 0
  else if op = 0x28 then p / 2 ^ 11 % 32 = 0 && p / 2 ^ 7 % 2 = 0
  else if op = 0x3F then p / 2 ^ 8 = 0
  else true

/-- Row 12: COUNT against the command's own range (R91, R92, R112). -/
def countErr (c : Ccw) : Option Word :=
  let op := c.op.toNat
  let n := c.count.toNat
  if (op = 0x1A ∨ op = 0x20 ∨ op = 0x21 ∨ op = 0x40 ∨ op = 0x41 ∨ op = 0x43) ∧ n = 0 then some 0x304
  else if op = 0x1A ∧ n ≠ (if bitAt c.mod_ 0 then 16 else 8) then some 0x305
  else if (op = 0x42 ∨ op = 0x43) ∧ 4096 < n then some 0x305
  else none

/-- Row 12: the SIGNAL target (R111). -/
def signalOk (c : Ccw) : Bool :=
  c.op ≠ 0x19 || (if bitAt c.param 12 then fld c.param 7 3 = 0 else decide (512 ≤ fld c.param 0 10))

/-- The output of the CCW's stream goes to memory or a device (R309). -/
def Ccw.stored (c : Ccw) : Bool := c.op ≠ 0x21 && !(c.op = 0x40 && c.skip)

/-- The first of a list of checks that fails, as its detail. -/
def firstErr : List (Bool × Word) → Option Word
  | [] => none
  | (ok, det) :: cs => if ok then firstErr cs else some det

/-- Rows 3 to 12 of R127 on a CCW as fetched, as the exception and its DEVSTAT; `c`: with a successor's operands from its head. -/
def Dev.validate (d : Dev) (i : Nat) (raw c : Ccw) (succ : Bool) : Option (Byte × Word) :=
  let s := d.scb i
  let dev := devOp c.op
  let head := !succ
  if !opDefined raw.op.toNat then some (xINVALID, raw.op.zeroExtend 32)
  else
    (firstErr [
      (!succ || raw.op = s.headOp, 0x500),
      (decide ((d.ctx i).ticRun < 16), 0x002),
      (succ || fld raw.flagsB 0 4 = 0, 0x100),
      (flagsOk raw succ, 0x101),
      (succ || fld raw.xdt 10 6 = 0, 0x306),
      (unusedOk raw succ, 0x308),
      (succ || dev || modOk raw, 0x303),
      (succ || !dev || adapterOp s.binding raw.op, 0x600),
      (succ || !dev || adapterMod s.binding raw, 0x601),
      (succ || paramOk raw, 0x302),
      (fld raw.addr 48 16 = 0, 0x300),
      (succ || raw.op ≠ 0x20 || fld raw.param 48 16 = 0, 0x301),
      (!(raw.op = 0x0B || raw.op = 0x09) || fld raw.addr 0 5 = 0, 0x001),
      (!((raw.op = 0x0A && raw.sel = 0) || raw.op = 0x1A) || fld raw.addr 0 3 = 0, 0x309),
      (!raw.idal || fld raw.addr 0 4 = 0, 0x400),
      ((countErr raw).isNone, (countErr raw).getD 0),
      (!dev || d.adapterCount s.binding c, 0x602),
      (!(head && dev) || d.adapterParam s.binding c, 0x602),
      (signalOk raw, 0x700),
      (!(head && raw.xf) || d.xdtValid (d.xdesc (fld raw.xdt 0 10)) raw.op s.binding (i / 256) raw.stored, 0x307)]).map
      fun det => (xPROGRAM, det)

/-- A successor's CCW with the operands it takes from its head (R122). -/
def Scb.withHead (s : Scb) (c : Ccw) : Ccw :=
  { c with mod_ := s.headMod, param := s.headParam, flagsB := BitVec.ofNat 8 (s.headFb.toNat * 16), xdt := s.headXdt,
           ebound := s.headEbound, deadline := 0 }

/-- A fetched CCW arrives: rows 3 to 12, SUSP, the deadline, the marks and the notice (steps 2 to 6 of R145). -/
def Dev.ccwArrives (d : Dev) (i : Nat) (bs : List Byte) : Dev :=
  let raw := parseCcw bs
  let s := d.scb i
  let x := d.ctx i
  let succ := x.succ && !(raw.op = 0x0B && !x.chainTic)
  let c := if succ then s.withHead raw else raw
  match d.validate i raw c succ with
  | some (code, det) => d.raiseExc i code det raw.count
  | none =>
    if succ then
      (d.setCtx i { x with phase := .ready, ccw := c, moved := 0, fed := 0, issuedTo := 0, area := {}, segs := [], hostWrote := none }).copyImage i
    else if raw.susp ∧ !x.resumed then
      (d.setCtx i { x with plan := [{ kind := 4, code := 0 }], after := some .suspended, resumed := false }).go i
    else if raw.dl ∧ reached d.now (dsTarget s.programT0 raw.deadline) then
      (d.setCtx i { x with resumed := false }).raiseExc i xDEADLINE 0 raw.count
    else if x.succ then d.setCtx i { x with phase := .ready, ccw := c }
    else
      let s := { s with ccwMark := d.acc i }
      let s := if raw.cd then
        { s with inChain := true, headFb := BitVec.ofNat 4 (fld raw.flagsB 4 4), headOp := raw.op, headMod := raw.mod_,
                 headXdt := raw.xdt, headEbound := raw.ebound, headParam := raw.param } else s
      let d := d.setScb i s
      let y : Ctx := { phase := .ready, ccw := raw, headA := raw.flagsA, ticRun := x.ticRun, row := x.row, waitSeq := x.waitSeq,
                       started := d.now }
      if raw.pcn then
        (d.setCtx i { y with plan := [{ kind := 3, code := 0, devstat := some 0 }], after := some .execute }).go i
      else d.setCtx i y

/-- The reply to a host window read of a subchannel: its bytes, or the exception it raises (R517). -/
def Dev.hostReply (d : Dev) (i : Nat) (r : HostReply) : Dev :=
  let x := d.ctx i
  match x.hostReq with
  | none => d
  | some (a, _) =>
    let d := (d.setCtx i { x with hostReq := none })
    let d := if r.status = .ok then d else d.dropBurst i
    let res := if x.phase = .flush then 0 else x.remaining
    match r.status with
    | .ok => if x.phase = .flush then d.ccwDone i else d.setCtx i { d.ctx i with hostGot := some (a, r.data) }
    | .poisoned =>
      let y := d.ctx i
      let src := x.phase = .running && y.ccw.op ≠ 0x40 && y.ccw.op ≠ 0x43 && (!y.ccw.idal || y.area.left ≠ 0)
      (if src then d.inputPoisoned i else d).raiseExc i xDATA 0 res true
    | _ => d.raiseExc i xADDRESS 0x8009 res true

/-- CCW_FETCH_COMPLETE (R145). -/
def Dev.fetchComplete (d : Dev) (n : Nat) (host : Option HostReply) : Dev :=
  match d.activeSub n with
  | none => d
  | some i =>
    if (d.ctx i).phase ≠ .fetching then d
    else
      let a := (d.scb i).ccwAddr.toNat
      if rangeOf a = .hostwin then
        match host with
        | none => d
        | some r =>
          match r.status with
          | .ok => d.ccwArrives i r.data
          | .poisoned => d.raiseExc i xDATA 0 0
          | _ => d.raiseExc i xADDRESS 0x8009 0
      else match d.reach (ceDom n) a with
        | (.fenced, d) => d.raiseExc i xENGINE 3 0
        | (.asleep, d) => d
        | (.ok, d) =>
          let r := d.memRead a 32
          let d := r.2.2.countAccess i (ceDom n) false a 32
          if r.2.1 then d.raiseExc i xDATA 0 0 else d.ccwArrives i r.1

end Sys2Proof.Machine
end

