-- ==== Sys2Proof/Machine/Control.lean ====
section
/-!
DEFINITION. The commands of a channel program that use no adapter and move no stream: control transfers, waits, posting and
signalling, CALL_SPOKE, NOP and END (R99–R112, R117–R120).
-/

namespace Sys2Proof.Machine

/-- The subchannel that is to execute a CCW of an OP on engine `n`. -/
def Dev.toExecute (d : Dev) (n : Nat) (op : Byte) : Option Nat :=
  match d.activeSub n with
  | some i => if (d.ctx i).phase = .ready ∧ (d.ctx i).ccw.op = op then some i else none
  | none => none

/-- A command acts on the subchannel that is to execute its OP, unless the engine is fenced or its domain sleeps. -/
def Dev.onOp (d : Dev) (n : Nat) (op : Byte) (f : Dev → Nat → Dev) : Dev :=
  match d.toExecute n op with
  | some i => if d.gate (ceDom n) = .ok then f d i else d
  | none => d

/-- The CCW goes to its completion, and the program on to an address. -/
def Dev.transferTo (d : Dev) (i : Nat) (a : Nat) (jump : Bool) : Dev :=
  let x := d.ctx i
  d.setCtx i { x with
    phase := .done
    nextAddr := BitVec.ofNat 48 a
    ticRun := if jump then x.ticRun + 1 else x.ticRun
    row := if jump then none else x.row
    chainTic := x.chainTic || x.succ }

/-- The condition word of a CCW (R104). -/
def Dev.condAddr (d : Dev) (i : Nat) : Nat :=
  let c := (d.ctx i).ccw
  if c.op = 0x09 then (BitVec.ofInt 48 ((d.scb i).ccwAddr.toNat + 8 * c.count.toInt)).toNat else c.addr.toNat

/-- A condition that needs its word, given the word (SEL 0). -/
def wordCond (c : Ccw) (w : Nat) : Bool :=
  let h := if bitAt c.mod_ 6 then w / 2 ^ 32 else w % 2 ^ 32
  (h ^^^ fld c.param 0 32) &&& fld c.param 32 32 = 0

/-- A condition that needs no word (SEL 1 to 3). -/
def Dev.selCond (d : Dev) (i : Nat) : Bool :=
  let c := (d.ctx i).ccw
  let s := d.scb i
  match c.sel with
  | 1 => s.residual ≠ 0
  | 2 => fld s.lastDevstat 0 32 &&& fld c.param 0 32 ≠ 0
  | _ => boundExceeded (d.chargeSince i s.startMark) c.ebound

/-- TIC_IF and SKIP_IF once their condition is known, NEG applied (R101, R104). -/
def Dev.condDone (d : Dev) (i : Nat) (b : Bool) : Dev :=
  let c := (d.ctx i).ccw
  let here := (d.scb i).ccwAddr.toNat
  if b != bitAt c.mod_ 7 then
    if c.op = 0x09 then d.transferTo i c.addr.toNat true else d.transferTo i (here + 64) false
  else d.transferTo i (here + 32) false

/-- TIC_IF and SKIP_IF (R101, R104, R105). -/
def Dev.condition (d : Dev) (i : Nat) : Dev :=
  let c := (d.ctx i).ccw
  if c.sel = 0 then
    match d.engRead i .cond (d.condAddr i) 8 with
    | .ok bs d => d.condDone i (wordCond c (leNat bs))
    | .stall d => d
    | .fail code det d => d.failAccess i code det
  else
    let d := if c.sel = 3 then d.foldTag i else d
    d.condDone i (d.selCond i)

/-- TIC_IF or SKIP_IF with what the host answers to its condition read, where that lies in the host window. -/
def Dev.conditionHost (d : Dev) (i : Nat) (host : Option HostReply) : Dev :=
  let d := d.condition i
  match host, (d.ctx i).hostReq with
  | some r, some _ =>
    let d := d.hostReply i r
    if (d.ctx i).hostGot.isSome then d.condition i else d
  | _, _ => d

/-- The CCW has been executed and goes to its completion. -/
def Dev.opDone (d : Dev) (i : Nat) : Dev := d.setCtx i { d.ctx i with phase := .done }

/-- A wait for a target time (R53, R55, R106). -/
def Dev.waitTime (d : Dev) (i : Nat) (target : DT) (c : Cause) (onReached : Dev → Dev) : Dev :=
  match d.wlInsert i { target := target, kind := .subch, id := i } with
  | (.reached, d) => onReached d
  | (.inserted, d) => (d.setCtx i { d.ctx i with phase := .running }).beginWait i c
  | (.refused, d) => d.raiseExc i xPROGRAM 0x200 (d.ctx i).ccw.count

/-- A WAIT_EVENT's timeout is reached (R109). -/
def Dev.eventTimeout (d : Dev) (i : Nat) : Dev :=
  if bitAt (d.ctx i).ccw.mod_ 0 then
    let d := d.setScb i { d.scb i with residual := 1, lastDevstat := 0 }
    if (d.scb i).state = .active then d.opDone i else d.waitDone i
  else d.raiseExc i xTIMEOUT 0 1

/-- WAIT_EVENT (R107–R109). -/
def Dev.waitEvent (d : Dev) (i : Nat) : Dev :=
  let n := i / 256
  let c := (d.ctx i).ccw
  let e := fld c.param 0 10
  let v := smGet (d.eng n).arr e 0
  if v % 256 ≠ 0 then
    let d := d.setEng n { d.eng n with arr := smSet (d.eng n).arr e (v - 1) 0 }
    (d.setScb i { d.scb i with residual := 0, lastDevstat := 0 }).opDone i
  else if fld c.param 32 32 = 0 then (d.setCtx i { d.ctx i with phase := .running }).beginWait i .event
  else d.waitTime i (dsTarget (d.ctx i).started (w32 (fld c.param 32 32))) .event fun d => d.eventTimeout i

/-- POST (R110). -/
def Dev.postOp (d : Dev) (i : Nat) : Dev :=
  let c := (d.ctx i).ccw
  (d.setCtx i { d.ctx i with
    plan := [{ kind := 1, code := BitVec.ofNat 8 (fld c.param 0 8), devstat := some (w32 (fld c.param 32 32)) }]
    after := some .complete }).go i

/-- SIGNAL (R111, R381). -/
def Dev.signalOp (d : Dev) (i : Nat) : Dev :=
  let c := (d.ctx i).ccw
  (if bitAt c.param 12 then d.doorbell (fld c.param 0 7) else d.raiseEvent (fld c.param 0 10)).opDone i

/-- STORE_TIME (R112): one sample, written as one write. -/
def Dev.storeTimeOp (d : Dev) (i : Nat) : Dev :=
  let c := (d.ctx i).ccw
  let v := d.now
  let bs := leBytes 8 v.toNat ++ (if bitAt c.mod_ 0 then leBytes 8 (v + d.pacer.hostOfs).toNat else [])
  match d.engWriteAll i (d.useRow c.addr.toNat) c.addr.toNat bs with
  | .ok _ d => ((d.sample i).2).dataDone i
  | .stall d => d
  | .fail code det d => ((d.sample i).2).failAccess i code det

/-- The 16 bytes a CALL_SPOKE posts (R117). -/
def spokeMsg (c : Ccw) (i : Nat) : List Byte :=
  leBytes 8 c.addr.toNat ++ leBytes 4 c.count.toNat ++ leBytes 2 i ++ leBytes 2 (fld c.param 16 16)

/-- CALL_SPOKE (R117, R118). -/
def Dev.callSpokeOp (d : Dev) (i : Nat) : Dev :=
  let c := (d.ctx i).ccw
  let m := fld c.param 0 7
  match d.knock (commonDom (m / 16)) with
  | (.asleep, d) => d
  | (_, d) =>
    match d.mboxPost i (ceAgent (i / 256)) m (fld c.param 8 3) (spokeMsg c i) true with
    | (.accepted, e) =>
      let e := e.setCtx i { e.ctx i with spoke := some m }
      if fld c.param 32 32 = 0 then (e.setCtx i { e.ctx i with phase := .running }).beginWait i .spoke
      else
        let t := dsTarget (d.ctx i).started (w32 (fld c.param 32 32))
        if !reached d.now t ∧ wlCapacity ≤ d.wl.length then
          (d.bump pgPCR 0x078 1 0x084 1).raiseExc i xPROGRAM 0x200 c.count
        else e.waitTime i t .spoke fun d => d.raiseExc i xTIMEOUT 0 c.count
    | (_, e) => e.raiseExc i xDEVICE 1 c.count

/-- A reply word reaches the engine of a caller (R118, R165, R380). -/
def Dev.spokeReply (d : Dev) (m sender sub : Nat) (w : Word) : Dev :=
  let i := sub % 4096
  let s := d.scb i
  if s.state = .waiting ∧ s.cause = .spoke ∧ (d.ctx i).spoke = some m ∧ sender = ceAgent (i / 256) then
    let d := d.wlRemove i .subch i
    let d := d.setCtx i { d.ctx i with spoke := none }
    if bitAt w 31 then d.raiseExc i xDEVICE w 0
    else (d.setScb i { d.scb i with residual := 0, lastDevstat := w }).waitDone i
  else d.bump (pgCE + (sender - ceAgent 0) % 16) 0x068 1 0x074 1

/-- A mailbox with a waiting caller delivers a word and is freed (R379, R380). -/
def Dev.mboxAnswer (d : Dev) (m : Nat) (w : Word) : Dev :=
  let b := d.mbox m
  if !b.full then d
  else
    let e := d.mboxFree m
    if b.call then e.spokeReply m b.sender (leNat ((b.msg.drop 12).take 2)) w else e

/-- RELEASE (R379, R380). -/
def Dev.mboxRelease (d : Dev) (m : Nat) : Dev := d.mboxAnswer m m32

/-- REPLY (R380). -/
def Dev.mboxReply (d : Dev) (m : Nat) : Dev := d.mboxAnswer m (d.mbox m).reply

/-- A subchannel's wake list entry has expired (R52, R106, R109, R118). -/
def Dev.subExpiry (d : Dev) (i : Nat) : Dev :=
  let s := d.scb i
  if s.state ≠ .waiting then d
  else match s.cause with
    | .time => d.waitDone i
    | .event => d.eventTimeout i
    | .spoke => (d.setCtx i { d.ctx i with spoke := none }).raiseExc i xTIMEOUT 0 (d.ctx i).ccw.count
    | _ => d

end Sys2Proof.Machine
end

