-- ==== Sys2Proof/Machine/DataPath.lean ====
section
/-!
DEFINITION. MOVE, DIGEST and the transform streams on the engine path: allocation, beats, the end of a stream and its loss
(R113–R116, R294–R298, R309–R312, R568).
-/

namespace Sys2Proof.Machine

/-! ### Streams of a subchannel -/

/-- A stream is ended from outside: its result block is written at once and its CCW ends with DATA_CHECK (R312, R568). -/
def Dev.loseStream (d : Dev) (err stage i : Nat) : Dev :=
  match d.stream i with
  | none => d
  | some s =>
    let d := d.streamFail i s err stage
    let x := d.ctx i
    let taken := s.inp.length - x.chainMoved
    d.raiseExc i xDATA 0 (x.ccw.count - w32 taken)

/-- A waiting stream whose turn it is takes its engines, or fails R300 (R297, R298). -/
def Dev.grantStream (d : Dev) (i : Nat) : Dev :=
  let x := d.ctx i
  let c := x.ccw
  if d.xdtValid (d.xdesc (fld c.xdt 0 10)) c.op (d.scb i).binding (i / 256) c.stored then
    let d := d.takeStream i c.stored
    match (d.stream i).bind Stream.badSha with
    | some j => d.loseStream 0x0A j i
    | none => if (d.scb i).state = .active then d else (d.setCtx i { d.ctx i with phase := .ready }).setSub i .pending .none
  else
    let d := { d with streamWait := d.streamWait.filter fun w => w.sub ≠ i }
    d.raiseExc i xPROGRAM 0x307 c.count

/-- Waiting streams are served while one can be and the table of domain 151 answers (R297, R318). -/
def Dev.allocStreams (d : Dev) : Nat → Dev
  | 0 => d
  | n + 1 =>
    if d.gate 151 ≠ .ok then (d.knock 151).2 else
    let bad := d.streamWait.find? fun w =>
      let c := (d.ctx w.sub).ccw
      !d.descBusy (fld c.xdt 0 10) &&
        !d.xdtValid (d.xdesc (fld c.xdt 0 10)) c.op (d.scb w.sub).binding (w.sub / 256) c.stored
    match bad with
    | some w => (d.grantStream w.sub).allocStreams n
    | none =>
      match grantable d [] d.streamWait with
      | [] => d
      | w :: _ => (d.grantStream w.sub).allocStreams n

/-- The head CCW of a stream asks for its descriptor and engines (R296). -/
def Dev.askStream (d : Dev) (i : Nat) : Dev :=
  let r := d.nextSeq
  let d := r.2
  let d := { d with streamWait := insertWait { sub := i, cls := (d.scb i).cls.toNat, seq := r.1 } d.streamWait }
  let d := d.allocStreams (d.streamWait.length + 1)
  if d.streamWait.any fun w => w.sub = i then d.beginWait i .device else d

/-- What the stream of a subchannel made of some bytes. -/
inductive Feed where
  /-- Output for the destination. -/
  | out (bs : List Byte) (d : Dev)
  /-- Output up to the error, which ends the CCW with DATA_CHECK. -/
  | bad (bs : List Byte) (d : Dev)
  | stall (d : Dev)

/-- What keeps the stream of a subchannel from taking data is woken; none where it can take them. -/
def Dev.streamWaits (d : Dev) (i : Nat) : Option Dev :=
  match d.stream i with
  | none => none
  | some s =>
    if d.gate 151 ≠ .ok then some (d.knock 151).2
    else if !d.streamReady s then some (s.engs.foldl (fun d e => d.demandWake (engDom (e / 16) (e % 16))) d)
    else none

/-- Bytes enter the stream of a subchannel. -/
def Dev.feedStream (d : Dev) (i : Nat) (bs : List Byte) (final : Bool) : Feed :=
  match d.stream i, d.streamWaits i with
  | none, _ => .bad [] d
  | some _, some e => .stall e
  | some s, none =>
    match d.streamFeed i s bs final with
    | (out, none, d) => .out out d
    | (out, some _, d) => .bad out d

/-- The last output of a stream is in place: it completes, once its result area answers (R311, R312). Answers whether its CCW goes
on. -/
def Dev.endStream (d : Dev) (i : Nat) : Bool × Dev :=
  match d.stream i with
  | none => (true, d)
  | some s =>
    let k := addrDom (dResult s.desc)
    if !s.ended then (true, d)
    else if d.isFenced k then (false, d.failAccess i xENGINE 3)
    else if d.gate k ≠ .ok then (false, (d.knock k).2)
    else (true, d.streamComplete i s)

/-- The streams that an engine of a set serves end with ENGINE_LOST (R317). -/
def Dev.enginesLost (d : Dev) (f : Nat → Bool) : Dev :=
  (d.streams.filter fun e => e.2.engs.any f).foldl (fun d e => d.loseStream 9 (e.2.stageOf f) e.1) d

/-! ### MOVE and DIGEST -/

/-- A CCW ends its stream with its last byte: it is no inner CCW of a data chain. -/
def Ctx.lastCcw (x : Ctx) : Bool := !x.ccw.cd

/-- Two address ranges share a byte, alias bits apart. -/
def rangesMeet (a n b m : Nat) : Bool :=
  let a := plainAddr a
  let b := plainAddr b
  decide (a < b + m ∧ b < a + n)

/-- A MOVE or DIGEST starts at the first byte of its source, downward where R114 asks for it. -/
def Dev.moveOpen (d : Dev) (i : Nat) : Dev :=
  let x := d.ctx i
  let c := x.ccw
  let src := c.addr.toNat
  let dst := c.param.toNat
  let n := c.count.toNat
  let back := c.op = 0x20 && !c.xf && !c.idal && decide (plainAddr src < plainAddr dst ∧ plainAddr dst < plainAddr src + n) &&
    d.useRow src = d.useRow (src + n - 1) && d.useRow dst = d.useRow (dst + n - 1)
  (d.setCtx i { x with phase := .running, moved := 0, dest := dst, backward := back
                       destRow := if x.succ then x.destRow else d.useRow dst }).openArea i

/-- A MOVE or DIGEST begins, or goes on after its stream has been granted. -/
def Dev.moveStart (d : Dev) (i : Nat) : Dev :=
  let x := d.ctx i
  if x.ccw.xf ∧ (d.stream i).isNone then
    if x.succ then d.raiseExc i xDATA 0 x.ccw.count
    else
      let d := d.askStream i
      if (d.scb i).state = .active ∧ (d.ctx i).phase = .ready ∧ (d.stream i).isSome then d.moveOpen i else d
  else d.moveOpen i

/-- Where a MOVE's next destination byte is kept during a chain (HEAD_PARAM). -/
def Dev.noteDest (d : Dev) (i : Nat) : Dev :=
  let s := d.scb i
  if s.inChain ∧ (d.ctx i).ccw.op = 0x20 then d.setScb i { s with headParam := BitVec.ofNat 64 (d.ctx i).dest } else d

/-- After a beat: the CCW is done when COUNT is consumed. -/
def Dev.moveCheck (d : Dev) (i : Nat) : Dev :=
  let x := d.ctx i
  if x.moved = x.ccw.count.toNat then
    match d.endStream i with
    | (true, d) => (if x.backward then d.setCtx i { x with dest := x.dest + x.moved } else d).noteDest i |>.dataDone i
    | (false, d) => d
  else d

/-- One beat of an overlapping linear copy that runs downward (R114). -/
def Dev.moveBack (d : Dev) (i : Nat) : Dev :=
  let x := d.ctx i
  let tail := x.area.addr + x.area.left
  let dtail := x.dest + x.area.left
  let n := min x.area.left (min ((tail - 1) % 32 + 1) ((dtail - 1) % 32 + 1))
  if (d.useErr (i / 256) .data true (dtail - n)).isNone ∧ d.sleeping (ceDom (i / 256)) (dtail - n) ≠ [] then (d.sleeping (ceDom (i / 256)) (dtail - n)).foldl Dev.demandWake d
  else match d.engRead i .data (tail - n) n with
    | .ok bs d =>
      match d.engWrite i .data (dtail - n) bs with
      | .ok _ d =>
        let x := d.ctx i
        (d.setCtx i { x with area := { x.area with left := x.area.left - n }, moved := x.moved + n }).moveCheck i
      | .stall d => d
      | .fail code det d => d.failAccess i code det
    | .stall d => d
    | .fail code det d => d.failAccess i code det

/-- One beat without transforms. -/
def Dev.movePlain (d : Dev) (i : Nat) : Dev :=
  let x := d.ctx i
  let n := beatLen x.dest 32
  if d.useRow x.dest ≠ x.destRow then d.failAccess i xADDRESS 0x8008
  else if (d.useErr (i / 256) .data true x.dest).isNone ∧ d.sleeping (ceDom (i / 256)) x.dest ≠ [] then (d.sleeping (ceDom (i / 256)) x.dest).foldl Dev.demandWake d
  else match d.readArea i n with
    | .ok bs e =>
      match e.engWrite i .data x.dest bs with
      | .ok _ e =>
        let x := e.ctx i
        (e.setCtx i { x with dest := x.dest + bs.length, moved := x.moved + bs.length }).moveCheck i
      | .stall _ => d
      | .fail code det e => e.failAccess i code det
    | .stall d => d
    | .fail code det d => d.failAccess i code det

/-- The capacity of a stream's descriptor, and where its output began. -/
def Dev.outRange (d : Dev) (i : Nat) : Nat × Nat :=
  match d.stream i with
  | some s => ((d.ctx i).dest - s.out, dCapacity s.desc)
  | none => (0, 0)

/-- One beat through transforms; for DIGEST the output is dropped. -/
def Dev.moveXf (d : Dev) (i : Nat) : Dev :=
  let x := d.ctx i
  let isMove := x.ccw.op = 0x20
  if isMove ∧ rangesMeet x.area.addr x.area.left (d.outRange i).1 (d.outRange i).2 then
    d.raiseExc i xPROGRAM 0x30A x.remaining
  else match d.readArea i 32 with
    | .stall d => d
    | .fail code det d => d.failSource i code det
    | .ok bs e =>
      match e.feedStream i bs (x.lastCcw && x.moved + bs.length = x.ccw.count.toNat) with
      | .stall e' =>
        -- the beat is made again once the engines or the result area are awake
        { d with doms := e'.doms }
      | .bad out e =>
        if isMove then match e.engWriteAll i x.destRow x.dest out with
          | .ok _ e => e.raiseExc i xDATA 0 x.remaining
          | .stall e' => { d with doms := e'.doms }
          | .fail _ _ e => e.raiseExc i xDATA 0 x.remaining
        else e.raiseExc i xDATA 0 x.remaining
      | .out out e =>
        if isMove then
          match e.engWriteAll i x.destRow x.dest out with
          | .ok _ e =>
            let x := e.ctx i
            (e.setCtx i { x with dest := x.dest + out.length, moved := x.moved + bs.length }).moveCheck i
          | .stall e' => { d with doms := e'.doms }
          | .fail code det e => e.failAccess i code det
        else
          let x := e.ctx i
          (e.setCtx i { x with moved := x.moved + bs.length }).moveCheck i

/-- One beat of a MOVE or DIGEST. -/
def Dev.moveBeat (d : Dev) (i : Nat) : Dev :=
  let x := d.ctx i
  if x.hostReq.isSome then d
  else if x.moved = x.ccw.count.toNat then d.moveCheck i
  else match d.loadArea i x.moved with
    | .stall d => d
    | .fail code det d => d.failAccess i code det
    | .ok _ d =>
      let c := x.ccw
      if c.xf ∧ (d.stream i).isNone then d.raiseExc i xDATA 0 x.remaining
      else if c.xf then d.moveXf i
      else if x.backward then d.moveBack i
      else if c.op = 0x20 then d.movePlain i
      else d

/-- Beats of the MOVE or DIGEST of a subchannel, while it runs. -/
def Dev.moveBeats (d : Dev) (i : Nat) : Nat → Dev
  | 0 => d
  | n + 1 =>
    let x := d.ctx i
    if (d.scb i).state = .active ∧ x.phase = .running ∧ (x.ccw.op = 0x20 ∨ x.ccw.op = 0x21) then
      (d.moveBeat i).moveBeats i n
    else d

end Sys2Proof.Machine
end

