-- ==== Sys2Proof/Machine/AdapterIo.lean ====
section
/-!
DEFINITION. What every adapter shares: slots and the order of operations on a port (R142, R143, R175), the beats between
memory and a device, the retirement of operations in byte order, and how a device command ends (R149, R150, R176–R180).
-/

namespace Sys2Proof.Machine

/-! ### Operations and slots -/

/-- A slot for the next operation of a subchannel, if it may take one (R142, R143). -/
def Dev.askSlot (d : Dev) (i : Nat) : Option Nat :=
  match (d.ctx i).granted with
  | some s => some s
  | none => if 8 ≤ (d.ctx i).opsHeld then none else d.freeSlot (i / 256)

/-- An operation is issued in a slot. -/
def Dev.issueOp (d : Dev) (i slot start len : Nat) (cid : BitVec 16) (entry : List Byte) (res : Option OpRes) : Dev :=
  let r := d.nextSeq
  let d := r.2
  let x := d.ctx i
  let op : DevOp := { id := r.1, slot := slot, cid := cid, entry := entry, start := start, len := len, issued := d.now, res := res }
  (d.setCtx i { x with ops := x.ops ++ [op], granted := none }).noteSlots (i / 256)

/-- The one operation of a CCW is issued, or the subchannel waits for a slot. -/
def Dev.issueOne (d : Dev) (i : Nat) (res : Option OpRes) : Dev :=
  match d.askSlot i with
  | none => d.beginWait i .slot
  | some s => d.issueOp i s 0 (d.ctx i).ccw.count.toNat 0 [] res

/-! ### Ports -/

/-- `n` serial bytes cross a port for a tag (R57). -/
def Dev.countSerial (d : Dev) (tag n : Nat) : Dev := d.count 3 0 tag n

/-- The READ that is active on UART `u`. -/
def Dev.uartReader (d : Dev) (u : Nat) : Option Nat :=
  (d.ctxs.find? fun e => bKind (d.scb e.1).binding = 5 && bPort (d.scb e.1).binding = u && e.2.ccw.op = opREAD &&
    d.served e.1).map (·.1)

/-- DEVSTAT CODE and DETAIL, without the kind. -/
def statCode (code detail : Nat) : Word := w32 (fput 16 12 code + fput 0 16 detail)

/-- A mark at the front of the receive buffer ends the READ that reaches it with bytes of its COUNT still to come (R208, R209,
R214). -/
def Dev.uartCheck (d : Dev) (u : Nat) : Dev :=
  let v := d.uart u
  let code : Option Nat := match v.rx with
    | .framing :: _ => some 7
    | .brk :: _ => some 7
    | .parity :: _ => some 8
    | .lost :: _ => some 9
    | _ => none
  match code, d.uartReader u with
  | some c, some i =>
    let x := d.ctx i
    if x.burst = 0 ∧ x.data.isEmpty ∧ (x.frontOp.bind (·.res)).isNone ∧ (x.moved < x.ccw.count.toNat ∨ x.ccw.cd) then
      (d.setUart u { v with rx := v.rx.drop 1 }).setOpRes i { status := statCode c 0 }
    else d
  | _, _ => d

/-- Bytes that the front of a receive buffer offers. -/
def leadBytes : List RxItem → List Byte
  | .byte b :: xs => b :: leadBytes xs
  | _ => []

/-- Bytes a receive buffer holds (UAR.STAT.RX_OCC). -/
def Uart.occ (v : Uart) : Nat := (v.rx.filter fun x => match x with
  | .byte _ => true
  | _ => false).length

/-- A byte enters the receive buffer of a UART, or is lost (R208). -/
def Dev.uartStore (d : Dev) (u : Nat) (b : Byte) : Dev :=
  let v := d.uart u
  if 256 ≤ v.occ then
    let d := d.bump pgUAR (0x100 + 0x40 * u + 0x18) 1 (0x100 + 0x40 * u + 0x30) 2
    let v := d.uart u
    if v.rx.getLast? = some .lost then d else d.setUart u { v with rx := v.rx ++ [.lost] }
  else d.setUart u { v with rx := v.rx ++ [.byte b] }

/-- A good character reaches the receiver of UART `u`: the FIFO it produces for, or its buffer (R208, R214, R280). -/
def Dev.uartReceive (d : Dev) (u : Nat) (b : Byte) : Dev :=
  let c := d.reg pgUAR (0x100 + 0x40 * u)
  let b := if fld c 0 2 = 1 then b &&& 0x7F else b
  let d := (d.wideAdd pgUAR (0x100 + 0x40 * u + 0x20) 1).countSerial (regionTag 3) 1
  let d := d.setUart u { d.uart u with lastRx := d.now, since := d.now }
  match d.producerFifo 1 u with
  | some f => (d.fifoByte f b).fifoDeferred f
  | none => (d.uartStore u b).uartCheck u

/-- The time of `n` bits on UART `u` (R214). -/
def Dev.uartBits (d : Dev) (u n : Nat) : Nat := n * d.rf pgUAR (0x104 + 0x40 * u) 0 20 * 2 ^ 32 / (16 * 400000000)

/-- Bits of one character of UART `u`: start, data, parity and stop bits (R214). -/
def Dev.uartCharBits (d : Dev) (u : Nat) : Nat :=
  let c := d.reg pgUAR (0x100 + 0x40 * u)
  1 + (if fld c 0 2 = 1 then 7 else 8) + (if fld c 2 2 = 0 then 0 else 1) + (if bitAt c 4 then 2 else 1)

/-- `n` characters enter the transmit buffer of UART `u`: they leave the pin one after another (R207). -/
def Dev.uartQueue (d : Dev) (u n : Nat) : Dev :=
  let v := d.uart u
  let from_ := max d.now.toNat (max v.txEnd.toNat v.txHold.toNat)
  d.setUart u { v with txEnd := BitVec.ofNat 64 (from_ + n * d.uartBits u (d.uartCharBits u)) }

/-- Bytes that leave through a port (R207, R214): counters, and a looped UART receives them. -/
def Dev.portSend (d : Dev) (i : Nat) (bs : List Byte) : Dev :=
  let b := (d.scb i).binding
  let d := d.countSerial i bs.length
  match bKind b with
  | 4 => d.wideAdd pgSPI (0x100 + 0x40 * bPort b + 0x20) bs.length
  | 5 =>
    let o := 0x100 + 0x40 * bPort b
    let d := (d.wideAdd pgUAR (o + 0x28) bs.length).uartQueue (bPort b) bs.length
    if bitAt (d.reg pgUAR o) 5 then bs.foldl (fun d x => d.uartReceive (bPort b) x) d else d
  | _ => d

/-- A receive flush of a UART takes effect where no burst is held (R179, R207). -/
def Dev.uartFlush (d : Dev) (u : Nat) : Dev :=
  let v := d.uart u
  if v.reserved = 0 then d.setUart u { v with rx := [], flushPend := false }
  else (d.setUart u { v with flushPend := true }).lateWd pgUAR

/-- At most `n` bytes of the burst that a receiving port holds for a subchannel, `DATA_CHECK` on a BAD stage (R178, R285). -/
def Dev.portTake (d : Dev) (i n : Nat) : List Byte × Bool × Dev :=
  let b := (d.scb i).binding
  match bKind b with
  | 5 =>
    let u := bPort b
    let v := d.uart u
    let k := min n v.reserved
    let bs := (leadBytes v.rx).take k
    let d := d.setUart u { v with rx := v.rx.drop k, reserved := v.reserved - k }
    (bs, false, d)
  | 7 =>
    let f := bQueue b
    let lim := (d.ctx i).burst
    match (d.fifo f).chain with
    | [] => ([], false, d)
    | s :: rest =>
      if lim < s.data.length ∧ !s.bad ∧ s.err = 0 then
        (s.data.take lim, false, d.setFifo f { d.fifo f with chain := { s with data := s.data.drop lim } :: rest, reserved := 0, begun := true })
      else
        match d.fifoTake f i with
        | (none, d) => ([], false, d)
        | (some s, d) =>
          let d := d.setFifo f { d.fifo f with reserved := (d.fifo f).reserved - 1 }
          if s.bad then
            let d := d.setFifo f { d.fifo f with reserved := 0 }
            ([], true, if s.eop then d else d.fifoDropNow f)
          else
            let d := if s.eop then d.setOpRes i {} else d
            (s.data, false, d)
  | _ =>
    let x := d.ctx i
    let bs := x.data.take (min n x.burst)
    let d := d.setCtx i { x with data := x.data.drop bs.length }
    (bs, false, if bKind b = 4 then d.wideAdd pgSPI (0x100 + 0x40 * bPort b + 0x28) bs.length else d)

/-- A burst has moved: what waited for it takes effect. -/
def Dev.burstDone (d : Dev) (i : Nat) : Dev :=
  let b := (d.scb i).binding
  let d := d.burstEnds b
  if bKind b = 5 then d.uartCheck (bPort b) else d

/-! ### Beats -/

/-- All bytes of a CCW that can move have moved, on the memory side. -/
def Ctx.allFed (x : Ctx) : Bool := x.ccw.count.toNat ≤ x.fed

/-- The CCW in execution consumes the last byte of its chain once `n` more have moved. -/
def Ctx.endsAt (x : Ctx) (n : Nat) : Bool := x.lastCcw && x.moved + n = x.ccw.count.toNat

/-- A failed access to the destination: what waited for it is dropped, and the residual counts what was stored (R170, R171). -/
def Dev.failSink (d : Dev) (i : Nat) (code : Byte) (det : Word) : Dev :=
  let x := d.ctx i
  let r := x.ccw.count - w32 (x.moved - (if x.ccw.xf then 0 else x.outq.length))
  ((d.setCtx i { x with outq := [], data := [], hole := 0, counting := false }).dropBurst i).raiseExc i code det r

/-- One beat of output or of passed-over bytes into the data areas. -/
def Dev.sinkStore (d : Dev) (i : Nat) : Dev :=
  match d.loadArea i (d.ctx i).stored with
  | .stall d => d
  | .fail code det d => d.failSink i code det
  | .ok _ d =>
    let x := d.ctx i
    if x.hole ≠ 0 then
      let n := min x.hole x.area.left
      d.setCtx i { x with hole := x.hole - n, stored := x.stored + n, area := { x.area with addr := x.area.addr + n, left := x.area.left - n } }
    else
      match d.writeArea i (x.outq.take 32) with
      | .stall d => d
      | .fail code det d => d.failSink i code det
      | .ok rest d =>
        let y := d.ctx i
        d.setCtx i { y with outq := rest ++ x.outq.drop 32, stored := x.stored + ((x.outq.take 32).length - rest.length) }

/-- Bytes taken from a device go to the areas, through the stream, or nowhere (R97, R152, R294). -/
def Dev.sinkTake (d : Dev) (i : Nat) (bs : List Byte) : Dev :=
  let x := d.ctx i
  let n := if x.counting then bs.length else 0
  if x.ccw.xf then
    if !x.counting then d
    else match d.feedStream i bs (x.endsAt bs.length) with
      | .stall e => { d with doms := e.doms }
      | .bad out d =>
        let x := d.ctx i
        d.setCtx i { x with outq := if x.ccw.skip then [] else out, outErr := true }
      | .out out d =>
        let x := d.ctx i
        d.setCtx i { x with moved := x.moved + n, outq := if x.ccw.skip then [] else out }
  else d.setCtx i { x with moved := x.moved + n, outq := if x.ccw.skip then [] else bs }

/-- One beat of a command that takes data from its device. Where an exception has ended its stream, what the device still brings is
passed to no stage and is not written (R568). -/
def Dev.sinkBeat (d : Dev) (i : Nat) : Dev :=
  let x := d.ctx i
  let lost := x.ccw.xf && x.exc.isSome
  if lost ∧ !x.outq.isEmpty then d.setCtx i { x with outq := [] }
  else if x.hole ≠ 0 ∨ !x.outq.isEmpty then d.sinkStore i
  else if x.outErr ∧ !lost then d
  else if x.burst ≠ 0 then
    if x.ccw.xf ∧ !lost ∧ (d.streamWaits i).isSome then (d.streamWaits i).getD d
    else if !x.ccw.xf ∧ !x.ccw.skip ∧ x.area.left ≠ 0 ∧ (d.reach (ceDom (i / 256)) x.area.addr).1 = .asleep then
      -- the burst waits on the memory it is for, and stays reserved (R25, R179)
      (d.reach (ceDom (i / 256)) x.area.addr).2
    else
      let r := d.portTake i 32
      let e := r.2.2
      let y := e.ctx i
      let left := if r.2.1 then 0 else y.burst - r.1.length
      let e := e.setCtx i { y with burst := left }
      let e := if r.2.1 then e.failSource i xDATA 0 else if r.1.isEmpty ∨ lost then e else e.sinkTake i r.1
      if left = 0 then e.burstDone i else e
  else if !x.data.isEmpty then
    let n := min 32 x.data.length
    let e := (d.setCtx i { x with data := x.data.drop n }).sinkTake i (x.data.take n)
    if (e.ctx i).moved = x.moved ∧ (e.ctx i).outq.isEmpty ∧ x.ccw.xf ∧ x.counting ∧ !(e.ctx i).outErr then
      { d with doms := e.doms }
    else e
  else d

/-- One beat of at most `lim` bytes read from the areas of a command that gives data to its device, through its stream, into
the engine's buffer. -/
def Dev.sourceBeat (d : Dev) (i lim : Nat) : Dev :=
  let x := d.ctx i
  match d.loadArea i x.fed with
  | .stall d => d
  | .fail code det d => d.failAccess i code det
  | .ok _ d =>
    match d.readArea i lim with
    | .stall d => d
    | .fail code det d => d.failSource i code det
    | .ok bs e =>
      if x.ccw.xf then
        match e.feedStream i bs (x.lastCcw && x.fed + bs.length = x.ccw.count.toNat) with
        | .stall e' => { d with doms := e'.doms }
        | .bad _ e => e.raiseExc i xDATA 0 (x.ccw.count - w32 x.fed)
        | .out out e =>
          let y := e.ctx i
          e.setCtx i { y with fed := y.fed + bs.length, data := y.data ++ out }
      else
        let y := e.ctx i
        e.setCtx i { y with fed := y.fed + bs.length, data := y.data ++ bs }

/-- The port of a paced binding is in use (CFG.EN, CTRL.EN; R214, R215, R217, R291). -/
def Dev.portOn (d : Dev) (b : Word) : Bool :=
  match bKind b with
  | 3 => d.rb pgI3C (0x100 + 0x80 * bI3c b) 31
  | 4 => d.rb pgSPI (0x100 + 0x40 * bPort b) 31
  | 5 => d.rb pgUAR (0x100 + 0x40 * bPort b) 31
  | 7 => bitAt (d.fifoCfg (bQueue b)) 31
  | _ => true

/-- One beat to a paced port that has reserved a burst; a port out of use takes none. -/
def Dev.pacedBeat (d : Dev) (i : Nat) : Dev :=
  let x := d.ctx i
  if !d.portOn (d.scb i).binding then d
  else if !x.data.isEmpty then
    let bs := x.data.take (min 32 x.burst)
    let d := d.setCtx i { x with data := x.data.drop bs.length, burst := x.burst - bs.length
                                 moved := if x.ccw.xf then x.moved else x.moved + bs.length }
    (if x.burst = bs.length then d.burstDone i else d).portSend i bs
  else if x.allFed ∨ (x.ccw.xf ∧ x.exc.isSome) then (d.setCtx i { x with burst := 0 }).burstDone i
  else
    let d := d.sourceBeat i (if x.ccw.xf then 32 else min 32 x.burst)
    let y := d.ctx i
    if x.ccw.xf then d.setCtx i { y with moved := y.fed } else d

/-! ### Retirement and the end of a device command -/

/-- DEVSTAT of a device command's end. -/
def Dev.statOf (d : Dev) (i : Nat) (st : Word) : Word := withFld st 28 4 (bKind (d.scb i).binding)

/-- A device command that consists of several operations (R174). -/
def multiOp (b : Word) : Bool := bKind b = 1 || bKind b = 2

/-- The outcome of the oldest operation is applied, in byte order (R176, R177). A message that is longer than the CCW's COUNT goes on
into the CCW that follows in the chain (R212). -/
def Dev.retireOp (d : Dev) (i : Nat) (o : DevOp) (r : OpRes) : Dev :=
  let b := (d.scb i).binding
  let x := d.ctx i
  let d := d.setCtx i { x with ops := x.ops.drop 1 }
  let y := d.ctx i
  if r.poison ∨ fld r.status 16 12 ≠ 0 then
    let d := d.setCtx i { y with counting := false, hole := if multiOp b ∧ y.ccw.sink ∧ !y.ccw.skip ∧ !y.ccw.xf ∧ bKind b = 2 then y.hole + o.len else y.hole }
    -- what has been staged was taken from the device (R177)
    let d := if y.ccw.sink ∧ y.ccw.xf ∧ bKind b = 1 then d.setCtx i { d.ctx i with moved := max y.moved y.stage } else d
    let y := { y with moved := (d.ctx i).moved }
    if !y.counting ∨ y.exc.isSome then d
    else if r.poison then (if y.ccw.sink then d.failSource i xDATA 0 else d.failAccess i xDATA 0)
    else d.raiseExc i xDEVICE (d.statOf i r.status) y.remaining true
  else if multiOp b then
    if bKind b = 2 ∧ y.ccw.sink then d.setCtx i { y with data := r.data }
    else if y.ccw.sink ∧ y.ccw.xf then d.setCtx i { y with stage := if y.counting then y.stage + o.len else y.stage }
    else d.setCtx i { y with moved := if y.counting then y.moved + o.len else y.moved }
  else
    let n := y.ccw.count.toNat - y.moved
    if bKind b = 8 ∧ y.ccw.cd ∧ n < r.data.length then d.setCtx i { y with data := r.data.take n, rest := r.data.drop n }
    else
    let moved := if y.ccw.op = opCONTROL then y.fed
      else if bKind b = 8 ∧ y.ccw.op = opWRITE then min y.fed (16 - y.chainMoved) else y.moved
    d.setCtx i { y with devEnd := some (r.status, r.long), data := r.data.take n, moved := moved }

/-- The device command has ended with its data in place: its length is judged, but for NVMe (R187). It is short where bytes of the
CCW are left, or where the CCW is not the last of its chain (R149, R150, R176). -/
def Dev.judge (d : Dev) (i : Nat) : Dev :=
  let x := d.ctx i
  let e := x.devEnd.getD (0, false)
  let st := d.statOf i e.1
  let d := d.setScb i { d.scb i with lastDevstat := st }
  if x.cut then if (d.scb i).state = .draining then (d.planDrained i).go i else (d.planHalted i).go i
  else if bKind (d.scb i).binding = 1 then d.dataDone i
  else if (x.remaining ≠ 0 ∨ x.ccw.cd) ∧ !x.ccw.sli then d.raiseExc i xLENGTH st x.remaining
  else if e.2 ∧ !x.ccw.sli then d.raiseExc i xLENGTH st 0
  else d.dataDone i

/-- The staging area that a subchannel's XF command uses is free for another (R197). -/
def Dev.freeStager (d : Dev) (i : Nat) : Dev :=
  { d with lqs := d.lqs.map fun (e : Nat × LentQ) => (e.1, if e.2.stager = some i then { e.2 with stager := none } else e.2) }

/-- Nothing of the command is outstanding: the stream ends, and the command with it. -/
def Dev.devFinish (d : Dev) (i : Nat) : Dev :=
  let x := d.ctx i
  let inner := x.ccw.cd && x.devEnd.isNone && !x.cut
  -- a transform may take bytes that yield no output, and so belong to no operation
  let d := if multiOp (d.scb i).binding ∧ x.ccw.xf ∧ !x.ccw.sink ∧ !x.cut then d.setCtx i { x with moved := x.fed } else d
  if x.ccw.xf ∧ !inner ∧ !x.cut ∧ (d.stream i).any (!·.ended) ∧ x.ccw.sink then
    match d.feedStream i [] true with
    | .stall e => e
    | .bad out d => let y := d.ctx i; d.setCtx i { y with outq := if x.ccw.skip then [] else out, outErr := true }
    | .out out d => let y := d.ctx i; d.setCtx i { y with outq := if x.ccw.skip then [] else out }
  else if inner then
    (d.setScb i { d.scb i with lastDevstat := d.statOf i 0 }).dataDone i
  else if x.cut then (d.freeStager i).judge i
  else match d.endStream i with
    | (true, d) => (d.freeStager i).judge i
    | (false, d) => d

/-- Whether the device still has to do something for the CCW, though no operation is outstanding. -/
def Dev.moreToDo (d : Dev) (i : Nat) : Bool :=
  let x := d.ctx i
  let b := (d.scb i).binding
  if x.devEnd.isSome ∨ x.cut ∨ (x.ccw.cd ∧ !x.rest.isEmpty) then false
  else if !multiOp b then true
  else if x.ccw.sink then decide (x.issuedTo < x.ccw.count.toNat) || (x.ccw.xf && decide (x.moved < x.ccw.count.toNat))
  else if bKind b = 2 ∧ x.ccw.ord ∧ !x.ccw.cd ∧ x.flushOp.isNone then true
  else if x.ccw.op = opCONTROL ∧ x.ccw.count = 0 then decide (x.outTo = 0)
  else !x.allFed || !x.data.isEmpty || (x.ccw.xf && bKind b = 1 && x.lastCcw && decide (x.outTo < x.stage))

/-- What the operations of a subchannel have come to: retirement in byte order, and the end of the command. -/
def Dev.devSettle (d : Dev) (i : Nat) : Nat → Dev
  | 0 => d
  | n + 1 =>
    let x := d.ctx i
    let st := (d.scb i).state
    if x.phase ≠ .running ∨ !(st = .active || st = .waiting || st = .draining) ∨ x.hostReq.isSome then d
    else if x.ccw.sink ∧ x.exc.isNone ∧ (!x.data.isEmpty || !x.outq.isEmpty || x.hole ≠ 0 || x.burst ≠ 0) then d
    else if x.exc.isSome ∧ (x.burst ≠ 0 ∨ x.ccw.sink ∧ !x.ccw.xf ∧ (!x.data.isEmpty || !x.outq.isEmpty || x.hole ≠ 0)) then d
    else if x.outErr ∧ x.exc.isNone then (d.setCtx i { x with outErr := false }).raiseExc i xDATA 0 x.remaining
    else match x.ops with
      | o :: _ =>
        match o.taken, o.res with
        | true, some r => (d.retireOp i o r).devSettle i n
        | _, _ =>
          if !multiOp (d.scb i).binding ∧ x.exc.isNone ∧ x.ccw.cd ∧ o.res.isNone ∧ x.moved = x.ccw.count.toNat ∧
              (x.ccw.sink || x.data.isEmpty || bKind (d.scb i).binding = 8) then d.devFinish i
          else d
      | [] =>
        match x.exc with
        | some e =>
          (d.planExc i (if e.counts then { e with residual := x.remaining } else e)).go i
        | none => if d.moreToDo i then d else d.devFinish i

/-- Rounds enough for the operations of one subchannel. -/
abbrev opFuel : Nat := 24

end Sys2Proof.Machine
end

