-- ==== Sys2Proof/Machine/Nvme.lean ====
section
/-!
DEFINITION. The NVMe adapter: lent queues, commands and their PRPs, submission, completion, transforms through the staging
area, and revocation (R181–R198).
-/

namespace Sys2Proof.Machine

/-! ### Registers of a lent queue -/

/-- Offset of a register of lent queue `q`. -/
def lqOff (q o : Nat) : Nat := 0x100 + 0x40 * q + o

def Dev.sqBase (d : Dev) (q : Nat) : Nat := d.rf pgNVA (lqOff q 8) 12 14 * 4096
def Dev.sqSize (d : Dev) (q : Nat) : Nat := d.rf pgNVA (lqOff q 8) 0 10 + 1
def Dev.cqBase (d : Dev) (q : Nat) : Nat := d.rf pgNVA (lqOff q 0xC) 12 14 * 4096
def Dev.cqSize (d : Dev) (q : Nat) : Nat := d.rf pgNVA (lqOff q 0xC) 0 10 + 1
def Dev.stageBase (d : Dev) (q : Nat) : Nat := d.rf pgNVA (lqOff q 0x28) 16 10 * 65536
def Dev.stageHalf (d : Dev) (q : Nat) : Nat := 2 ^ (d.rf pgNVA (lqOff q 0x28) 0 3 + 15)
def Dev.prpPool (d : Dev) : Nat := d.rf pgNVA 0x040 20 6 * 0x100000
def Dev.lqPort (d : Dev) (q : Nat) : Nat := b2n (d.rb pgNVA (lqOff q 4) 24)
def Dev.lbaSize (d : Dev) (q : Nat) : Nat := 2 ^ d.lbads q

/-- The BAR4 bus address of the coprocessor function. -/
def Dev.bar4 (d : Dev) : Nat := (smGet d.cfg (1024 + 8) 0).toNat / 16 * 16 + (smGet d.cfg (1024 + 9) 0).toNat * 2 ^ 32

/-- The aperture bus address (R181). -/
def Dev.aperture (d : Dev) : Nat := (d.reg pgNVA 0x048).toNat / 4 * 2 ^ 34

def Dev.apertureOn (d : Dev) : Bool := d.rb pgNVA 0x044 0

/-- An adapter sends a request through a downstream port. -/
def Dev.sendTlp (d : Dev) (t : Tlp) : Dev := { d with sent := d.sent ++ [t] }

/-- A doorbell of lent queue `q` is written, that of the SQ tail or that of the CQ head, as one peer write (R193, R194). -/
def Dev.ringDoorbell (d : Dev) (q : Nat) (cq : Bool) (v : Nat) : Dev :=
  let base := d.rf pgNVA (lqOff q 0x18) 2 30 * 4 + (d.reg pgNVA (lqOff q 0x1C)).toNat * 2 ^ 32
  let c := d.reg pgNVA (lqOff q 4)
  let a := base + (2 * fld c 0 16 + b2n cq) * 4 * 2 ^ fld c 20 4
  (((d.count 2 2 (regionTag 2) 1).count 2 3 (regionTag 2) 1).sendTlp
    { port := d.lqPort q, write := true, addr := BitVec.ofNat 64 a, len := 4, data := leBytes 4 v })

/-! ### Lending and revocation (R184, R198) -/

/-- Two ranges are apart. -/
def apart (a n b m : Nat) : Bool := decide (a + n ≤ b ∨ b + m ≤ a)

/-- Watch range `i`: its base and size (R199). -/
def Dev.watchBase (d : Dev) (i : Nat) : Nat :=
  let s := 2 ^ (d.rf pgWCH (0x104 + 8 * i) 0 5 + 6)
  (d.reg pgWCH (0x100 + 8 * i)).toNat * 64 / s * s
def Dev.watchSize (d : Dev) (i : Nat) : Nat := 2 ^ (d.rf pgWCH (0x104 + 8 * i) 0 5 + 6)

/-- The checks of LEND (R184). -/
def Dev.lendOk (d : Dev) (q : Nat) : Bool :=
  let sq := d.sqBase q
  let sn := d.sqSize q * 64
  let cq := d.cqBase q
  let cn := d.cqSize q * 16
  let st := d.stageBase q
  let tn := 2 * d.stageHalf q
  let pool := d.prpPool
  let top := 0x03000000
  let w := d.rf pgNVA (lqOff q 0x20) 0 6
  decide (sq + sn ≤ top ∧ cq + cn ≤ top ∧ st + tn ≤ top) &&
  apart sq sn cq cn && apart sq sn st tn && apart cq cn st tn &&
  apart sq sn pool 0x100000 && apart cq cn pool 0x100000 && apart st tn pool 0x100000 &&
  d.rb pgWCH (0x104 + 8 * w) 30 && decide (d.watchBase w ≤ cq ∧ cq + cn ≤ d.watchBase w + d.watchSize w)

/-- LEND (R184). The CQ is zeroed; where a bank group of it sleeps the writes wait for it. -/
def Dev.lend (d : Dev) (q : Nat) : Dev :=
  let v := d.lq q
  if v.state ≠ .free then d
  else if !d.lendOk q then d.setLq q { v with lendErr := true }
  else
    let n := d.cqSize q * 16
    let ks := ((List.range ((n + 4095) / 4096)).map fun k => addrDom (d.cqBase q + 4096 * k)).eraseDups
    if ks.any fun k => d.gate k = .asleep then
      let d := ks.foldl (fun d k => (d.knock k).2) d
      { d with held := d.held ++ [.lend q] }
    else (d.clearMem (d.cqBase q) n).setLq q { state := .lent, phase := true }

/-- A lent queue that is being revoked and has nothing outstanding is free (R198). -/
def Dev.lqRelease (d : Dev) (q : Nat) : Dev :=
  let v := d.lq q
  if v.state = .revoking ∧ v.cmds.isEmpty then (d.ringDoorbell q true v.cqHead).setLq q { v with state := .free } else d

/-- Operations of a queue whose entries are not written yet get an outcome. -/
def Dev.failUnsent (d : Dev) (q code : Nat) : Dev :=
  { d with ctxs := d.ctxs.map fun (e : Nat × Ctx) =>
      let b := (d.scb e.1).binding
      if bKind b = 1 ∧ bQueue b = q then
        (e.1, { e.2 with ops := e.2.ops.map fun (o : DevOp) =>
          if o.taken ∨ o.entry.isEmpty then o else { o with entry := [], res := some { status := statCode code 0 } } })
      else e }

/-- REVOKE (R198). -/
def Dev.revoke (d : Dev) (q : Nat) : Dev :=
  let v := d.lq q
  if v.state ≠ .lent then d
  else ((d.setLq q { v with state := .revoking }).failUnsent q codeREVOKED).lqRelease q

/-! ### Submission (R193) -/

/-- The unsent entries of a queue, oldest first: subchannel and operation. -/
def Dev.unsent (d : Dev) (q : Nat) : List (Nat × DevOp) :=
  let all := d.ctxs.flatMap fun e =>
    let b := (d.scb e.1).binding
    if bKind b = 1 ∧ bQueue b = q then (e.2.ops.filter fun o => !o.taken && !o.entry.isEmpty).map fun o => (e.1, o) else []
  all.mergeSort fun a b => decide (a.2.id ≤ b.2.id)

/-- One entry is written at the SQ tail, if the SQ has room and its bank group answers. -/
def Dev.sqWrite (d : Dev) (q : Nat) (e : Nat × DevOp) : Bool × Dev :=
  let v := d.lq q
  let tail := (v.sqTail + 1) % d.sqSize q
  let a := d.sqBase q + 64 * v.sqTail
  if v.state ≠ .lent ∨ tail = v.sqHead then (false, d)
  else match d.reach 3 a with
    | (.ok, d) =>
      let i := e.1
      let d := ((d.memWrite a e.2.entry).2).countAccess i 3 true a 64
      let x := d.ctx i
      let d := d.setCtx i { x with ops := x.ops.map fun (o : DevOp) => if o.id = e.2.id then { o with entry := [] } else o }
      (true, d.setLq q { v with sqTail := tail, cmds := v.cmds ++ [{ cid := e.2.cid, sub := i, slot := e.2.slot, op := e.2.id, rung := d.now }] })
    | (_, d) => (false, d)

/-- Entries are written as far as they can be, then the tail doorbell is rung once. -/
def Dev.sqFlush (d : Dev) (q : Nat) : Dev :=
  let r := (d.unsent q).foldl (fun (r : Bool × Bool × Dev) e =>
    if r.1 then let s := r.2.2.sqWrite q e; (s.1, r.2.1 || s.1, s.2) else r) (true, false, d)
  if r.2.1 then r.2.2.ringDoorbell q false (r.2.2.lq q).sqTail else r.2.2

/-! ### Building a command (R186–R192) -/

/-- The bus address of a byte of an NVMe data area (R190). -/
def Dev.busAddr (d : Dev) (n : Nat) (write : Bool) (a : Nat) : Except (Byte × Word) Nat :=
  match rangeOf a with
  | .sram .none => .ok (d.bar4 + a)
  | .xram _ .none => .ok (d.bar4 + a)
  | .dram =>
    if !d.apertureOn then .error (xPROTECTION, 0x8005)
    else if d.dramHas a then .ok (d.aperture + (a - dramBase)) else .error (xADDRESS, 0x8007)
  | .hostwin =>
    match d.hostXlate write a with
    | .ok hpa => .ok hpa
    | .error _ => .error ((d.useErr n .data write a).getD (xPROTECTION, 0x8005))
  | .unmapped => .error (xADDRESS, 0x8000)
  | _ => .error (xPROTECTION, 0x8005)

/-- Bytes of the pieces gathered for a command. -/
def segBytes (l : List (Nat × Nat)) : Nat := l.foldl (fun n s => n + s.2) 0

/-- The SSD writes the data area of a READ. -/
def Ccw.ssdWrites (c : Ccw) : Bool := c.op = opREAD

/-- The next piece of a data area, within one page, joins the command being built (R188–R191). -/
def Dev.nvPiece (d : Dev) (i : Nat) : Acc :=
  match d.loadArea i ((d.ctx i).issuedTo + segBytes (d.ctx i).segs) with
  | .ok _ d =>
    let x := d.ctx i
    let a := x.area.addr
    let n := min (4096 - a % 4096) (min x.area.left (x.ccw.count.toNat - x.issuedTo - segBytes x.segs))
    let lastEnd := (x.segs.getLast?.map fun s => s.1 + s.2).getD x.nvEnd
    if d.useRow a ≠ x.area.row then .fail xADDRESS 0x8008 d
    else if a % 4 ≠ 0 ∨ ((!x.segs.isEmpty ∨ x.nvPages ≠ 0) ∧ (a % 4096 ≠ 0 ∨ lastEnd % 4096 ≠ 0)) then .fail xPROGRAM 0x602 d
    else match d.busAddr (i / 256) x.ccw.ssdWrites a with
      | .error (c, det) => .fail c det (d.noteRefusal i det)
      | .ok _ => .ok [] (d.setCtx i { x with segs := x.segs ++ [(a, n)], area := { x.area with addr := a + n, left := x.area.left - n } })
  | r => r

/-- The pieces gathered make a command: all that is left, or MAX_PAGES pages with a whole LBA among them (log 25), those counted that
earlier CCWs of the chain hold; a Dataset Management takes its whole list (R186). -/
def Dev.nvFull (d : Dev) (i : Nat) : Bool :=
  let x := d.ctx i
  let q := bQueue (d.scb i).binding
  segBytes x.segs = x.ccw.count.toNat - x.issuedTo ||
    (x.ccw.op ≠ opCONTROL && d.maxPages q ≤ x.nvPages + x.segs.length && d.lbaSize q ≤ segBytes x.segs)

/-- Pieces are gathered until they make a command. -/
def Dev.nvGather (d : Dev) (i : Nat) : Nat → Acc
  | 0 => .ok [] d
  | n + 1 =>
    if d.nvFull i then .ok [] d
    else match d.nvPiece i with
      | .ok _ d => d.nvGather i n
      | r => r

/-- The first `n` bytes of pieces, and the rest. -/
def splitSegs : Nat → List (Nat × Nat) → List (Nat × Nat) × List (Nat × Nat)
  | _, [] => ([], [])
  | n, (a, k) :: ss =>
    if n = 0 then ([], (a, k) :: ss)
    else if k ≤ n then let r := splitSegs (n - k) ss; ((a, k) :: r.1, r.2)
    else ([(a, n)], (a + n, k - n) :: ss)

/-- Pieces of a linear range, cut at pages. -/
def linearSegs (a n : Nat) : Nat → List (Nat × Nat)
  | 0 => []
  | f + 1 => if n = 0 then [] else let k := min n (4096 - a % 4096); (a, k) :: linearSegs (a + k) (n - k) f

/-- Address of the PRP list of a slot (R182). -/
def Dev.prpList (d : Dev) (n slot : Nat) : Nat := d.prpPool + (32 * n + slot) * 2048

/-- A submission queue entry (R186, R189, R192; layout log 25). -/
def sqEntry (opc : Nat) (cid : BitVec 16) (nsid : Word) (prp1 prp2 slba dw12 dw11 : Nat) : List Byte :=
  leBytes 4 (opc + cid.toNat * 2 ^ 16) ++ leBytes 4 nsid.toNat ++ List.replicate 16 0 ++ leBytes 8 prp1 ++ leBytes 8 prp2 ++
    leBytes 8 (slba + dw11 * 2 ^ 32) ++ leBytes 4 dw12 ++ List.replicate 12 0

/-- NVMe opcode of a command (R186). -/
def nvOpcode (c : Ccw) : Nat :=
  if c.op = opREAD then 2
  else if c.op = opWRITE then (if c.mod_ = 2 then 5 else 1)
  else if c.mod_ = 0 then 0 else if c.mod_ = 1 then 8 else 9

/-- A command is issued over pieces, in a slot: its CID, PRPs and entry (R189–R193). None where the PRP list's bank group does
not answer. On a queue that has been revoked meanwhile it is answered REVOKED and never written (R198). -/
def Dev.nvCommand (d : Dev) (i slot start len : Nat) (segs : List (Nat × Nat)) (slba dw12 dw11 : Nat) : Option Dev :=
  let n := i / 256
  let c := (d.ctx i).ccw
  let q := bQueue (d.scb i).binding
  let gen := smGet (d.eng n).gens slot 0
  let cid := BitVec.ofNat 16 (gen * 512 + n * 32 + slot)
  let bus := segs.map fun s => match d.busAddr n c.ssdWrites s.1 with
    | .ok b => b
    | .error _ => 0
  let la := d.prpList n slot
  let more := (bus.drop 1).length
  let g := if 1 < more then d.reach 3 la else (.ok, d)
  match g with
  | (.ok, d) =>
    let d := if 1 < more then ((d.memWrite la ((bus.drop 1).flatMap fun b => leBytes 8 b)).2).countAccess i 3 true la (8 * more) else d
    let prp2 := if 1 < more then d.bar4 + la else (bus.drop 1).headD 0
    let e := sqEntry (nvOpcode c) cid (d.reg pgNVA (lqOff q 0x10)) (bus.headD 0) prp2 slba dw12 dw11
    let d := d.setEng n { d.eng n with gens := smSet (d.eng n).gens slot ((gen + 1) % 128) 0 }
    some (if (d.lq q).state = .lent then d.issueOp i slot start len cid e none
      else d.issueOp i slot start len cid [] (some { status := statCode codeREVOKED 0 }))
  | (.asleep, d) => some d
  | (.fenced, d) => some (d.failAccess i xENGINE 3)

/-- NLB and FUA of a Read, Write or Compare (R186). -/
def nvDw12 (c : Ccw) (blocks : Nat) : Nat := blocks - 1 + (if c.mod_ = 1 then 2 ^ 30 else 0)

/-- Commands without transforms are built and issued one after another. -/
def Dev.nvIssueAll (d : Dev) (i : Nat) : Nat → Dev
  | 0 => d
  | n + 1 =>
    let x := d.ctx i
    let q := bQueue (d.scb i).binding
    if x.exc.isSome ∨ !x.counting ∨ x.cut ∨ x.ccw.count.toNat ≤ x.issuedTo then d
    else match d.nvGather i 600 with
      | .stall d => d
      | .fail code det d => d.failAccess i code det
      | .ok _ d =>
        match d.askSlot i with
        | none => d.beginWait i .slot
        | some s =>
          let x := d.ctx i
          let t := segBytes x.segs
          let len := if x.ccw.op = opCONTROL then t else t - t % d.lbaSize q
          let r := splitSegs len x.segs
          let slba := x.ccw.param.toNat + (x.chainMoved + x.issuedTo) / d.lbaSize q
          let before := x.ops.length
          let d2 := if x.ccw.op = opCONTROL then d.nvCommand i s x.issuedTo len r.1 (len / 16 - 1) 0 4
            else d.nvCommand i s x.issuedTo len r.1 slba (nvDw12 x.ccw (len / d.lbaSize q)) 0
          match d2 with
          | none => d
          | some d =>
            let x := d.ctx i
            if x.ops.length = before then d
            else
              -- a command that the CCW leaves short of MAX_PAGES is under way in the next one of the chain
              let pages := x.nvPages + r.1.length
              let open_ := x.ccw.count.toNat = x.issuedTo + len ∧ pages < d.maxPages q
              (d.setCtx i { x with
                segs := r.2, issuedTo := x.issuedTo + len, fed := x.issuedTo + len
                nvPages := if open_ then pages else 0
                nvEnd := (r.1.getLast?.map fun s => s.1 + s.2).getD 0 }).nvIssueAll i n

/-- A command without data is issued: Flush or Write Zeroes (R186). -/
def Dev.nvControl (d : Dev) (i : Nat) : Dev :=
  let x := d.ctx i
  if x.outTo ≠ 0 then d
  else match d.askSlot i with
    | none => d.beginWait i .slot
    | some s =>
      let p := x.ccw.param.toNat
      match (if x.ccw.mod_ = 0 then d.nvCommand i s 0 0 [] 0 0 0 else d.nvCommand i s 0 0 [] (p % 2 ^ 48) (p / 2 ^ 48) 0) with
      | none => d
      | some d => d.setCtx i { d.ctx i with outTo := 1 }

/-! ### Transforms on lent queues (R197) -/

/-- Address in the staging area of a byte of the run of staged bytes. -/
def Dev.stageAddr (d : Dev) (q k : Nat) : Nat :=
  let h := d.stageHalf q
  d.stageBase q + k / h % 2 * h + k % h

/-- Commands over the staging area are issued for the bytes up to `lim` of the staged run; `src` source bytes are the last
one's share. -/
def Dev.nvStageIssue (d : Dev) (i start lim : Nat) : Nat → Dev
  | 0 => d
  | n + 1 =>
    let x := d.ctx i
    let q := bQueue (d.scb i).binding
    let at_ := if x.ccw.sink then x.issuedTo else x.outTo
    if x.exc.isSome ∨ !x.counting ∨ x.cut ∨ lim ≤ at_ then d
    else match d.askSlot i with
      | none => d.beginWait i .slot
      | some s =>
        let lba := d.lbaSize q
        let len := min (lim - at_) (max (d.maxPages q * 4096 / lba * lba) lba)
        let pad := (len + lba - 1) / lba * lba
        let segs := linearSegs (d.stageAddr q at_) pad 300
        let slba := x.ccw.param.toNat + (start + at_) / lba
        let share := if x.ccw.sink then len else if lim ≤ at_ + len then x.fed - x.moved else 0
        match d.nvCommand i s at_ share segs slba (nvDw12 x.ccw (pad / lba)) 0 with
        | none => d
        | some d =>
          let y := d.ctx i
          if y.ops.length = x.ops.length then d
          else
            let y := if y.ccw.sink then { y with issuedTo := at_ + len } else { y with outTo := at_ + len }
            (d.setCtx i y).nvStageIssue i start lim n

/-- A READ with XF: a half is filled by Read commands, then streamed (R197). -/
def Dev.nvReadXf (d : Dev) (i : Nat) : Dev :=
  let x := d.ctx i
  let q := bQueue (d.scb i).binding
  let h := d.stageHalf q
  if !x.outq.isEmpty ∨ !x.data.isEmpty ∨ x.hole ≠ 0 then d.sinkBeat i
  else if x.outErr ∨ x.exc.isSome then d
  else if x.moved < x.stage ∧ x.ops.isEmpty then
    let n := min 32 (min (x.stage - x.moved) (h - x.moved % h))
    match d.engRead i .data (d.stageAddr q x.moved) n with
    | .ok bs d => (d.setCtx i { d.ctx i with data := bs }).sinkBeat i
    | .stall d => d
    | .fail code det d => d.failSource i code det
  else (d.nvStageIssue i x.chainMoved (min x.ccw.count.toNat ((x.moved / h + 1) * h)) 300).sqFlush q

/-- A WRITE with XF: the stream's output fills a half, which Write commands then write; the last half is padded with zeros
(R197). -/
def Dev.nvWriteXf (d : Dev) (i : Nat) : Dev :=
  let x := d.ctx i
  let q := bQueue (d.scb i).binding
  let h := d.stageHalf q
  let lba := d.lbaSize q
  let ended := x.lastCcw && x.allFed && x.data.isEmpty
  if x.exc.isSome then d
  else if x.outTo < x.stage ∧ (x.stage - x.outTo = h ∨ x.stage % h = 0 ∨ ended) then
    if x.outTo % h = 0 ∧ !x.ops.isEmpty then d
    else
      let pad := (lba - x.stage % lba) % lba
      let e := if pad = 0 then Acc.ok [] d else d.engWriteAll i 1 (d.stageAddr q x.stage) (List.replicate pad 0)
      match e with
      | .ok _ d => (d.nvStageIssue i 0 x.stage 300).sqFlush q
      | .stall d => d
      | .fail code det d => d.failAccess i code det
  else if !x.ops.isEmpty ∧ x.stage % h = 0 then d
  else if !x.data.isEmpty then
    let n := min (min 32 x.data.length) (h - x.stage % h)
    match d.engWriteAll i 1 (d.stageAddr q x.stage) (x.data.take n) with
    | .ok _ d => let y := d.ctx i; d.setCtx i { y with data := y.data.drop n, stage := y.stage + n }
    | .stall d => d
    | .fail code det d => d.failAccess i code det
  else if x.allFed then d
  else d.sourceBeat i 32

/-- The staging area of the queue serves this subchannel (R197). -/
def Dev.takeStager (d : Dev) (i : Nat) : Bool × Dev :=
  let q := bQueue (d.scb i).binding
  let v := d.lq q
  match v.stager with
  | some j => (decide (j = i), d)
  | none => (true, d.setLq q { v with stager := some i })

/-- What the NVMe adapter can do for a subchannel now. -/
def Dev.nvStep (d : Dev) (i : Nat) : Dev :=
  let c := (d.ctx i).ccw
  let q := bQueue (d.scb i).binding
  if c.op = opSENSE then d.sinkBeat i
  else if c.op = opCONTROL ∧ c.count = 0 then (d.nvControl i).sqFlush q
  else if c.xf then
    match d.takeStager i with
    | (false, d) => d
    | (true, d) => if c.op = opREAD then d.nvReadXf i else d.nvWriteXf i
  else (d.nvIssueAll i 300).sqFlush q

/-! ### Completion (R194–R196) -/

/-- One CQ entry is consumed: its command's operation has its outcome. -/
def Dev.cqEntry (d : Dev) (q : Nat) (e : List Byte) : Dev :=
  let v := d.lq q
  let cid := BitVec.ofNat 16 (fieldAt e 12 2)
  let head := (v.cqHead + 1) % d.cqSize q
  let v := { v with sqHead := fieldAt e 8 2, cqHead := head, phase := if head = 0 then !v.phase else v.phase }
  match v.cmds.find? fun c => c.cid = cid with
  | none => (d.setLq q v).bump pgNVA 0x04C 1 0x054 0
  | some c =>
    let st := fieldAt e 14 2 / 2
    let d := d.setLq q { v with cmds := v.cmds.filter fun k => k.cid ≠ cid }
    let x := d.ctx c.sub
    if x.ops.any fun o => o.id = c.op && !o.taken then
      let r : OpRes := { status := if st = 0 then 0 else statCode 1 st }
      let d := d.setCtx c.sub { x with ops := x.ops.map fun (o : DevOp) => if o.id = c.op then { o with res := some r } else o }
      { d with lastCqe := smSet d.lastCqe c.sub e [] }
    else d

/-- CQ entries are read from the head while their phase bit is the queue's (R194). -/
def Dev.cqScan (d : Dev) (q : Nat) : Nat → Dev
  | 0 => d
  | n + 1 =>
    let v := d.lq q
    let e := d.peek (d.cqBase q + 16 * v.cqHead) 16
    if (fieldAt e 14 2 % 2 = 1) = v.phase then
      ((d.cqEntry q e).countAccess (regionTag 2) 3 false (d.cqBase q + 16 * v.cqHead) 16).cqScan q n
    else d

/-- NVME_CQ_SCAN (R194): the scan, the head doorbell, and what the freed SQ entries allow. -/
def Dev.nvmeScan (d : Dev) (q : Nat) : Dev :=
  let v := d.lq q
  if v.state = .free ∨ !v.due then d
  else match d.reach 3 (d.cqBase q + 16 * v.cqHead) with
    | (.ok, d) =>
      let d := d.setLq q { v with due := false }
      let e := d.cqScan q (d.cqSize q)
      ((if (e.lq q).cqHead ≠ v.cqHead ∨ (e.lq q).phase ≠ v.phase then e.ringDoorbell q true (e.lq q).cqHead else e).sqFlush q).lqRelease q
    | (_, d) => d

/-- The oldest command of a queue that is past its timeout (R196). -/
def Dev.overdue (d : Dev) (q : Nat) : Option NvCmd :=
  let t := d.reg pgNVA (lqOff q 0x24)
  if t = 0 then none else (d.lq q).cmds.find? fun c => decide ((ds32Dur t).toNat < (d.now - c.rung).toNat)

end Sys2Proof.Machine
end

