-- ==== Sys2Proof/Machine/Adapters.lean ====
section
/-!
DEFINITION. Device commands from their start to their completion on every adapter: PCIe memory windows, the paced ports, GPIO,
FIFO and mailbox (R172–R180, R199–R212).
-/

namespace Sys2Proof.Machine

/-! ### PCIe memory windows (R202, R203) -/

/-- Window offset of the next byte of the command's run. -/
def Dev.pcieOff (d : Dev) (i : Nat) : Nat :=
  let x := d.ctx i
  if x.ccw.op = opCONTROL ∧ x.ccw.count = 0 then fld x.ccw.param 0 32
  else fld x.ccw.param 0 36 + (if x.ccw.sink then x.chainMoved + x.issuedTo else x.outTo)

/-- TLPs of requests through the switch for a tag (R57). -/
def Dev.countPcie (d : Dev) (tag n : Nat) : Dev := (d.count 2 2 tag 1).count 2 3 tag ((n + 31) / 32)

/-- One request of memory window `j`, at its bus address (R202). -/
def Dev.pcieTlp (d : Dev) (i off n : Nat) (data : Option (List Byte)) : Dev :=
  let o := 0x300 + 16 * bWindow (d.scb i).binding
  let a := d.rf pgWCH o 12 20 * 4096 + (d.reg pgWCH (o + 4)).toNat * 2 ^ 32 + off
  (d.countPcie i (data.getD []).length).sendTlp
    { port := d.rf pgWCH (o + 8) 24 3, write := data.isSome, addr := BitVec.ofNat 64 a, len := n, data := data.getD [] }

/-- The bus operation on `n` bytes at an offset: bulk for READ and WRITE, dword by dword for SENSE and CONTROL (R202). -/
def Dev.pcieSend (d : Dev) (i off n : Nat) (data : Option (List Byte)) : Dev :=
  let op := (d.ctx i).ccw.op
  if op = opREAD ∨ op = opWRITE then d.pcieTlp i off n data
  else (List.range (n / 4)).foldl (fun d k => d.pcieTlp i (off + 4 * k) 4 (data.map fun bs => (bs.drop (4 * k)).take 4)) d

/-- Reads of a READ are issued, each within 4 KiB of the window (R174); a SENSE is one operation. -/
def Dev.pcieReads (d : Dev) (i : Nat) : Nat → Dev
  | 0 => d
  | n + 1 =>
    let x := d.ctx i
    let b := (d.scb i).binding
    let left := x.ccw.count.toNat - x.issuedTo
    let off := d.pcieOff i
    if left = 0 ∨ x.exc.isSome ∨ !x.counting ∨ x.cut then d
    else if !d.mwFits (bWindow b) off left then d.raiseExc i xPROGRAM 0x602 x.remaining true
    else match d.askSlot i with
      | none => d.beginWait i .slot
      | some s =>
        let k := if x.ccw.op = opSENSE then left else min left (4096 - off % 4096)
        let d := (d.issueOp i s x.issuedTo k 0 [] none).pcieSend i off k none
        (d.setCtx i { d.ctx i with issuedTo := x.issuedTo + k }).pcieReads i n

/-- The read that flushes the writes of a command with ORD: 4 bytes, the last dword written (R174). -/
def Dev.pcieFlush (d : Dev) (i : Nat) : Dev :=
  match d.askSlot i with
  | none => d.beginWait i .slot
  | some s =>
    let x := d.ctx i
    let last := if x.ccw.op = opCONTROL ∧ x.ccw.count = 0 then d.pcieOff i else (d.pcieOff i - 1) / 4 * 4
    let d := (d.issueOp i s x.issuedTo 0 0 [] none).pcieTlp i last 4 none
    d.setCtx i { d.ctx i with flushOp := (d.ctx i).ops.getLast?.map (·.id) }

/-- `k` bytes of a command's data go out as one operation, whose share of the CCW is `share` bytes. -/
def Dev.pcieWrite (d : Dev) (i k share : Nat) : Dev :=
  match d.askSlot i with
  | none => d.beginWait i .slot
  | some s =>
    let x := d.ctx i
    let d := (d.issueOp i s x.issuedTo share 0 [] none).pcieSend i (d.pcieOff i) k (some (x.data.take k))
    let y := d.ctx i
    d.setCtx i { y with data := y.data.drop k, outTo := y.outTo + k, issuedTo := y.issuedTo + share }

/-- The single dword of a CONTROL with COUNT 0 (R202). -/
def Dev.pcieDword (d : Dev) (i : Nat) : Dev :=
  match d.askSlot i with
  | none => d.beginWait i .slot
  | some s =>
    let d := (d.issueOp i s 0 0 0 [] none).pcieSend i (d.pcieOff i) 4 (some (leBytes 4 (fld (d.ctx i).ccw.param 32 32)))
    d.setCtx i { d.ctx i with outTo := 1 }

/-- Data gathered for a WRITE or CONTROL goes out as one operation when there is enough of it (R174). -/
def Dev.pcieWrites (d : Dev) (i : Nat) : Dev :=
  let x := d.ctx i
  let one := x.ccw.op = opCONTROL ∧ x.ccw.count = 0
  let flushes := x.ccw.ord && !x.ccw.cd && x.flushOp.isNone && decide (x.outTo ≠ 0)
  let room := if x.ccw.op = opCONTROL then 2 ^ 36 else 4096 - d.pcieOff i % 4096
  if x.exc.isSome ∨ x.cut then d
  else if one then if x.outTo = 0 then d.pcieDword i else if flushes then d.pcieFlush i else d
  else if room ≤ x.data.length ∨ (x.allFed ∧ !x.data.isEmpty) then
    let k := min room x.data.length
    if !d.mwFits (bWindow (d.scb i).binding) (d.pcieOff i) k then d.raiseExc i xPROGRAM 0x602 x.remaining true
    else d.pcieWrite i k (if x.ccw.xf then x.fed - x.issuedTo else k)
  else if !x.allFed then d.sourceBeat i 32
  else if flushes then d.pcieFlush i
  else d

/-! ### GPIO (R210, R221) -/

/-- Pins of a mask drive levels: OUT changes, and each toggle of an output counts (R57). -/
def Dev.gpioDrive (d : Dev) (tag : Nat) (mask v : Word) : Dev :=
  let old := d.reg pgGPI 0x044
  let new := (old &&& ~~~mask) ||| (v &&& mask)
  let flips := (List.range 32).filter fun k => bitAt (old ^^^ new) k && bitAt (d.reg pgGPI 0x048) k
  (d.setReg pgGPI 0x044 new).count 3 3 tag flips.length

/-- Pins of a mask take a direction. -/
def Dev.gpioDir (d : Dev) (mask v : Word) : Dev :=
  d.setReg pgGPI 0x048 ((d.reg pgGPI 0x048 &&& ~~~mask) ||| (v &&& mask))

/-- The output pins of a mask read back their driven levels. -/
def Dev.gpioSettled (d : Dev) (mask : Word) : Bool :=
  (d.gpi.raw ^^^ d.reg pgGPI 0x044) &&& mask &&& d.reg pgGPI 0x048 = 0

/-- A pin field of a CCW, placed on its pins. -/
def pinWord (b : Word) (v : Nat) : Word := w32 (v * 2 ^ bLowPin b)

/-! ### The operation of a single-operation adapter -/

/-- LINE of a UART (R214). -/
def Dev.uartLine (d : Dev) (u : Nat) : Nat :=
  let v := d.uart u
  let char := d.uartBits u (d.uartCharBits u)
  fput 3 1 (b2n v.pin) + fput 2 1 (b2n v.inBreak) +
    b2n (d.rb pgUAR (0x100 + 0x40 * u) 31 && !v.inBreak && decide (char ≤ (d.now - v.since).toNat))

/-- A character is on the TX ball of UART `u` or waits in its transmit buffer (LINE.TX_BUSY). -/
def Dev.uartTxBusy (d : Dev) (u : Nat) : Bool := decide (d.now.toNat < (d.uart u).txEnd.toNat)

/-- The length of a break that an operation of UART `u` sends, and whether TX has returned high after it (R207). -/
def Dev.breakOver (d : Dev) (u : Nat) (c : Ccw) (o : DevOp) : Bool :=
  let n := max (ds32Dur (w32 (fld c.param 0 32))).toNat (d.uartBits u (d.uartCharBits u + 1))
  decide (max o.issued.toNat (d.uart u).txEnd.toNat + n ≤ d.now.toNat)

/-- A break has been recognised (R214): it ends the READ in progress, or the FIFO packet. -/
def Dev.breakSeen (d : Dev) (u : Nat) : Dev :=
  let d := d.bump pgUAR (0x100 + 0x40 * u + 0x1C) 1 (0x100 + 0x40 * u + 0x30) 3
  match d.producerFifo 1 u with
  | some f => d.fifoClose f false
  | none =>
    match d.uartReader u with
    | some i =>
      if (d.ctx i).moved < (d.ctx i).ccw.count.toNat ∨ (d.ctx i).ccw.cd then
        (d.setUart u { d.uart u with rx := (d.uart u).rx ++ [.brk] }).uartCheck u
      else d
    | none => d

/-- A break has been sent: TX stays high for a bit time, and a looped UART has received it (R207, R214). -/
def Dev.breakSent (d : Dev) (u : Nat) : Dev :=
  let d := d.setUart u { d.uart u with txHold := d.now + BitVec.ofNat 64 (d.uartBits u 1) }
  if bitAt (d.reg pgUAR (0x100 + 0x40 * u)) 5 then (d.breakSeen u).setUart u { (d.breakSeen u).uart u with since := d.now } else d

/-- UAR.STAT of UART `u`. -/
def Dev.uartStat (d : Dev) (u : Nat) : Word :=
  w32 (fput 16 8 (d.uartLine u + fput 1 1 (b2n (d.uartTxBusy u))) + fput 0 9 (d.uart u).occ)

/-- The header of a mailbox: STAT, SENDER and POST_TIME (R375). -/
def Dev.mboxHdr (d : Dev) (m : Nat) : Word :=
  let v := d.mbox m
  w32 (fput 7 1 (b2n v.full) + fput 6 1 (b2n v.call) + fput 0 3 v.target + fput 8 8 v.sender)

/-- The outcome that the device's own state gives an operation as it is issued, and its effect (R207, R210–R212). -/
def Dev.serveAtOnce (d : Dev) (i : Nat) : Option OpRes × Dev :=
  let c := (d.ctx i).ccw
  let b := (d.scb i).binding
  match bKind b with
  | 5 =>
    let u := bPort b
    if c.op = opSENSE then
      let s := d.uartStat u
      (some { data := leBytes 2 (fld s 0 9) ++ [BitVec.ofNat 8 (fld s 16 8), 0] }, d)
    else if c.op = opCONTROL ∧ c.mod_ = 1 then (some {}, d.uartFlush u)
    else (none, d)
  | 6 =>
    let hi := fld c.param 32 32
    let lo := fld c.param 0 32
    if c.op = opSENSE then
      (some { data := leBytes 4 (d.gpi.level.toNat / 2 ^ bLowPin b % 2 ^ bPins b) }, d)
    else if c.mod_ = 0 then (some {}, d.gpioDrive i (pinWord b hi) (pinWord b lo))
    else (some {}, d.gpioDir (pinWord b hi) (pinWord b lo))
  | 7 =>
    let f := bQueue b
    let v := d.fifo f
    if c.op = opSENSE then
      (some { data := leBytes 2 v.chain.length ++ leBytes 2 v.packets ++ leBytes 2 (d.rf pgFIF (0x110 + 0x40 * f) 0 16) ++ [0, 0] }, d)
    else if c.op = opCONTROL then (some {}, d.fifoCmd f false true)
    else (none, d)
  | 8 =>
    let m := bMbox b
    if c.op = opSENSE then (some { data := leBytes 4 (d.mboxHdr m).toNat ++ leBytes 4 (d.mbox m).postTime.toNat }, d)
    else (none, d)
  | _ => (none, d)

/-- What an adapter can do for a subchannel now, on the engine's side: one beat, or operations that can be issued. After an
exception nothing is asked of memory, but for the bytes that a burst has reserved (R178) or an operation has brought (R171). -/
def Dev.devStep (d : Dev) (i : Nat) : Dev :=
  let x := d.ctx i
  let b := (d.scb i).binding
  if x.exc.isSome ∧ x.burst = 0 ∧ (!x.ccw.sink ∨ x.ccw.xf) then d else
  match bKind b with
  | 1 => d.nvStep i
  | 2 =>
    if x.ccw.sink then
      if !x.data.isEmpty ∨ !x.outq.isEmpty ∨ x.hole ≠ 0 then d.sinkBeat i
      else d.pcieReads i 300
    else d.pcieWrites i
  | 8 => if x.ccw.sink then d.sinkBeat i else if x.allFed then d else d.sourceBeat i 32
  | _ =>
    if x.ccw.sink then d.sinkBeat i
    else if x.burst ≠ 0 then d.pacedBeat i else d

/-- One beat of a device command, and what it leads to. -/
def Dev.devBeat (d : Dev) (i : Nat) : Dev :=
  let x := d.ctx i
  let st := (d.scb i).state
  if x.phase ≠ .running ∨ x.hostReq.isSome ∨ !(st = .active || st = .waiting || st = .draining) then d
  else (d.devStep i).devSettle i opFuel

/-- Beats of a device command. -/
def Dev.devBeats (d : Dev) (i : Nat) : Nat → Dev
  | 0 => d
  | n + 1 => (d.devBeat i).devBeats i n

/-- The subchannel leaves the sequencer while its device works. -/
def Dev.waitDevice (d : Dev) (i : Nat) : Dev :=
  if (d.scb i).state = .active ∧ (d.ctx i).phase = .running then d.beginWait i .device else d

/-- The operation of the command is issued, or the chain's goes on. -/
def Dev.devIssue (d : Dev) (i : Nat) : Dev :=
  let x := d.ctx i
  let b := (d.scb i).binding
  if multiOp b then
    if bKind b = 1 ∧ x.ccw.op = opSENSE then
      d.setCtx i { x with data := (smGet d.lastCqe i (List.replicate 16 0)).take x.ccw.count.toNat, devEnd := some (0, false) }
    else if bKind b = 2 ∧ x.ccw.sink then d.pcieReads i 300
    else if bKind b = 2 then
      if x.ccw.count ≠ 0 then d
      else let d := d.pcieWrites i; if (d.ctx i).outTo = 1 then d.pcieWrites i else d
    else d.nvStep i
  else if !x.rest.isEmpty then
    let n := x.ccw.count.toNat
    d.setCtx i { x with data := x.rest.take n, rest := x.rest.drop n
                        devEnd := if x.ccw.cd ∧ n < x.rest.length then none else some (0, decide (n < x.rest.length)) }
  else if x.ops.isEmpty ∧ x.devEnd.isNone then
    match d.askSlot i with
    | none => d.beginWait i .slot
    | some _ =>
      let r := d.serveAtOnce i
      let d := r.2.issueOne i r.1
      if bKind b = 5 then d.uartCheck (bPort b) else d
  else d

/-- A device command is executed (step 7 of R145): whether its instance is usable, its stream, its operations (R173–R175). -/
def Dev.deviceOp (d : Dev) (i : Nat) : Dev :=
  let x := d.ctx i
  let c := x.ccw
  let b := (d.scb i).binding
  if x.phase = .running then ((d.devIssue i).devSettle i opFuel).waitDevice i
  else match d.notReady b c with
    | some code => d.raiseExc i xDEVICE (devstat (bKind b) code 0) c.count
    | none =>
      if d.mwForbids b c.op then d.raiseExc i xPROTECTION 0x8005 c.count
      else match d.knock (d.bindDom b) with
        | (.fenced, d) => d.raiseExc i xDEVICE (devstat (bKind b) codeNOTREADY 0) c.count
        | (.asleep, d) => d
        | (.ok, d) =>
          let asks := c.xf ∧ (d.stream i).isNone ∧ !x.succ
          let d := if asks then d.askStream i else d
          if asks ∧ (d.stream i).isNone then d
          else if c.xf ∧ (d.stream i).isNone then d.raiseExc i xDATA 0 c.count
          else
            let y := d.ctx i
            let y := { y with phase := .running, moved := 0, fed := 0, segs := [], devEnd := none, counting := true }
            let y := if x.succ ∧ !c.sink then y else { y with stage := 0, outTo := 0 }
            let d := (d.setCtx i y).openArea i
            ((d.devIssue i).devSettle i opFuel).waitDevice i

/-! ### Data requests of the paced ports (R178) -/

/-- Bytes of the head packet that a FIFO can give now. -/
def packetBytes : List Stage → Nat
  | [] => 0
  | s :: ss => if s.eop ∨ s.bad then s.data.length else s.data.length + packetBytes ss

/-- Stages that the first `n` bytes of a chain touch. -/
def stagesOf : Nat → List Stage → Nat
  | _, [] => 0
  | n, s :: ss => if n = 0 then 0 else 1 + stagesOf (n - s.data.length) ss

/-- PORT_DATA_REQUEST: the port can take or give `take` bytes; `data` are those that an I3C target or an SPI device sends. -/
def Dev.portRequest (d : Dev) (i take : Nat) (data : List Byte) : Dev :=
  let x := d.ctx i
  let b := (d.scb i).binding
  let st := (d.scb i).state
  if x.phase ≠ .running ∨ !(st = .waiting || st = .draining) ∨ !d.served i ∨ x.burst ≠ 0 ∨ (x.ccw.sink && !x.data.isEmpty) ∨ !x.outq.isEmpty ∨
      x.exc.isSome ∨ (x.frontOp.bind (·.res)).isSome ∨ d.gate (d.bindDom b) ≠ .ok ∨ !d.portOn b then d
  else
    let left := x.ccw.count.toNat - (if x.ccw.sink then x.moved else x.fed)
    match bKind b with
    | 5 =>
      let u := bPort b
      if x.ccw.op = opREAD then
        let k := min (min 256 take) (min left (leadBytes (d.uart u).rx).length)
        if k = 0 then d.uartCheck u
        else (d.setUart u { d.uart u with reserved := k }).setCtx i { x with burst := k }
      else if x.ccw.op = opWRITE then d.setCtx i { x with burst := min 256 (if x.ccw.xf then take else min take (left + x.data.length)) }
      else d
    | 7 =>
      let f := bQueue b
      let k := min (min 256 take) (min left (packetBytes (d.fifo f).chain))
      if x.ccw.op ≠ opREAD ∨ !d.fifoReady f then d
      else if k = 0 ∧ ((d.fifo f).chain.head?.map fun s => s.data.isEmpty && s.eop).getD false then
        -- nothing but the end of the packet is left
        match d.fifoTake f i with
        | (some s, d) => if s.bad then d.failSource i xDATA 0 else d.setOpRes i {}
        | (none, d) => d
      else if k ≠ 0 then
        (d.setFifo f { d.fifo f with reserved := stagesOf k (d.fifo f).chain }).setCtx i { x with burst := k }
      else d
    | _ =>
      if x.ccw.sink then
        let bs := data.take (min (min 256 take) left)
        d.setCtx i { x with data := bs, burst := bs.length }
      else d.setCtx i { x with burst := min 256 (if x.ccw.xf then take else min take (left + x.data.length)) }

/-! ### Completions (R142, R166, R176) -/

/-- The outcome of an operation that is complete on its device; none while it is not, with what its completion does there. -/
def Dev.outcome (d : Dev) (i : Nat) (o : DevOp) (r : DevResult) : Option (OpRes × Dev) :=
  let x := d.ctx i
  let c := x.ccw
  let b := (d.scb i).binding
  let moved := x.burst = 0 && x.data.isEmpty && x.outq.isEmpty
  let wholeIn := c.count.toNat = x.moved && !c.cd
  let wholeOut := x.allFed && !c.cd && moved
  if x.exc.isSome ∧ o.res.isNone ∧ [3, 4, 5, 7, 8].contains (bKind b) then
    -- nothing further is issued: the operation ends with what it has moved (R171)
    if x.burst = 0 then some ({}, d) else none
  else match bKind b with
  | 1 => o.res.map fun z => (z, d)
  | 2 =>
    -- the completion status: successful, poisoned, or UR or CA (R203)
    let code := fld r.status 16 12
    let bad : OpRes := { status := statCode 1 (if fld r.status 0 16 = 4 then 4 else 1) }
    match o.res with
    | some z => some (z, d)
    | none =>
      if !c.sink ∧ x.flushOp ≠ some o.id then some ({}, d)
      else if code ≠ 0 then some (bad, d)
      else if r.long then some ({ poison := true }, d)
      else if !c.sink then some ({}, d.countPcie i 4)
      else if r.data.length = o.len then some ({ data := r.data }, d.countPcie i o.len)
      else none
  | 3 =>
    let o' := 0x100 + 0x80 * bI3c b
    if !d.served i ∨ x.burst ≠ 0 then none
    else if fld r.status 16 12 = 6 then
      -- the address, or a written byte, is not acknowledged: `bytes` were before it (R205)
      let head := if c.op = opREAD ∨ c.op = opWRITE then fld c.param 60 4 else 0
      let acked := min r.bytes (head + (if c.sink then 0 else x.chainMoved + x.moved))
      let d := if c.sink then d else d.setCtx i { x with data := [], moved := min x.moved (acked - head - x.chainMoved) }
      some ({ status := statCode 6 (min acked 0xFFFF) }, d.bump pgI3C (o' + 0x20) 1 (o' + 0x2C) 0)
    else if moved ∧ (c.sink ∨ wholeOut) then some ({}, d.bump pgI3C (o' + 0x24) 1 (o' + 0x2C) 1)
    else none
  | 4 =>
    let s := bPort b
    if d.served i ∧ moved ∧ (if c.sink then wholeIn else wholeOut) then
      let d := d.setSpi s { d.spi s with cs := bCs b }
      -- with HOLD the transaction goes on (R206)
      some ({}, if bitAt c.mod_ 0 then d.setSpi s { d.spi s with heldBy := some i } else d.spiReleased s)
    else none
  | 5 =>
    match o.res with
    | some z => if moved then some (z, d) else none
    | none =>
      if !d.served i then none
      else
        let u := bPort b
        if c.op = opREAD then
          if wholeIn ∧ moved then some ({}, d.setUart u { d.uart u with rx := (d.uart u).rx.filter (· ≠ .brk) }) else none
        else if c.op = opWRITE then if wholeOut ∧ !(c.ord ∧ d.uartTxBusy u) then some ({}, d) else none
        else if d.breakOver u c o then some ({}, d.breakSent u) else none
  | 6 => if c.op = opCONTROL ∧ c.mod_ = 0 ∧ c.ord ∧ !d.gpioSettled (pinWord b (fld c.param 32 32)) then none
         else o.res.map fun z => (z, d)
  | 7 =>
    match o.res with
    | some z => if moved then some (z, d) else none
    | none =>
      if wholeIn ∧ moved ∧ !(d.fifo (bQueue b)).chain.isEmpty then
        some ({ long := true }, if bitAt c.mod_ 0 then d.fifoDropNow (bQueue b) else d)
      else none
  | _ =>
    let m := bMbox b
    if c.op = opSENSE then o.res.map fun z => (z, d)
    else if c.op = opREAD then
      if (d.mbox m).full then
        some ({ data := (d.mbox m).msg, long := decide (c.count.toNat < 16) }, (d.countWheelOp (m / 16) i).mboxRelease m)
      else none
    else if !x.allFed ∨ c.cd then none
    else if bitAt c.mod_ 0 ∧ (d.mbox m).full then none
    else match d.mboxPost i (ceAgent (i / 256)) m (bCore b) ((x.data ++ List.replicate 16 0).take 16) false with
      | (.accepted, d) => some ({}, d.setCtx i { d.ctx i with data := [] })
      | (.full, d) => some ({ status := statCode 0xA 0 }, d.setCtx i { d.ctx i with data := [] })
      | (.fenced, d) => some ({ status := statCode codeNOTREADY 0 }, d.setCtx i { d.ctx i with data := [] })

/-- The engine takes an operation's completion: its slot is free (R142, R143). -/
def Dev.takeOp (d : Dev) (i : Nat) (o : DevOp) (r : OpRes) : Dev :=
  let x := d.ctx i
  let d := d.setCtx i { x with ops := x.ops.map fun (p : DevOp) => if p.id = o.id then { p with taken := true, res := some r } else p }
  let d := if (d.scb i).state = .stopped ∨ (d.scb i).state = .idle then
      d.setCtx i { d.ctx i with ops := (d.ctx i).ops.filter fun p => p.id ≠ o.id } else d
  let d := d.grantSlot (i / 256)
  let d := d.devSettle i opFuel
  let y := d.ctx i
  if (d.scb i).state = .waiting ∧ (d.scb i).cause = .slot ∧ (y.exc.isSome || !y.counting) then d.subWait i .device else d

/-- The completion of a cleared subchannel's operation is discarded (R166). -/
def Dev.reapOne (d : Dev) (n sub : Nat) : Option Dev :=
  let g := d.eng n
  if d.isFenced (ceDom n) then none else match g.reaping.find? fun e => e.1 % 256 = sub with
  | none => none
  | some e =>
    let d := d.setEng n { g with reaping := g.reaping.erase e }
    some ((d.bump (pgCE + n) 0x064 1 0x074 0).grantSlot n)

/-- DEVICE_OPERATION_COMPLETE (R142). A fenced engine takes no completion: its slots go with its state at the CYCLE through OFF
(R166). -/
def Dev.opComplete (d : Dev) (n sub : Nat) (r : DevResult) : Dev :=
  match d.reapOne n sub with
  | some d => d
  | none =>
    if d.isFenced (ceDom n) then d else
    let i := n * 256 + sub
    match ((d.ctx i).ops.filter (!·.taken))[r.idx]? with
    | none => d
    | some o =>
      if d.gate (d.bindDom (d.scb i).binding) = .asleep then (d.knock (d.bindDom (d.scb i).binding)).2
      else match d.outcome i o r with
        | none => d
        | some (z, d) => d.takeOp i o z

/-- An NVMe command is past its timeout: its operation completes with TIMEOUT and its slot is free (R196). -/
def Dev.nvmeTimeout (d : Dev) (q : Nat) : Dev :=
  match d.overdue q with
  | none => d
  | some c =>
    let v := d.lq q
    let d := (d.setLq q { v with cmds := v.cmds.filter fun k => k.cid ≠ c.cid }).bump pgNVA 0x050 1 0x054 1
    let d := match ((d.ctx c.sub).ops.find? fun o => o.id = c.op && !o.taken) with
      | some o => d.takeOp c.sub o { status := statCode codeTIMEOUT 0 }
      | none =>
        let g := d.eng (c.sub / 256)
        if !d.isFenced (ceDom (c.sub / 256)) && g.reaping.contains (c.slot * 256 + c.sub % 256, c.cid.toNat) then
          ((d.setEng (c.sub / 256) { g with reaping := g.reaping.erase (c.slot * 256 + c.sub % 256, c.cid.toNat) }).bump
            (pgCE + c.sub / 256) 0x064 1 0x074 0).grantSlot (c.sub / 256)
        else d
    d.lqRelease q

/-- A read through a window has had no completion within MW_TMO (R203). -/
def Dev.pcieTimeout (d : Dev) (n sub idx : Nat) : Dev :=
  let i := n * 256 + sub
  let b := (d.scb i).binding
  let t := d.reg pgWCH (0x30C + 16 * bWindow b)
  match ((d.ctx i).ops.filter (!·.taken))[idx]? with
  | none => d
  | some o =>
    if bKind b = 2 ∧ ((d.ctx i).ccw.sink || (d.ctx i).flushOp = some o.id) ∧ t ≠ 0 ∧ (ds32Dur t).toNat ≤ (d.now - o.issued).toNat then
      d.takeOp i o { status := statCode codeTIMEOUT 0 }
    else d

/-- Every operation outstanding on downstream port `p` completes with LINK_DOWN (R196). -/
def Dev.portLost (d : Dev) (p : Nat) : Dev :=
  let on := fun (i : Nat) =>
    let b := (d.scb i).binding
    (bKind b = 1 && d.lqPort (bQueue b) = p) || (bKind b = 2 && d.rf pgWCH (0x308 + 16 * bWindow b) 24 3 = p)
  let d := { d with lqs := d.lqs.map fun (e : Nat × LentQ) => (e.1, if d.lqPort e.1 = p then { e.2 with cmds := [] } else e.2) }
  let hit := (d.ctxs.filter fun e => on e.1).flatMap fun e => (e.2.ops.filter (!·.taken)).map fun o => (e.1, o)
  let d := hit.foldl (fun d e => d.takeOp e.1 e.2 { status := statCode codeLINKDOWN 0 }) d
  (List.range 32).foldl (fun d q => d.lqRelease q) d

/-! ### Beats of a channel engine (R419) -/

/-- A response reaches a channel engine for a subchannel: its beats go on (R419). -/
def Dev.engineBeats (d : Dev) (i n : Nat) : Dev :=
  let op := (d.ctx i).ccw.op
  if d.gate (ceDom (i / 256)) ≠ .ok then d
  else if op = 0x20 ∨ op = 0x21 then d.moveBeats i n else if opREAD.toNat ≤ op.toNat then d.devBeats i n else d

/-- HOST_COMPLETION_RECEIVED for a channel engine: the reply, and the work that waited for it. -/
def Dev.engineHost (d : Dev) (i : Nat) (r : HostReply) : Dev := d.hostReply i r

end Sys2Proof.Machine
end

