-- ==== Sys2Proof/Machine/Ports.lean ====
section
/-!
DEFINITION. What happens on the pins of the slow ports: UART characters and breaks, SPI in the target role, I3C address
assignment and interrupts, GPIO levels, and the EC target port (R205–R223, R250, R251, R280).
-/

namespace Sys2Proof.Machine

/-- Activity on pins reaches a port's unit: fenced it sees nothing; asleep it begins to wake and takes the activity in its
latches (R292, R439). -/
def Dev.onPins (d : Dev) (dom : Nat) (f : Dev → Dev) : Dev :=
  match d.knock dom with
  | (.fenced, d) => d
  | (_, d) => f d

/-! ### UART -/

def uarOff (u o : Nat) : Nat := 0x100 + 0x40 * u + o

def Dev.uartOn (d : Dev) (u : Nat) : Bool := d.rb pgUAR (uarOff u 0) 31

/-- A counter of a UART and its sticky bit. -/
def Dev.uartCount (d : Dev) (u o b : Nat) : Dev := d.bump pgUAR (uarOff u o) 1 (uarOff u 0x30) b

/-- The receiver of a UART listens to its ball: in use, not looped, not within a break (R214). -/
def Dev.uartHears (d : Dev) (u : Nat) : Bool :=
  d.uartOn u && !d.rb pgUAR (uarOff u 0) 5 && !(d.uart u).inBreak

/-- An error is marked where it stands among the bytes, for the READ that reaches it (R209); a FIFO takes no mark. -/
def Dev.uartMark (d : Dev) (u : Nat) (x : RxItem) : Dev :=
  if (d.producerFifo 1 u).isSome then d else (d.setUart u { d.uart u with rx := (d.uart u).rx ++ [x] }).uartCheck u

/-- A character arrives on RX (R208, R209, R214, R280). -/
def Dev.uartChar (d : Dev) (u : Nat) (b : Byte) (framing parity : Bool) : Dev :=
  if !d.uartHears u then d
  else d.onPins 19 fun d =>
    let d := d.setUart u { d.uart u with pin := true, lastRx := d.now, since := d.now }
    if framing then (d.uartCount u 0x10 0).uartMark u .framing
    else if parity ∧ d.rf pgUAR (uarOff u 0) 2 2 ≠ 0 then (d.uartCount u 0x14 1).uartMark u .parity
    else d.uartReceive u b

/-- A break is recognised (R214). -/
def Dev.uartBreak (d : Dev) (u : Nat) : Dev :=
  if !d.uartHears u then d
  else d.onPins 19 fun d =>
    (d.setUart u { d.uart u with pin := false, inBreak := true }).breakSeen u

/-- RX returns high after a break (R214). -/
def Dev.uartBreakEnd (d : Dev) (u : Nat) : Dev :=
  if (d.uart u).inBreak then d.setUart u { d.uart u with pin := true, inBreak := false, since := d.now } else d

/-- The idle gap of the READ in progress expires (R208). -/
def Dev.uartIdleGap (d : Dev) (u : Nat) : Dev :=
  match d.uartReader u with
  | none => d
  | some i =>
    let x := d.ctx i
    let gap := ds32Dur (w32 (fld x.ccw.param 0 32))
    let from_ := max ((x.frontOp.map fun (o : DevOp) => o.issued).getD 0).toNat (d.uart u).lastRx.toNat
    if gap ≠ 0 ∧ gap.toNat ≤ d.now.toNat - from_ ∧ x.chainMoved + x.moved ≠ 0 ∧ x.burst = 0 ∧ x.data.isEmpty ∧
        (d.uart u).rx.isEmpty then d.setOpRes i {}
    else d

/-- The packet gap of a producing UART expires (R280). -/
def Dev.uartPacketGap (d : Dev) (u : Nat) : Dev :=
  let gap := ds32Dur (d.reg pgUAR (uarOff u 8))
  match d.producerFifo 1 u with
  | none => d
  | some f =>
    if gap ≠ 0 ∧ gap.toNat ≤ (d.now - (d.uart u).lastRx).toNat ∧ (d.fifo f).inPkt then d.fifoClose f false else d

/-! ### SPI, target role (R216) -/

def spiOff (s o : Nat) : Nat := 0x100 + 0x40 * s + o

def Dev.spiTarget (d : Dev) (s : Nat) : Bool := d.rf pgSPI (spiOff s 0) 30 2 = 3

/-- CS0_N asserts: a packet begins. -/
def Dev.spiSelect (d : Dev) (s : Nat) : Dev :=
  if !d.spiTarget s ∨ (d.spi s).tgtSel then d
  else d.onPins (17 + s / 2) fun d =>
    let d := d.setSpi s { d.spi s with tgtSel := true }
    match d.producerFifo 2 s with
    | some f => d.setFifo f { d.fifo f with inPkt := true, pktLen := 0 }
    | none => d

/-- One item of TGT_WIDTH bits arrives. -/
def Dev.spiItem (d : Dev) (s : Nat) (v : Word) : Dev :=
  if !d.spiTarget s ∨ !(d.spi s).tgtSel then d
  else d.onPins (17 + s / 2) fun d =>
    let n := 2 ^ d.rf pgSPI (spiOff s 0) 16 2
    let d := (d.wideAdd pgSPI (spiOff s 0x28) n).countSerial (regionTag 3) n
    match d.producerFifo 2 s with
    | some f => (leBytes n v.toNat).foldl (fun d b => (d.fifoByte f b).fifoDeferred f) d
    | none => d

/-- CS0_N releases: the packet ends, BAD where an item was left partial (R279). -/
def Dev.spiDeselect (d : Dev) (s : Nat) (partialItem : Bool) : Dev :=
  if !d.spiTarget s ∨ !(d.spi s).tgtSel then d
  else d.onPins (17 + s / 2) fun d =>
    let d := (d.setSpi s { d.spi s with tgtSel := false }).bump pgSPI (spiOff s 0x1C) 1 (spiOff s 0x30) 1
    match d.producerFifo 2 s with
    | some f => if (d.fifo f).inPkt ∨ partialItem then d.fifoClose f partialItem else d
    | none => d

/-! ### I3C (R217, R218) -/

def i3cOff (c o : Nat) : Nat := 0x100 + 0x80 * c + o

def Dev.dat (d : Dev) (c t : Nat) : Word := d.reg pgI3C (i3cOff c 0x40 + 4 * t)

/-- A transfer that has begun is in progress on a controller. -/
def Dev.i3cBusy (d : Dev) (c : Nat) : Bool :=
  d.ctxs.any fun e => bKind (d.scb e.1).binding = 3 && bI3c (d.scb e.1).binding = c && (e.2.ops.any fun o => !o.taken) &&
    decide (e.2.chainMoved + e.2.moved + e.2.fed + e.2.burst ≠ 0)

/-- The first `n` entries, in ascending order, that hold neither a static address nor an assignment. -/
def Dev.daaEntries (d : Dev) (c n : Nat) (taken : List Nat) : List Nat :=
  (((List.range 11).filter fun t => bitAt (d.dat c t) 31 && fld (d.dat c t) 0 7 = 0 && !taken.contains t)).take n

/-- Dynamic addresses are assigned: `acked` are the entries whose SETDASA a target acknowledged, `n` the targets that answered
ENTDAA (R217). -/
def Dev.i3cDaa (d : Dev) (c : Nat) (acked : BitVec 11) (n : Nat) : Dev :=
  let r := d.reg pgI3C (i3cOff c 0)
  if 5 ≤ c ∨ !bitAt r 31 ∨ bitAt r 29 ∨ !(d.i3c c).daaBusy ∨ d.i3cBusy c ∨ d.gate (14 + c / 2) ≠ .ok then d
  else
    let st := (List.range 11).filter fun t =>
      bitAt (d.dat c t) 31 && !bitAt (d.dat c t) 7 && fld (d.dat c t) 0 7 ≠ 0 && bitAt acked t
    let a := (d.i3c c).assigned ++ st.filter fun t => !(d.i3c c).assigned.contains t
    let v := d.i3c c
    d.setI3c c { v with daaBusy := false, assigned := a ++ d.daaEntries c n a }

/-- A target raises an in-band interrupt; the controller reads its mandatory byte and at most 7 further bytes (R205, R218). -/
def Dev.i3cIbi (d : Dev) (c addr : Nat) (offered : List Byte) : Dev :=
  let payload := offered.take 8
  if 5 ≤ c ∨ !d.rb pgI3C (i3cOff c 0) 31 then d
  else d.onPins (14 + c / 2) fun d =>
    let v := d.i3c c
    let accept := (List.range 11).any fun t =>
      bitAt (d.dat c t) 31 && bitAt (d.dat c t) 30 && fld (d.dat c t) 16 8 = addr
    if !accept then
      let k := smGet v.unaccepted addr 0 + 1
      d.setI3c c { v with unaccepted := smSet v.unaccepted addr (if k = 3 then 0 else k) 0 }
    else match d.producerFifo 3 c with
      | some f =>
        if v.ibiValid then d else
        let d := (d.bump pgI3C (i3cOff c 0x28) 1 (i3cOff c 0x2C) 2).countSerial (regionTag 3) payload.length
        (payload.foldl (fun d b => d.fifoByte f b) d).fifoClose f false
      | none =>
        if v.ibiValid then d
        else
          let d := (d.bump pgI3C (i3cOff c 0x28) 1 (i3cOff c 0x2C) 2).countSerial (regionTag 3) payload.length
          (d.setI3c c { v with ibiValid := true, ibiAddr := BitVec.ofNat 7 addr, ibi := payload }).raiseEvent (288 + c)

/-- A bus error is seen by controller `c` (I3C.BUS_ERR). -/
def Dev.i3cBusError (d : Dev) (c : Nat) : Dev :=
  if d.rb pgI3C (i3cOff c 0) 31 then d.setRf pgI3C 0x04C c 1 1 else d

/-! ### GPIO (R220) -/

/-- A pin's level is taken: the edge that SENSE selects is an occurrence. -/
def Dev.gpioTake (d : Dev) (k : Nat) (v : Bool) : Dev :=
  if bitAt d.gpi.level k = v then d
  else
    let d := { d with gpi := { d.gpi with level := withBit d.gpi.level k v } }
    let s := d.rf pgGPI (0x100 + 4 * k) 0 2
    if s = 3 ∨ (s = 1 ∧ v) ∨ (s = 2 ∧ !v) then
      ((d.bump pgGPI 0x058 1 0x05C 0).count 3 2 (regionTag 3) 1).raiseEvent (64 + k)
    else d

/-- The GPIO unit senses in DOZE; deeper, or fenced, it does not (R220, R439). -/
def Dev.gpioSenses (d : Dev) : Bool :=
  let u := d.dom 20
  !d.isFenced 20 && u.state ≠ .nap && u.state ≠ .off && !u.cycling

/-- A pin changes level. -/
def Dev.gpioChange (d : Dev) (k : Nat) (v : Bool) : Dev :=
  let d := if bitAt d.gpi.raw k = v then d
    else { d with gpi := { d.gpi with raw := withBit d.gpi.raw k v, since := smSet d.gpi.since k d.now 0 } }
  if d.gpioSenses ∧ !d.rb pgGPI (0x100 + 4 * k) 5 then d.gpioTake k v else d

/-- A debounced pin has held its level for DEBOUNCE. -/
def Dev.gpioDebounce (d : Dev) (k : Nat) : Dev :=
  if d.gpioSenses ∧ d.rb pgGPI (0x100 + 4 * k) 5 ∧
      d.rf pgGPI 0x054 0 16 * 256 ≤ (d.now - smGet d.gpi.since k 0).toNat then d.gpioTake k (bitAt d.gpi.raw k)
  else d

/-! ### The EC target port (R222, R223, R250, R251) -/

def Dev.ecpOn (d : Dev) : Bool := d.rb pgECP 0x040 31
def Dev.ecpDyn (d : Dev) : Nat := d.rf pgECP 0x040 0 7

/-- A counter of the port, left alone while the port is fenced. -/
def Dev.ecpCount (d : Dev) (o b : Nat) : Dev := if d.isFenced 24 then d else d.bump pgECP o 1 0x070 b

/-- A CCC is received. -/
def Dev.ecpCcc (d : Dev) (code : Nat) (f : Dev → Dev) : Dev :=
  if d.ecpOn then f (d.setReg pgECP 0x074 (w32 code)) else d

/-- The dynamic address becomes `a`; 0 drops it. -/
def Dev.ecpAddr (d : Dev) (a : Nat) : Dev := (d.setRf pgECP 0x040 0 7 a).ecpCount 0x06C 5

/-- A private read by the EC of at most `n` bytes (R222, R223, R250): the bytes it gets. -/
def Dev.ecRead (d : Dev) (n : Nat) : Dev :=
  if !d.ecpOn ∨ n = 0 then d
  else
    let b := d.urgentByte
    if d.isFenced 24 then d.respond [b.zeroExtend 32]
    else
      let i := d.reg pgECP 0x054
      let d := (d.bump pgECP 0x058 1 0x070 0).countSerial (regionTag 3) 1
      if bitAt i 31 then
        let k := min (n - 1) (32 - fld i 0 5)
        let bs := (List.range k).map fun j =>
          w32 (d.rf pgECP (0x100 + (fld i 0 5 + j) / 4 * 4) (8 * ((fld i 0 5 + j) % 4)) 8)
        (d.setReg pgECP 0x054 (w32 ((fld i 0 5 + k) % 32))).respond (b.zeroExtend 32 :: bs)
      else d.respond [b.zeroExtend 32]

/-- A private write by the EC (R223). -/
def Dev.ecWrite (d : Dev) (bs : List Byte) : Dev :=
  if !d.ecpOn ∨ d.isFenced 24 then d
  else
    let d := d.bump pgECP 0x05C 1 0x070 1
    match bs with
    | [v] =>
      if v = 0 then d.setRf pgECP 0x054 31 1 0
      else if v.toNat ≤ 32 then d.setReg pgECP 0x054 (w32 (2 ^ 31 + (v.toNat - 1)))
      else d.bump pgECP 0x068 1 0x070 4
    | _ => d.bump pgECP 0x068 1 0x070 4

/-- The pins without debounce have the level of their balls while the unit senses, also after a change of PIN_CFG or a time in which
it did not sense (R220). -/
def Dev.gpioFollow (d : Dev) : Dev :=
  if d.gpi.raw = d.gpi.level ∨ !d.gpioSenses then d
  else (List.range 32).foldl (fun d k => if d.rb pgGPI (0x100 + 4 * k) 5 then d else d.gpioTake k (bitAt d.gpi.raw k)) d

/-- The port raises its in-band interrupt at bus idle; `ack`: the EC acknowledges it, and reads the urgent byte as it stands as the
mandatory data byte (R222, R251). -/
def Dev.ecIbi (d : Dev) (ack : Bool) : Dev :=
  if !d.ecp.ibiPend ∨ !d.ecpOn ∨ d.ecpDyn = 0 ∨ !d.rb pgECP 0x040 23 ∨ d.ecp.disec then d
  else if ack then ({ d with ecp := { d.ecp with ibiPend := false, tries := 0 } }.respond [d.urgentByte.zeroExtend 32]).ecpCount 0x060 2
  else
    let t := d.ecp.tries + 1
    ({ d with ecp := { d.ecp with ibiPend := decide (t < 3), tries := if t < 3 then t else 0 } }).ecpCount 0x064 3

end Sys2Proof.Machine
end

