-- ==== Sys2Proof/Machine/Links.lean ====
section
/-!
DEFINITION. PCIe links and the lanes behind them: link state and its events (R522–R524), latency reports (R525, R526),
errors (R517, R528), and the lane PHYs (R531).
-/

namespace Sys2Proof.Machine

/-! ### Ports: 0 to 5 downstream, 6 upstream (R461) -/

/-- Page and offset of a port's link state word (R529). -/
def portPage (p : Nat) : Nat := if p = 6 then pgPUP else pgPDN + p
def portStat (p : Nat) : Nat := if p = 6 then 0x040 else 0x044

/-- The function of a port. -/
def portFn (p : Nat) : Nat := if p = 6 then cfUp else cfDn + p

/-- The domain of a port. -/
def portDom (p : Nat) : Nat := if p = 6 then 3 else 8 + p

/-- The lanes wired to a port (zone A of the ball map). -/
def portLanes (p : Nat) : List Nat :=
  if p = 6 then [0, 1, 2, 3] else if p = 0 then [4, 5, 6, 7] else if p = 1 then [8, 9, 10, 11] else [10 + p]

def Dev.linkActive (d : Dev) (p : Nat) : Bool := d.rb (portPage p) (portStat p) 0

/-- PMSTATE of a port's link: 0 L0, 1 L1, 2 L1.1, 3 L1.2, 5 down. -/
def Dev.pmState (d : Dev) (p : Nat) : Nat := d.rf (portPage p) (portStat p) 4 4

/-- A port's link state takes a width, a speed and a power state. -/
def Dev.setLink (d : Dev) (p width speed pm : Nat) (up : Bool) : Dev :=
  d.setRf (portPage p) (portStat p) 0 16 (fput 12 4 width + fput 8 4 speed + fput 4 4 pm + b2n up)

/-! ### Levels and events (R523) -/

/-- The level of a link event. -/
def Dev.linkNow (d : Dev) (e : Nat) : Bool :=
  if e < 262 then d.rb (pgPDN + (e - 256)) 0x044 16
  else if e < 268 then d.linkActive (e - 262)
  else if e < 274 then d.rb (pgPDN + (e - 268)) 0x040 31 && !d.linkActive (e - 268)
  else if e = 274 then d.linkActive 6 && d.pmState 6 = 0
  else d.inD3

/-- A link event's level follows the link; its rise is an occurrence, and an entry into LINK_DOWN a fault event as well. -/
def Dev.syncLink (d : Dev) (e : Nat) : Dev :=
  let new := d.linkNow e
  if new = smGet d.linkLevel e false then d
  else
    let d := { d with linkLevel := smSet d.linkLevel e new false }
    if !new then d
    else
      let d := d.raiseEvent e
      if 268 ≤ e ∧ e < 274 then
        let p := e - 268
        (d.bump (pgPDN + p) 0x048 1 0x04C 0).raiseFault
          { kind := 19, page := pgPDN + p, source := p, info := 0, unit := some (8 + p) }
      else d

/-- Every link event's level follows its link. -/
def Dev.syncLinks (d : Dev) : Dev := (rangeFrom 256 20).foldl Dev.syncLink d

/-! ### Lanes (R531) -/

def lstatOff (l : Nat) : Nat := 0x400 + 16 * l
def leqOff (l : Nat) : Nat := 0x404 + 16 * l
def lmargOff (l : Nat) : Nat := 0x408 + 16 * l
def qstatOff (q : Nat) : Nat := 0x104 + 32 * q
def zcalOff (q : Nat) : Nat := 0x108 + 32 * q

/-- A lane carries no symbols: it is in no trained link, or in electrical idle. -/
def Dev.laneIdle (d : Dev) (l : Nat) : Bool := !d.rb pgPHY (qstatOff (l / 4)) (4 + l % 4) || d.rb pgPHY (lstatOff l) 9

/-- The impedance codes of a quad are measured (log 11). -/
def Dev.zcal (d : Dev) (q : Nat) : Dev :=
  let r := d.free
  (r.2.setReg pgPHY (zcalOff q) (w32 (fld r.1 0 16))).setRf pgPHY (qstatOff q) 2 1 1

/-- Pending calibrations run on quads whose lanes are all in electrical idle. -/
def Dev.zcalPending (d : Dev) : Dev :=
  let due := d.links.zcal.filter fun q => (rangeFrom (4 * q) 4).all d.laneIdle
  let d := due.foldl Dev.zcal d
  { d with links := { d.links with zcal := d.links.zcal.filter fun q => !due.contains q } }

/-- RECAL of a quad is written. -/
def Dev.recal (d : Dev) (q : Nat) : Dev :=
  { d with links := { d.links with zcal := q :: d.links.zcal.filter (· ≠ q) } }.zcalPending

/-- A lane trains as lane `k` of a link of `width` lanes: what it measures are free values (log 11). -/
def Dev.trainLane (d : Dev) (link width speed : Nat) (rev : Bool) (k l : Nat) : Dev :=
  let a := d.free
  let b := a.2.free
  let n := if rev then width - 1 - k else k
  let d := b.2.setReg pgPHY (lstatOff l)
    (w32 (fput 24 8 (fld a.1 0 8) + fput 20 4 link + fput 16 4 n + fput 12 4 speed + fput 11 1 (fld a.1 8 1) +
      fput 10 1 (b2n rev) + fput 8 1 1))
  let d := d.setReg pgPHY (leqOff l) (w32 (fput 8 24 (fld a.1 16 24) + fput 0 4 (fld a.1 48 8 % 11)))
  let d := if 3 ≤ speed then
      (List.range 8).foldl (fun d i =>
        let r := d.free
        r.2.setReg pgPHY (0x600 + 4 * (8 * l + i)) (w32 (fput 20 4 (fld r.1 16 16 % 11) + fld r.1 0 16))) d
    else d
  d.setRf pgPHY (qstatOff (l / 4)) (4 + l % 4) 1 1

/-- The lanes of a port's link train. -/
def Dev.trainLanes (d : Dev) (p width speed : Nat) : Dev :=
  let ls := (portLanes p).take width
  let q := ((portLanes p).headD 0) / 4
  let r := (d.setRf pgPHY (qstatOff q) 0 2 3).free
  let rev := r.1.getLsbD 0
  (List.range ls.length).foldl (fun d k => d.trainLane (if p = 6 then 0 else 1 + p) ls.length speed rev k (ls.getD k 0))
    (r.2.zcal q)

/-- Electrical idle of the lanes of a port's link begins or ends. -/
def Dev.idleLanes (d : Dev) (p : Nat) (b : Bool) : Dev :=
  let d := ((portLanes p).filter fun l => d.rb pgPHY (qstatOff (l / 4)) (4 + l % 4)).foldl
    (fun d l => d.setRf pgPHY (lstatOff l) 9 1 (b2n b)) d
  if b then d.zcalPending else d

/-- The lanes of a port's link leave it. -/
def Dev.dropLanes (d : Dev) (p : Nat) : Dev :=
  let d := (portLanes p).foldl (fun d l =>
    (d.setReg pgPHY (lstatOff l) 0x00F00200).setRf pgPHY (qstatOff (l / 4)) (4 + l % 4) 1 0) d
  d.zcalPending

/-- The limit of a margining run of a kind: 32 steps of timing, 40 of voltage. -/
def marginLimit (volt : Bool) : Nat := if volt then 40 else 32

/-- The port whose link a lane serves. -/
def Dev.lanePort (l : Nat) : Nat := if l < 4 then 6 else if l < 8 then 0 else if l < 12 then 1 else l - 10

/-- LMARG.GO starts a run on a lane whose link is in L0. -/
def Dev.marginStart (d : Dev) (l : Nat) : Dev :=
  if d.links.margin.contains l ∨ d.laneIdle l ∨ d.pmState (Dev.lanePort l) ≠ 0 then d
  else
    let d := { d with links := { d.links with margin := l :: d.links.margin } }
    let w := d.reg pgPHY (lmargOff l)
    d.setReg pgPHY (lmargOff l) (w &&& 0x6FF00000)

/-- A run ends: the steps it took and the errors it saw, held to its request and to 4 errors. -/
def Dev.marginDone (d : Dev) (l steps errors : Nat) : Dev :=
  if d.links.margin.contains l then
    let d := { d with links := { d.links with margin := d.links.margin.filter (· ≠ l) } }
    let w := d.reg pgPHY (lmargOff l)
    d.setReg pgPHY (lmargOff l) ((w &&& 0x6FF00000) |||
      w32 (fput 31 1 1 + fput 28 1 (b2n (4 ≤ errors)) + fput 12 8 (min steps (fld w 20 8)) + min errors 4))
  else d

/-! ### Link state changes -/

/-- A port's link reaches L0: it trains, or leaves L1. -/
def Dev.linkUp (d : Dev) (p width speed : Nat) : Dev :=
  if d.linkActive p then
    ((d.setRf (portPage p) (portStat p) 4 4 0).idleLanes p false).syncLinks
  else if (width = 1 ∨ width = 2 ∨ width = 4) ∧ width ≤ (portLanes p).length ∧ 1 ≤ speed ∧ speed ≤ 4 then
    ((d.setLink p width speed 0 true).trainLanes p width speed).syncLinks
  else d

/-- A port's link goes down. -/
def Dev.linkDrop (d : Dev) (p : Nat) : Dev :=
  let d := (d.setLink p 0 0 5 false).dropLanes p
  if p = 6 then d.syncLinks else (d.portLost p).syncLinks

/-- A downstream port's reset pin is asserted: PERST_REL clears and its link is down (R497, R522). -/
def Dev.portDown (d : Dev) (p : Nat) : Dev := (d.setRf (pgPDN + p) 0x040 31 1 0).linkDrop p

/-- Traffic brings a port's link back to L0 (R524). -/
def Dev.linkWake (d : Dev) (p : Nat) : Dev :=
  if d.linkActive p ∧ d.pmState p ≠ 0 then d.linkUp p 0 0 else d

/-- ASPM allows a state of L1 on a port's link: 0 L1, 1 L1.1, 2 L1.2 (R524). -/
def Dev.l1Allowed (d : Dev) (p s : Nat) : Bool :=
  bitAt (d.cfgHeld (portFn p) cdLinkCtl) 1 &&
    (s = 0 || bitAt (d.cfgHeld (portFn p) 0x5A) (4 - s) && (p = 6 || !d.rb (pgPDN + p) 0x044 17))

/-- A link that has been idle for L1_IDLE enters L1 (R524). -/
def Dev.linkL1 (d : Dev) (p s : Nat) : Dev :=
  if d.linkActive p ∧ d.pmState p = 0 ∧ d.l1Allowed p s ∧ !(p = 6 ∧ d.pacer.ptmBusy) then
    ((d.setRf (portPage p) (portStat p) 4 4 (1 + s)).idleLanes p true).syncLinks
  else d

/-! ### Latency reports (R525, R526) -/

/-- DS32 units in whole nanoseconds. -/
def dsNs (t : Nat) : Nat := t * 256 * 10 ^ 9 / 2 ^ 32

/-- A latency field: the smallest scale that holds the value (R526). -/
def ltrField (l : Nat) : Nat :=
  let s := ((List.range 6).find? fun s => l / 32 ^ s ≤ 1023).getD 5
  0x8000 + s * 1024 + l / 32 ^ s % 1024

/-- The latency that a Max Latency field of the host allows. -/
def ltrMaxNs (f : Nat) : Nat := f % 1024 * 32 ^ (f / 1024 % 8)

/-- The message that reports the present latency (R525). -/
def Dev.ltrMessage (d : Dev) : Word :=
  if !d.hostOpen then 0
  else
    let rs := (List.range 128).filter fun r => d.ringEn r && d.ringMirror r && !d.merr r
    let ts := rs.map fun r => if d.ringUrg r then 0 else (d.reg pgHIF (0x800 + 4 * r)).toNat
    let hi := d.rf pgPUP 0x048 16 16 * 1000
    let lo := d.rf pgPUP 0x048 0 16 * 1000
    let l := match ts with
      | [] => hi
      | t :: ts => max lo (min hi (dsNs (ts.foldl min t) - d.rf pgPUP 0x04C 0 16 * 1000))
    let m := d.cfgHeld cfUp 0x55
    let f := ltrField (min l (min (ltrMaxNs (fld m 0 13)) (ltrMaxNs (fld m 16 13))))
    w32 (f + f * 65536)

/-- An LTR message is sent where the reported latency has changed (R525). -/
def Dev.sendLtr (d : Dev) : Dev :=
  if bitAt (d.cfgHeld cfUp cdDevCtl2) 10 ∧ d.linkActive 6 then
    let m := d.ltrMessage
    if d.links.ltr = some m then d
    else
      let d := d.linkWake 6
      ({ d with links := { d.links with ltr := some m } }.setReg pgPUP 0x050 m).bump pgPUP 0x054 1 0x05C 0
  else d

/-! ### Errors (R517, R528) -/

/-- The AER bit of an error: correctable, or uncorrectable. -/
def aerBit : PcieError → Bool × Nat
  | .receiver => (false, 0)
  | .badTlp => (false, 6)
  | .badDllp => (false, 7)
  | .replayRollover => (false, 8)
  | .replayTimer => (false, 12)
  | .poisonedTlp => (true, 12)
  | .completionTimeout => (true, 14)
  | .completerAbort => (true, 15)
  | .unexpectedCompletion => (true, 16)
  | .receiverOverflow => (true, 17)
  | .malformedTlp => (true, 18)
  | .unsupportedRequest => (true, 20)
  | .acsViolation => (true, 21)

/-- Errors that AER may treat as Advisory Non-Fatal. -/
def advisory : PcieError → Bool
  | .poisonedTlp => true
  | .completionTimeout => true
  | .completerAbort => true
  | .unexpectedCompletion => true
  | .unsupportedRequest => true
  | _ => false

/-- A bit of a configuration status word is set. -/
def Dev.aerSet (d : Dev) (fn dw i : Nat) : Dev := d.setCfg fn dw (d.cfgHeld fn dw ||| w32 (2 ^ i))

/-- A port detects an error (R528): what its function logs, and the fault event. -/
def Dev.pcieError (d : Dev) (p : Nat) (x : PcieError) : Dev :=
  let fn := portFn p
  let b := aerBit x
  let ev := fun k (i : Nat) => { kind := k, page := portPage p, source := p, info := w32 (2 ^ i),
                                 unit := some (portDom p) : FaultEv }
  if !b.1 then ((d.aerSet fn 0x44 b.2).aerSet fn cdDevCtl 16).raiseFault (ev 17 b.2)
  else
    let fatal := bitAt (d.cfgHeld fn 0x43) b.2
    if advisory x ∧ !fatal then
      let d := (d.aerSet fn 0x44 13).aerSet fn cdDevCtl 16
      let d := if bitAt (d.cfgHeld fn 0x45) 13 then d else d.aerSet fn 0x41 b.2
      d.raiseFault (ev 17 13)
    else
      let d := (d.aerSet fn 0x41 b.2).aerSet fn cdDevCtl (if fatal then 18 else 17)
      if p = 6 ∧ (x = .malformedTlp ∨ x = .receiverOverflow) then
        d.raiseFault { kind := 30, page := pgHUB, source := 6, info := w32 (2 ^ b.2), unit := none }
      else d.raiseFault (ev 18 b.2)

/-- The event that a failed upstream read is (R517). -/
def Dev.replyError (d : Dev) (r : HostReply) : Dev :=
  match r.status with
  | .ok => d
  | .poisoned => d.pcieError 6 .poisonedTlp
  | .refused => d.pcieError 6 .unsupportedRequest
  | .aborted => d.pcieError 6 .completerAbort
  | .timeout => d.pcieError 6 .completionTimeout

/-- The halt shows in AER as an Uncorrectable Internal Error of the coprocessor function (R477, R528). -/
def Dev.internalError (d : Dev) : Dev := (d.aerSet cfEp 0x41 22).aerSet cfEp cdDevCtl 18

end Sys2Proof.Machine
end

