-- ==== Sys2Proof/Machine/Movers.lean ====
section
/-!
DEFINITION. The data movers: channels and their registers, runs, descriptors, the funnel, overlap, completion and notices
(R253–R276).
-/

namespace Sys2Proof.Machine

def Dev.mover (d : Dev) (n : Nat) : Mover := smGet d.movers n {}
def Dev.setMover (d : Dev) (n : Nat) (v : Mover) : Dev := { d with movers := smSet d.movers n v {} }
/-- Channel `c` of mover `n` is number 8n + c. -/
def Dev.mchan (d : Dev) (k : Nat) : MvChan := smGet d.mchans k {}
def Dev.setMchan (d : Dev) (k : Nat) (v : MvChan) : Dev := { d with mchans := smSet d.mchans k v {} }

/-- Page and register offset of channel `k` of all 128. -/
def mvPage (k : Nat) : Nat := pgWDM + k / 16
def mvOff (k o : Nat) : Nat := 0x100 + 0x20 * (k % 16) + o

def Dev.mvCfg (d : Dev) (k : Nat) : Word := d.reg (mvPage k) (mvOff k 8)
def Dev.mvBase (d : Dev) (k : Nat) : Nat := (d.reg (mvPage k) (mvOff k 0)).toNat + d.rf (mvPage k) (mvOff k 4) 0 16 * 2 ^ 32
def Dev.mvSize (d : Dev) (k : Nat) : Nat := 2 ^ fld (d.mvCfg k) 0 4
def Dev.mvEn (d : Dev) (k : Nat) : Bool := bitAt (d.mvCfg k) 31
def Dev.mvBrake (d : Dev) (k : Nat) : Bool := bitAt (d.mvCfg k) 30

/-! ### Channel registers (R254–R256, R271) -/

/-- The state that a channel takes as its brake is released (R271). -/
def Dev.mvRest (d : Dev) (k : Nat) : MvState := if (d.mchan k).head ≠ (d.mchan k).tail then .ready else .idle

/-- The state that a TAIL write gives a channel outside a run (R256). -/
def Dev.mvHanded (d : Dev) (k : Nat) : MvState := if d.mvBrake k then .idle else d.mvRest k

/-- EN = 1 may be written (R255). -/
def Dev.mvEnOk (d : Dev) (k : Nat) (cfg : Word) : Bool :=
  let n := fld cfg 0 4
  let a := d.mvBase k
  decide (2 ≤ n ∧ n ≤ 12) &&
  (match rangeOf a, rangeOf (a + 32 * 2 ^ n - 1) with
   | .sram .none, .sram .none => true
   | .xram w .none, .xram w' .none => w = w'
   | _, _ => false)

/-- A write of CH_CFG (R254, R255, R271), none where it is discarded: EN = 1 resets an OFF channel; EN = 0 acts as a brake, and a
channel outside a run is OFF at once; BRAKE brakes a READY channel, and its release makes it READY or IDLE. -/
def Dev.mvCfgWrite (d : Dev) (k : Nat) (v : Word) : Option Dev :=
  let old := d.mvCfg k
  let c := d.mchan k
  let en := bitAt v 31
  let brake := bitAt v 30
  if fld v 0 4 ≠ fld old 0 4 ∧ (bitAt old 31 ∨ c.state ≠ .off) then none
  else if en ∧ !bitAt old 31 ∧ (c.state ≠ .off ∨ !d.mvEnOk k v) then none
  else
    let d := d.setReg (mvPage k) (mvOff k 8) (v &&& 0xC000000F)
    some (
      if en ∧ !bitAt old 31 then
        d.setMchan k { c with head := 0, tail := 0, crc := 0xFFFFFFFF, stalled := false, state := .idle }
      else if c.state = .running ∨ c.state = .off then d
      else if !en then d.setMchan k { c with state := .off }
      else if brake ∧ c.state = .ready then d.setMchan k { c with state := .braked }
      else if !brake ∧ bitAt old 30 then d.setMchan k { c with state := d.mvRest k }
      else d)

/-- A write of CH_TAIL (R256): none where it is discarded. -/
def Dev.mvTailWrite (d : Dev) (k : Nat) (v : Word) : Option Dev :=
  let c := d.mchan k
  if !d.mvEn k ∨ d.mvSize k ≤ v.toNat then none
  else
    let c := { c with tail := v.toNat, stalled := false }
    let d := d.setMchan k c
    if c.state = .running then some d else some (d.setMchan k { c with state := d.mvHanded k })

/-- MV_STAT and CH_HEAD (WDM). -/
def Dev.mvStat (d : Dev) (n : Nat) : Word := w32 (fput 8 1 (b2n (d.mover n).running) + fput 0 3 (d.mover n).chan)

def MvState.code : MvState → Nat
  | .off => 0
  | .idle => 1
  | .ready => 2
  | .running => 3
  | .braked => 4
  | .error => 5

def Dev.mvHead (d : Dev) (k : Nat) : Word :=
  let c := d.mchan k
  w32 (fput 29 3 c.state.code + fput 28 1 (b2n c.stalled) + fput 0 12 c.head)

/-! ### Descriptors (R257, R260, R264, R267, R274) -/

def mdCtrl (b : List Byte) : Word := w32 (fieldAt b 0 4)
def mdCount (b : List Byte) : Nat := fieldAt b 4 4
def mdSrc (b : List Byte) : Nat := fieldAt b 8 8
def mdDst (b : List Byte) : Nat := fieldAt b 0x10 8
def mdSwap (b : List Byte) : Nat := fld (mdCtrl b) 26 2
def mdOrd (b : List Byte) : Bool := bitAt (mdCtrl b) 25
def mdLast (b : List Byte) : Bool := bitAt (mdCtrl b) 24
def mdNotice (b : List Byte) : Bool := bitAt (mdCtrl b) 30
def mdStream (b : List Byte) : Bool := fld (mdCtrl b) 28 2 = 1
def mdCrc (b : List Byte) : Bool := fld (mdCtrl b) 14 2 = 1

/-- Bytes of a wrap window; 0 where the side is linear. -/
def wrapSize (n : Nat) : Nat := if n = 0 then 0 else 2 ^ (n + 7)
def mdSrcW (b : List Byte) : Nat := wrapSize (fld (mdCtrl b) 20 4)
def mdDstW (b : List Byte) : Nat := wrapSize (fld (mdCtrl b) 16 4)

/-- Address of stream byte `k` on a side (R267). -/
def sideAddr (a w k : Nat) : Nat := if w = 0 then a + k else a / w * w + (a + k) % w

/-- The unit of a swap mode (R266). -/
def swapUnit (s : Nat) : Nat := if s = 0 then 1 else if s = 1 then 2 else 4

/-- Source offset of stream byte `j` (R266). -/
def swapFrom (s j : Nat) : Nat :=
  if s = 1 then (if j % 2 = 0 then j + 1 else j - 1)
  else if s = 2 then 4 * (j / 4) + 3 - j % 4
  else if s = 3 then (if j % 4 < 2 then j + 2 else j - 2)
  else j

/-- A run of whole units swapped. -/
def swapBytes (s : Nat) (bs : List Byte) : List Byte := (List.range bs.length).map fun j => bs.getD (swapFrom s j) 0

/-- A device address with bits 46 and 45 cleared (R274). -/
def aliasFree (a : Nat) : Nat := a % 2 ^ 45 + a / 2 ^ 47 * 2 ^ 47

/-- The start addresses of the contiguous parts of a side. -/
def sideParts (a w n : Nat) : List (Nat × Nat) :=
  let a := aliasFree a
  if w = 0 then [(a, n)]
  else if w ≤ n then [(a / w * w, w)]
  else if a % w + n ≤ w then [(a, n)]
  else [(a, w - a % w), (a / w * w, a % w + n - w)]

/-- Source and destination share a byte (R274). -/
def mdOverlap (b : List Byte) : Bool :=
  (sideParts (mdSrc b) (mdSrcW b) (mdCount b)).any fun p =>
    (sideParts (mdDst b) (mdDstW b) (mdCount b)).any fun q => decide (p.1 < q.1 + q.2 ∧ q.1 < p.1 + p.2)

/-- An overlapped transfer runs descending. -/
def mdDown (b : List Byte) : Bool := mdSrcW b = 0 && mdDstW b = 0 && decide (aliasFree (mdSrc b) < aliasFree (mdDst b))

/-- R260. -/
def mdInvalid (b : List Byte) : Bool :=
  let c := mdCtrl b
  fld c 0 12 ≠ 0 || 2 ≤ fld c 28 2 || 2 ≤ fld c 14 2 || mdCount b = 0 || (mdStream b && mdCount b % 2 = 1) ||
    mdCount b % swapUnit (mdSwap b) ≠ 0 || decide (2 ^ 48 ≤ mdSrc b) || decide (2 ^ 48 ≤ mdDst b) ||
    (mdCrc b && mdOverlap b && mdDown b)

/-- ERR values. -/
abbrev mvSRCADDR : Nat := 2
abbrev mvSRCPROT : Nat := 4

/-- The error that a range gives an access of mover `n` (R264): the source's code, one more for the destination. An access that arrives
during a wipe is judged at its end (R409). -/
def Dev.mvErr (d : Dev) (n : Nat) (write : Bool) (a : Nat) : Option Nat :=
  let w := b2n write
  match rangeOf a with
  | .sram _ => none
  | .xram _ _ => none
  | .caddy => if d.caddy.wiping ∨ d.caddyGrants (0x60 + n) then none else some (mvSRCPROT + w)
  | .lram g => if g = agKettle then some (mvSRCPROT + w) else none
  | .dram => if d.dramHas a then none else some (mvSRCADDR + w)
  | .hostwin =>
    match d.hostXlate write a with
    | .ok _ => none
    | .error .asleep => some 6
    | .error .invalid => some (mvSRCADDR + w)
    | .error _ => some (mvSRCPROT + w)
  | .unmapped => some (mvSRCADDR + w)
  | _ => some (mvSRCPROT + w)

/-- The row of R264 that holds an address. -/
def Dev.mvRow (d : Dev) (a : Nat) : Nat :=
  match rangeOf a with
  | .sram al => if al = .none then 20 else 21
  | .xram _ al => if al = .none then 20 else 21
  | _ => d.useRow a

/-- A wrapped side's window leaves its row (R267). Ranges begin at multiples of 32 KiB. -/
def Dev.windowCrosses (d : Dev) (a w : Nat) : Bool :=
  let b := a / w * w
  w ≠ 0 && (List.range ((w + 0x7FFF) / 0x8000)).any fun j => d.mvRow (b + 0x8000 * j) ≠ d.mvRow a

/-- The error that a descriptor meets before any byte moves (R260, R267). -/
def Dev.mdErr (d : Dev) (b : List Byte) : Nat :=
  if mdInvalid b then 1
  else if d.windowCrosses (mdSrc b) (mdSrcW b) then 2
  else if d.windowCrosses (mdDst b) (mdDstW b) then 3
  else 0

/-! ### Runs (R261, R262) -/

/-- The channel a free mover runs next (R261). -/
def Dev.mvNext (d : Dev) (n : Nat) : Option Nat :=
  let v := d.mover n
  ((List.range 8).map fun j => if v.fresh then j else (v.chan + 1 + j) % 8).find? fun c => (d.mchan (8 * n + c)).state = .ready

/-- MOVER_RUN_START (R261). -/
def Dev.mvRunStart (d : Dev) (n : Nat) : Dev :=
  let v := d.mover n
  if v.running ∨ !d.pageEn (pgWDM + n / 2) then d
  else match d.knock (moverDom (n / 2)) with
    | (.ok, d) =>
      match d.mvNext n with
      | none => d
      | some c =>
        (d.setMover n { v with running := true, chan := c, fresh := false, last := false, cur := none }).setMchan (8 * n + c)
          { d.mchan (8 * n + c) with state := .running }
    | (_, d) => d

/-- A run ends in a state. -/
def Dev.mvRunEnd (d : Dev) (n : Nat) (st : MvState) : Dev :=
  let v := d.mover n
  let k := 8 * n + v.chan
  (d.setMover n { v with running := false, cur := none, last := false }).setMchan k { d.mchan k with state := st }

/-- The end of a run that is not owed to a brake: HEAD = TAIL, and then LAST or draining. -/
def MvChan.spent (c : MvChan) (last : Bool) : Option MvState :=
  if last then some (if c.head = c.tail then .idle else .ready) else if c.head = c.tail then some .idle else none

/-- The conditions of R262 as a descriptor has been handed back, the lowest row deciding. `brake`: the sample of R271. -/
def Dev.mvBoundary (d : Dev) (n : Nat) (last err brake : Bool) : Option MvState :=
  let k := 8 * n + (d.mover n).chan
  if !d.mvEn k then some .off
  else if err then some .error
  else if brake then some .braked
  else (d.mchan k).spent (!d.pageEn (pgWDM + n / 2) || last)

/-- The conditions of R262 before a descriptor is read. A brake written since the last sample takes effect at that descriptor's, and
shows where the run ends before it (R271). -/
def Dev.mvStops (d : Dev) (n : Nat) : Option MvState :=
  let k := 8 * n + (d.mover n).chan
  if !d.mvEn k then some .off
  else ((d.mchan k).spent (!d.pageEn (pgWDM + n / 2))).map fun st => if d.mvBrake k then .braked else st

/-- MOVER_DESCRIPTOR_FETCH (R258, R260, R262). -/
def Dev.mvFetch (d : Dev) (n : Nat) : Dev :=
  let v := d.mover n
  let k := 8 * n + v.chan
  if !v.running ∨ v.cur.isSome then d
  else match d.mvStops n with
    | some st => d.mvRunEnd n st
    | none =>
      let a := d.mvBase k + 32 * (d.mchan k).head
      match d.knock (moverDom (n / 2)), d.reach (moverDom (n / 2)) a with
      | (.ok, _), (.ok, d) =>
        let r := d.memRead a 32
        let d := r.2.2.countAccess (agentTag (0x60 + n)) (moverDom (n / 2)) false a 32
        let b := r.1
        if r.2.1 then d.setMover n { v with cur := some { bytes := b, err := 8 } }
        else if !bitAt (mdCtrl b) 31 then (d.setMchan k { d.mchan k with stalled := true }).mvRunEnd n (if d.mvBrake k then .braked else .idle)
        else
          let o := mdOverlap b
          let dn := o && mdDown b
          d.setMover n { v with cur := some {
            bytes := b, err := d.mdErr b, ovlp := o, down := dn
            blk := if dn then (mdCount b - 1) / 64 * 64 else 0
            crc := if bitAt (mdCtrl b) 13 then (d.mchan k).crc else 0xFFFFFFFF } }
      | (.ok, _), (.fenced, d) => d.setMover n { v with cur := some { bytes := List.replicate 32 0, err := 9 } }
      | _, (_, d) => d

/-! ### Beats (R264–R268, R274) -/

/-- An error of the descriptor in progress (R275). -/
def Dev.mvFail (d : Dev) (n : Nat) (x : MvDesc) (e : Nat) : Dev := d.setMover n { d.mover n with cur := some { x with err := e } }

/-- One mover beat of an access is counted (R57). -/
def Dev.countMover (d : Dev) (n : Nat) (write : Bool) (a k : Nat) : Dev :=
  let t := agentTag (0x60 + n)
  (d.count (if n < 8 then 5 else 6) 5 t 1).countAccess t (moverDom (n / 2)) write a k

/-- End of the block of stream bytes that is read before it is written, in an overlapped transfer. -/
def MvDesc.blkEnd (x : MvDesc) : Nat := min (x.blk + 64) (mdCount x.bytes)

/-- Stream offset of the next byte to read. -/
def MvDesc.readAt (x : MvDesc) : Nat := if x.ovlp then x.blk + x.raw.length else x.rpos

/-- Stream offset of the next byte to write. -/
def MvDesc.writeAt (x : MvDesc) : Nat := if x.ovlp then x.blkEnd - x.out.length else x.wpos

/-- Bytes just read join the raw bytes, and whole units of them the output, with the CRC taken (R266, R268). -/
def MvDesc.take (x : MvDesc) (bs : List Byte) : MvDesc :=
  let raw := x.raw ++ bs
  let c := mdCtrl x.bytes
  let hold := x.ovlp && x.blk + raw.length < x.blkEnd
  let k := if hold then 0 else raw.length / swapUnit (mdSwap x.bytes) * swapUnit (mdSwap x.bytes)
  let out := swapBytes (mdSwap x.bytes) (raw.take k)
  let crc := if mdCrc x.bytes then crcRun crc32cPoly x.crc (if bitAt c 12 then out else bs) else x.crc
  { x with raw := raw.drop k, out := x.out ++ out, rpos := x.rpos + bs.length, crc := crc }

/-- Length of the next destination access from a stream offset. -/
def MvDesc.writeLen (x : MvDesc) : Nat :=
  let a := sideAddr (mdDst x.bytes) (mdDstW x.bytes) x.writeAt
  min (32 - a % 32) (if x.ovlp then x.out.length else mdCount x.bytes - x.wpos)

/-- An access that its range refuses ends the descriptor, and counts (R264, R410). -/
def Dev.mvRefuse (d : Dev) (n : Nat) (x : MvDesc) (a e : Nat) : Dev :=
  let d := if rangeOf a = .caddy then d.bump pgCDY 0x05C 1 0x060 1
    else if rangeOf a = .hostwin ∧ e ≠ 6 then d.countRefused (agentTag (0x60 + n))
    else d
  d.mvFail n x e

/-- The next source block: naturally aligned, 32 bytes, of which the bytes inside the area are used (R265); data that the host has sent
are used first, whatever its entry holds now (R275, R412). -/
def Dev.mvRead (d : Dev) (n : Nat) (x : MvDesc) : Dev :=
  let a := sideAddr (mdSrc x.bytes) (mdSrcW x.bytes) x.readAt
  let b := a / 32 * 32
  let k := min (32 - a % 32) (if x.ovlp then x.blkEnd - x.readAt else mdCount x.bytes - x.rpos)
  let used := fun (x : MvDesc) (bs : List Byte) => x.take ((bs.drop (a % 32)).take k)
  match x.hostGot with
  | some (_, bs) => d.setMover n { d.mover n with cur := some (used { x with hostGot := none } bs) }
  | none =>
    match if d.mvRow a ≠ d.mvRow (mdSrc x.bytes) then some mvSRCADDR else d.mvErr n false a with
    | some e => d.mvRefuse n x a e
    | none =>
      if d.caddy.wiping ∧ rangeOf a = .caddy then d
      else match d.reach (moverDom (n / 2)) a with
        | (.fenced, d) => d.mvFail n x 9
        | (.asleep, d) => d
        | (.ok, d) =>
          if rangeOf a = .hostwin then
            (d.countMover n false b 32).setMover n { d.mover n with cur := some { x with hostReq := some (b, 32) } }
          else
            let keys := rangeOf a = .caddy && plainAddr a < caddyBase + 4096
            let r := if keys then (List.replicate 32 0, false, d) else d.memRead b 32
            let d := r.2.2.countMover n false b 32
            if r.2.1 then d.mvFail n x 8 else d.setMover n { d.mover n with cur := some (used x r.1) }

/-- The block of an overlapped transfer is written: the next one. -/
def MvDesc.nextBlk (x : MvDesc) : MvDesc :=
  if x.ovlp ∧ x.out.isEmpty ∧ x.wpos < mdCount x.bytes then { x with blk := if x.down then x.blk - 64 else x.blk + 64 } else x

/-- One destination access. -/
def Dev.mvWrite (d : Dev) (n : Nat) (x : MvDesc) : Dev :=
  let a := sideAddr (mdDst x.bytes) (mdDstW x.bytes) x.writeAt
  let k := x.writeLen
  let bs := x.out.take k
  match if d.mvRow a ≠ d.mvRow (mdDst x.bytes) then some (mvSRCADDR + 1) else d.mvErr n true a with
  | some e => d.mvRefuse n x a e
  | none =>
    if d.caddy.wiping ∧ rangeOf a = .caddy then d
    else match d.reach (moverDom (n / 2)) a with
      | (.fenced, d) => d.mvFail n x 9
      | (.asleep, d) => d
      | (.ok, d) =>
        let c := 8 * n + (d.mover n).chan
        let done := fun (d : Dev) (x : MvDesc) =>
          let d := (d.countMover n true a k).wideAdd (mvPage c) (mvOff c 0x18) k
          d.setMover n { d.mover n with cur := some { x with out := x.out.drop k, wpos := x.wpos + k }.nextBlk }
        match rangeOf a with
        | .hostwin =>
          match d.hostXlate true a with
          | .ok hpa => done (d.hostPoke hpa bs) { x with hostWrote := some ((a + k - 1) / 4 * 4) }
          | .error _ => d
        | _ =>
          let r := d.memWrite a bs
          if r.1 then (r.2.countMover n true a k).mvFail n x 8 else done r.2 x

/-- The read of the last dword written that acknowledges every host window write before it (R269). -/
def Dev.mvFlush (d : Dev) (n : Nat) (x : MvDesc) (w : Nat) : Dev :=
  if d.hostOpen then
    (d.countAccess (agentTag (0x60 + n)) (moverDom (n / 2)) false w 4).setMover n
      { d.mover n with cur := some { x with hostReq := some (w, 4), flushTo := some x.wpos } }
  else d.mvFail n x 6

/-- A STREAM descriptor with a notice at half count that has still to be raised, half its bytes being written (R270). -/
def MvDesc.atHalf (x : MvDesc) : Bool :=
  x.err = 0 && mdStream x.bytes && mdNotice x.bytes && !x.half && decide (mdCount x.bytes / 2 ≤ x.wpos) &&
    !(x.ovlp && x.down && x.wpos < mdCount x.bytes)

/-- Bytes written, and acknowledged with ORD (R270). -/
def MvDesc.settled (x : MvDesc) : Nat := if mdOrd x.bytes && x.hostWrote.isSome then x.acked else x.wpos

/-- Host window writes must be acknowledged before the next beat: those of a block of an overlapped transfer, before the next
block is read (R274), and with ORD those of the first half, for its notice (R270). -/
def MvDesc.wantsAck (x : MvDesc) : Option Nat :=
  if x.wpos ≤ x.acked then none
  else if (x.ovlp && x.raw.isEmpty && x.out.isEmpty) || (x.atHalf && decide (x.settled < mdCount x.bytes / 2)) then x.hostWrote
  else none

/-- One beat of the descriptor in progress. -/
def Dev.mvBeat (d : Dev) (n : Nat) : Dev :=
  match (d.mover n).cur with
  | none => d
  | some x =>
    let cnt := mdCount x.bytes
    if x.err ≠ 0 ∨ cnt ≤ x.wpos ∨ x.hostReq.isSome then d
    else match x.wantsAck with
      | some w => d.mvFlush n x w
      | none =>
        if !x.out.isEmpty ∧ (x.ovlp ∨ x.rpos = cnt ∨ x.writeLen ≤ x.out.length) then d.mvWrite n x else d.mvRead n x

/-- Beats of a mover (HUB_RESPONSE). -/
def Dev.mvBeats (d : Dev) (n : Nat) : Nat → Dev
  | 0 => d
  | k + 1 => if d.gate (moverDom (n / 2)) = .ok then (d.mvBeat n).mvBeats n k else d

/-- The host answers a read of a mover (R269). -/
def Dev.mvHost (d : Dev) (n : Nat) (r : HostReply) : Dev :=
  match (d.mover n).cur with
  | none => d
  | some x =>
    match x.hostReq with
    | none => d
    | some (a, _) =>
      let y := { x with hostReq := none, flushTo := none }
      match r.status with
      | .ok =>
        d.setMover n { d.mover n with cur := some (match x.flushTo with
          | some k => { y with acked := k }
          | none => { y with hostGot := some (a, r.data) }) }
      | .poisoned => d.mvFail n y 8
      | _ => d.mvFail n y 7

/-! ### Completion (R259, R268–R271, R275) -/

/-- Event of the channel that mover `n` runs. -/
def Dev.mvEvent (d : Dev) (n : Nat) : Nat := 384 + 8 * n + (d.mover n).chan

/-- The half notice of a STREAM descriptor is due (R270). -/
def MvDesc.halfDue (x : MvDesc) : Bool := x.atHalf && decide (mdCount x.bytes / 2 ≤ x.settled)

/-- MOVER_HALF_NOTICE (R270). -/
def Dev.mvHalf (d : Dev) (n : Nat) : Dev :=
  match (d.mover n).cur with
  | none => d
  | some x =>
    if x.halfDue then (d.setMover n { d.mover n with cur := some { x with half := true } }).raiseEvent (d.mvEvent n) else d

/-- The descriptor as it is handed back (R259). -/
def mdBack (x : MvDesc) (braked : Bool) : List Byte :=
  let st := fput 31 1 (b2n (x.err = 0)) + fput 30 1 (b2n x.ovlp) + fput 29 1 (b2n braked) + fput 16 8 x.err
  leBytes 4 (withBit (mdCtrl x.bytes) 31 false).toNat ++ (x.bytes.drop 4).take 20 ++ leBytes 4 st ++
    leBytes 4 (if x.err = 0 ∧ mdCrc x.bytes then x.crc ^^^ 0xFFFFFFFF else 0)

/-- The read that acknowledges host window writes must still complete (R269). -/
def MvDesc.needsFlush (x : MvDesc) : Bool := x.err = 0 && mdOrd x.bytes && x.hostWrote.isSome && decide (x.acked < x.wpos)

/-- The descriptor in progress is handed back, and the run goes on or ends (R259, R262, R268–R271, R275). -/
def Dev.mvHandBack (d : Dev) (n : Nat) (x : MvDesc) : Dev :=
  let v := d.mover n
  let k := 8 * n + v.chan
  let d := d.mvHalf n
  let braked := d.mvBrake k || !d.mvEn k
  let a := d.mvBase k + 32 * (d.mchan k).head
  let d := ((d.memWrite a (mdBack x braked)).2).countMover n true a 32
  let c := d.mchan k
  let c := { c with head := (c.head + 1) % d.mvSize k
                    crc := if x.err = 0 ∧ mdCrc x.bytes then x.crc else c.crc
                    resid := if x.err = 0 then c.resid else w32 (mdCount x.bytes - x.wpos) }
  let d := d.setMchan k c
  let m := n % 2
  let p := pgWDM + n / 2
  let d := if x.err = 0 then d.bump p (0x048 + 4 * m) 1 0x058 m else d.bump p (0x050 + 4 * m) 1 0x058 (2 + m)
  let d := if x.err ≠ 0 ∨ mdNotice x.bytes then d.raiseEvent (d.mvEvent n) else d
  let d := d.setMover n { d.mover n with cur := none }
  match d.mvBoundary n (mdLast x.bytes) (x.err ≠ 0) braked with
  | some st => d.mvRunEnd n st
  | none => d

/-- MOVER_DESCRIPTOR_COMPLETE (R259, R269). -/
def Dev.mvComplete (d : Dev) (n : Nat) : Dev :=
  match (d.mover n).cur with
  | none => d
  | some x =>
    let k := 8 * n + (d.mover n).chan
    let a := d.mvBase k + 32 * (d.mchan k).head
    if x.hostReq.isSome ∨ (x.err = 0 ∧ x.wpos < mdCount x.bytes) ∨ d.gate (moverDom (n / 2)) ≠ .ok then d
    else if x.needsFlush then d.mvFlush n x (x.hostWrote.getD 0)
    else match d.reach (moverDom (n / 2)) a with
      | (.ok, d) => d.mvHandBack n x
      | (.asleep, d) => d
      | (.fenced, d) => d.mvRunEnd n .error

/-- A fenced mover pair drops what it has in progress (R276). -/
def Dev.mvFence (d : Dev) (w : Nat) : Dev :=
  [2 * w, 2 * w + 1].foldl (fun d n =>
    let v := d.mover n
    let k := 8 * n + v.chan
    let d := if v.running then d.setMchan k { d.mchan k with state := .error } else d
    d.setMover n { v with running := false, cur := none, fresh := true }) d

/-- A mover pair's registers and channels return to their reset values. -/
def Dev.mvReset (d : Dev) (w : Nat) : Dev :=
  { d with movers := d.movers.filter fun e => e.1 / 2 ≠ w, mchans := d.mchans.filter fun e => e.1 / 16 ≠ w
           wide := d.wide.filter fun e => e.1 / 1024 ≠ pgWDM + w }

/-- A mover of the pair has a descriptor in progress (R272). -/
def Dev.mvBusy (d : Dev) (w : Nat) : Bool := (d.mover (2 * w)).cur.isSome || (d.mover (2 * w + 1)).cur.isSome

end Sys2Proof.Machine
end

