-- ==== Sys2Proof/Machine/Faults.lean ====
section
/-!
DEFINITION. Faults: the log and its notices, fences of units, wheels and regions with what they end, the halt, the
strainer, and the collection of the fault events of one step (R461–R477, R563, R564).
-/

namespace Sys2Proof.Machine

/-! ### The log (R465, R466) -/

/-- A notice: its sticky bit and its event (FLT.NOTICE). -/
def Dev.notice (d : Dev) (i : Nat) : Dev :=
  (d.setReg pgFLT 0x054 (d.reg pgFLT 0x054 ||| w32 (2 ^ i))).raiseEvent (368 + i)

/-- FLT.LOG_CONS, and whether the log is full (R466). -/
def Dev.logFull (d : Dev) : Bool := d.faults.logProd - d.reg pgFLT 0x04C = 64

/-- A log entry is written, or lost where the log is full; whether it was written. -/
def Dev.logEntry (d : Dev) (e : LogEntry) : Bool × Dev :=
  if d.logFull then (false, (d.bump pgFLT 0x050 1 0x060 0).notice 9)
  else
    let t := d.sample (regionTag 0)
    let d := t.2
    let f := d.faults
    (true, { d with faults := { f with
      log := smSet f.log (f.logProd.toNat % 64) { e with time := t.1 } {}, logProd := f.logProd + 1 } })

/-- A word of a log entry (R465). -/
def LogEntry.word (e : LogEntry) (j : Nat) : Word :=
  match j with
  | 0 => lo32 e.time
  | 1 => hi32 e.time
  | 2 => e.info
  | 3 => w32 (e.source.toNat + fput 16 8 e.page.toNat + fput 24 8 e.kind.toNat)
  | 4 => w32 (e.cls.toNat + fput 8 8 e.level.toNat)
  | _ => 0

/-- The CLASS byte of a log entry. -/
def clsByte (injected : Bool) (record cls : Nat) : Byte := BitVec.ofNat 8 (fput 7 1 (b2n injected) + fput 4 3 record + cls)

/-! ### What the loss of a unit ends (R471, R569) -/

/-- A device command of a subchannel is in progress on an adapter that a domain's unit serves. -/
def Dev.usesUnit (d : Dev) (k i : Nat) : Bool :=
  let s := d.scb i
  let x := d.ctx i
  let b := s.binding
  (d.bindDom b = k || (k = 3 && (bKind b = 1 || bKind b = 2))) && devOp x.ccw.op && x.phase = .running &&
    (s.state = .active || s.state = .waiting || s.state = .draining || s.state = .pending)

/-- The device commands in progress on an adapter end with NOT_READY (R471, R569). -/
def Dev.adapterLost (d : Dev) (k : Nat) : Dev :=
  let d := { d with lqs := d.lqs.map fun (e : Nat × LentQ) =>
    (e.1, if k = 3 ∨ 8 + d.lqPort e.1 = k then { e.2 with cmds := [] } else e.2) }
  (d.ctxs.filter fun e => d.usesUnit k e.1).foldl (fun d e =>
    let out := e.2.ops.filter (!·.taken)
    if out.isEmpty then d.raiseExc e.1 xDEVICE (devstat (bKind (d.scb e.1).binding) codeNOTREADY 0) (d.ctx e.1).remaining
    else out.foldl (fun d o => d.takeOp e.1 o { status := statCode codeNOTREADY 0 }) d) d

/-- A unit loses its work: by a fence, or by a CYCLE or DRESET without one. `cause` is ENGINE_CHECK's DEVSTAT (R169). -/
def Dev.unitGone (d : Dev) (k : Nat) (cause : Word) : Dev :=
  let d := if 28 ≤ k ∧ k < 124 then
      let w := (k - 28) / 12
      let j := (k - 28) % 12
      if j < 8 then
        let c := 8 * w + j
        (d.wlRemove (d.coreTag c) .core c).setCore c { d.core c with armed := false }
      else if j < 10 then d.engineLost (2 * w + (j - 8)) cause
      else if j = 10 then d.mvFence w
      else d
    else if k = 1 then (d.wlRemove (d.coreTag 64) .core 64).setCore 64 { d.core 64 with armed := false }
    else if 140 ≤ k ∧ k < 148 then d.enginesLost fun e => engDom (e / 16) (e % 16) = k
    else d
  let d := d.adapterLost k
  d.breakLocks fun a => agentDom a = some k

/-! ### Fences (R470, R475, R476, R563) -/

/-- Why a unit is fenced. -/
inductive FenceBy where
  | request | fault | wheel
  deriving DecidableEq, Repr

/-- The cause that ENGINE_CHECK reports (R169). -/
def FenceBy.cause : FenceBy → Word
  | .request => 0
  | .fault => 1
  | .wheel => 2

/-- The unit holds a fence for a reason. -/
def Dom.fencedBy (u : Dom) : FenceBy → Bool
  | .request => u.fenceReq
  | .fault => u.fenceF
  | .wheel => u.fenceW

def Dom.setFence (u : Dom) (y : FenceBy) (b : Bool) : Dom :=
  match y with
  | .request => { u with fenceReq := b }
  | .fault => { u with fenceF := b }
  | .wheel => { u with fenceW := b }

/-- A fence of a unit takes effect, without its log entry. -/
def Dev.fenceQuiet (d : Dev) (k : Nat) (y : FenceBy) : Dev :=
  let u := d.dom k
  let d := d.setDom k (u.setFence y true)
  if u.fenced then d else d.unitGone k y.cause

/-- A unit is fenced (R470): its entry and its notice. -/
def Dev.fenceUnit (d : Dev) (k : Nat) (y : FenceBy) (injected : Bool) : Dev :=
  if k = 0 ∨ 151 < k ∨ (d.dom k).fencedBy y then d
  else
    let d := d.fenceQuiet k y
    let e : LogEntry := { source := BitVec.ofNat 16 k, page := BitVec.ofNat 8 (unitPage k)
                          cls := clsByte injected 2 (if y = .request then 0 else 3) }
    (d.logEntry e).2.notice 2

/-- The 12 domains of a wheel. -/
def wheelDoms (w : Nat) : List Nat := rangeFrom (wheelDom w) 12

/-- A wheel is fenced without its log entry (R475, R480). -/
def Dev.wheelQuiet (d : Dev) (w : Nat) : Dev :=
  let d := d.setWfault w { d.wfault w with fenced := true, held := false, steepStart := toDl32 d.now }
  (wheelDoms w).foldl (fun d k => d.fenceQuiet k .wheel) d

/-- A wheel is fenced (R475): its entry and its notice. -/
def Dev.fenceWheel (d : Dev) (w : Nat) (injected : Bool) : Dev :=
  if (d.wfault w).fenced then d
  else
    let e : LogEntry := { source := BitVec.ofNat 16 w, page := BitVec.ofNat 8 (pgWARB + w), cls := clsByte injected 2 4 }
    ((d.wheelQuiet w).logEntry e).2.notice 3

/-- The wheels of a region, and its units outside wheels. -/
def regionWheels (r : Nat) : List Nat := if r = 5 then [0, 1, 2, 3] else if r = 6 then [4, 5, 6, 7] else []
def regionUnits (r : Nat) : List Nat := (regionDoms r).filter fun k => (domWheel k).isNone

/-- A region promotion fences every wheel and every other unit of the region (R469, R476). -/
def Dev.fenceRegion (d : Dev) (r : Nat) (injected : Bool) : Dev :=
  let ws := regionWheels r
  let us := regionUnits r
  let new := ws.any (fun w => !(d.wfault w).fenced) || us.any (fun k => !(d.dom k).fenceF)
  let d := ws.foldl (fun d w => if (d.wfault w).fenced then d else d.wheelQuiet w) d
  let d := us.foldl (fun d k => d.fenceQuiet k .fault) d
  let d := { d with faults := { d.faults with regions := smSet d.faults.regions r (us ++ ws.map (256 + ·)) [] } }
  if new then
    let e : LogEntry := { source := BitVec.ofNat 16 r, page := BitVec.ofNat 8 pgFLT, cls := clsByte injected 2 4 }
    (d.logEntry e).2.notice 4
  else d

/-- A unit or wheel that a region promotion fenced has returned (R476). -/
def Dev.regionReturn (d : Dev) (x : Nat) : Dev :=
  { d with faults := { d.faults with
    regions := (d.faults.regions.map fun e => (e.1, e.2.filter (· ≠ x))).filter fun e => !e.2.isEmpty } }

/-- The locks of a wheel whose common unit returns from a fence: those owned at the fence are broken (R385). -/
def Dev.commonReturns (d : Dev) (w : Nat) : Dev :=
  (rangeFrom (16 * w) 16).foldl (fun d l => d.lockBreak l) d

/-- A fence of one reason is lifted from a unit (R474, R479); none is while the device is halted (R477). -/
def Dev.liftFence (d : Dev) (k : Nat) (y : FenceBy) : Dev :=
  if d.faults.halted then d
  else
    let u := d.dom k
    let d := d.setDom k (u.setFence y false)
    let d := if y = .fault then d.regionReturn k else d
    if u.fenced ∧ !(u.setFence y false).fenced then
      match domWheel k with
      | some w => if k = commonDom w then d.commonReturns w else d
      | none => d
    else d

/-! ### The halt (R477) -/

/-- A class D fault halts the device: every unit not yet fenced loses its work, every lock frees itself, the downstream
ports are reset, and AER reports the error. -/
def Dev.haltDevice (d : Dev) : Dev :=
  if d.faults.halted then d
  else
    let d := (rangeFrom 1 151).foldl (fun d k => if (d.dom k).fenced then d else d.unitGone k FenceBy.fault.cause) d
    let d := { d with faults := { d.faults with halted := true } }
    let d := d.breakLocks fun _ => true
    ((List.range 6).foldl Dev.portDown d).internalError

/-! ### The strainer (R467, R468, R564) -/

/-- The instance of an event at a level. -/
def FaultEv.instance? (e : FaultEv) (lvl : Nat) : Option Nat :=
  match lvl with
  | 0 => e.unit
  | 1 => e.unit.bind domWheel
  | 2 => match e.unit with
    | some k => some (domRegion k)
    | none => if e.kind = 23 ∨ e.kind = 25 then some e.source else if e.kind = 24 then some (e.source / 16) else some 0
  | _ => some 0

/-- Key of a strainer count. -/
def strKey (e inst : Nat) : Nat := e * 256 + inst

/-- One level of the strainer takes an event; whether it promotes. -/
def Dev.strainLevel (d : Dev) (ev : FaultEv) (lvl : Nat) : Bool × Dev :=
  match ev.instance? lvl with
  | none => (false, d)
  | some inst =>
    let e := 4 * ev.kind + lvl
    let cfg := d.reg pgSTR (0x100 + 8 * e)
    let win := d.reg pgSTR (0x104 + 8 * e)
    if !bitAt cfg 31 then (false, d)
    else
      let s := smGet d.faults.strain (strKey e inst) {}
      let now := toDl32 d.now
      let shut := !s.isOpen || (win ≠ 0 && decide (win.toNat ≤ (now - s.start).toNat))
      let d := if shut then (d.sample (regionTag 0)).2 else d
      let s : StrCount := if shut then { isOpen := true, count := 1, start := now } else { s with count := s.count + 1 }
      let up := decide (fld cfg 0 8 ≤ s.count)
      let s := { s with isOpen := !up }
      (up, { d with faults := { d.faults with strain := smSet d.faults.strain (strKey e inst) s {} } })

/-- The class that a promotion's reaction applies (R563). -/
def levelClass (lvl inst : Nat) : Nat :=
  if lvl = 0 then 3 else if lvl = 1 then 4 else if lvl = 2 then (if inst = 0 then 5 else 4) else 5

/-- A promotion is counted, logged and noticed. -/
def Dev.promote (d : Dev) (ev : FaultEv) (lvl : Nat) : Dev :=
  let d := d.bump pgSTR 0x04C 1 0x050 0
  let e : LogEntry :=
    { info := ev.info, source := BitVec.ofNat 16 ev.source, page := BitVec.ofNat 8 ev.page, kind := BitVec.ofNat 8 ev.kind
      cls := clsByte ev.injected 1 (levelClass lvl ((ev.instance? lvl).getD 0)), level := BitVec.ofNat 8 lvl }
  (d.logEntry e).2.notice 5

/-- The strainer takes an event at every level: the highest level promoted (R469). -/
def Dev.strain (d : Dev) (ev : FaultEv) : Option Nat × Dev :=
  [0, 1, 2, 3].foldl (fun r lvl =>
    match r.2.strainLevel ev lvl with
    | (true, d) => (some lvl, d.promote ev lvl)
    | (false, d) => (r.1, d)) (none, d)

/-- The reaction of a promotion (R469). -/
def Dev.reactLevel (d : Dev) (ev : FaultEv) (lvl : Nat) : Dev :=
  match lvl, ev.instance? lvl with
  | 0, some k => d.fenceUnit k .fault ev.injected
  | 1, some w => d.fenceWheel w ev.injected
  | 2, some 0 => d.haltDevice
  | 2, some r => d.fenceRegion r ev.injected
  | _, _ => d.haltDevice

/-! ### Collection (R463) -/

/-- Whether an event is captured before another of the same page and step: higher class, then lower kind. -/
def FaultEv.before (a b : FaultEv) : Bool :=
  kindClass b.kind < kindClass a.kind || (kindClass a.kind = kindClass b.kind && a.kind ≤ b.kind)

/-- The place in a list of the event that its page would capture. -/
def chosenAt (evs : List FaultEv) (p : Nat) : Option Nat :=
  (List.range evs.length).foldl (fun best j =>
    match evs[j]?, best.bind fun b => evs[b]? with
    | some e, none => if e.page = p then some j else best
    | some e, some b => if e.page = p ∧ !b.before e then some j else best
    | none, _ => best) none

/-- A page's PG_FIRST takes an event (R462). -/
def Dev.capture (d : Dev) (e : FaultEv) : Dev :=
  let v := fput 31 1 1 + fput 30 1 (b2n e.injected) + fput 27 3 (kindClass e.kind) + fput 16 6 e.kind + fput 0 16 e.source
  ((d.setReg e.page 0x020 (w32 v)).setReg e.page 0x024 e.info).pageEvt e.page 2

/-- An event that is not captured sets its overflow bit. -/
def Dev.overflowEvt (d : Dev) (e : FaultEv) : Dev :=
  d.setReg e.page 0x028 (d.reg e.page 0x028 ||| w32 (2 ^ (kindClass e.kind - 1)))

/-- Captured or not, an event is logged, strained and reacted to (R463, R465, R468, R469, R480). -/
def Dev.treatEvent (d : Dev) (e : FaultEv) (captured : Bool) : Dev :=
  let c := kindClass e.kind
  let d := if captured ∨ c = 3 ∨ c = 5 then
      let r := d.logEntry { info := e.info, source := BitVec.ofNat 16 e.source, page := BitVec.ofNat 8 e.page,
                            kind := BitVec.ofNat 8 e.kind, cls := clsByte e.injected 0 c }
      if r.1 ∧ c = 1 then r.2.notice 0 else if r.1 ∧ c = 2 then r.2.notice 1 else r.2
    else d
  let d := if e.kind = 23 then d.notice 8 else d
  let d := match e.unit.bind domWheel with
    | some w => if (d.wfault w).fenced then d.setWfault w { d.wfault w with steepStart := toDl32 d.now } else d
    | none => d
  if c = 5 then d.haltDevice
  else
    let r := d.strain e
    let d := if c = 3 then match e.unit with
        | some k => r.2.fenceUnit k .fault e.injected
        | none => r.2
      else r.2
    match r.1 with
    | some lvl => d.reactLevel e lvl
    | none => d

/-- Events that a wheel's units raise while the wheel recovers are discarded (R481). -/
def Dev.discardsEvt (d : Dev) (e : FaultEv) : Bool :=
  match e.unit.bind domWheel with
  | some w => (d.wfault w).recovering
  | none => false

/-- The fault events of a step are compared, captured, and treated one at a time (R463). -/
def Dev.collectBatch (d : Dev) (evs : List FaultEv) : Dev :=
  let evs := evs.filter fun e => !d.discardsEvt e
  let taken := (List.range evs.length).filter fun j =>
    match evs[j]? with
    | some e => !d.rb e.page 0x020 31 && chosenAt evs e.page = some j
    | none => false
  let d := (List.range evs.length).foldl (fun d j =>
    match evs[j]? with
    | some e => if taken.contains j then d.capture e else d.overflowEvt e
    | none => d) d
  (List.range evs.length).foldl (fun d j =>
    match evs[j]? with
    | some e => d.treatEvent e (taken.contains j)
    | none => d) d

/-- The queue is collected until the reactions themselves raise no further event. -/
def Dev.collect (d : Dev) : Nat → Dev
  | 0 => { d with faults := { d.faults with queue := [] } }
  | n + 1 =>
    match d.faults.queue with
    | [] => d
    | evs => ({ d with faults := { d.faults with queue := [] } }.collectBatch evs).collect n

end Sys2Proof.Machine
end

