-- ==== Sys2Proof/Machine/CoreView.lean ====
section
/-!
DEFINITION. What a core reaches: its local RAM, the window onto device addresses (R326, R327), the poll page region, the
reset of a core and its boot copy (R354, R355).
-/

namespace Sys2Proof.Machine

/-- Domain, page, register base and counter offsets of core `k` of 65; 64 is the kettle core. -/
def coreDomain (k : Nat) : Nat := if k = 64 then 1 else coreDom (k / 8) (k % 8)
def corPage (k : Nat) : Nat := pgWCOR + k / 8
def corOff (k o : Nat) : Nat := 0x100 + 32 * (k % 8) + o

/-- First device address of a core's local RAM. -/
def coreLram (k : Nat) : Nat := lramBase + coreAgent k * 0x8000

/-- A counter of a core in its WCOR page; the kettle core has none. `sb`: its bit in CNT_SAT. -/
def Dev.coreCount (d : Dev) (k o sb n : Nat) : Dev := if k < 64 then d.bump (corPage k) (corOff k o) n 0x040 (sb + k % 8) else d

/-- BUSERR details (R347). -/
abbrev beUnmapped : Nat := 1
abbrev beForbidden : Nat := 2
abbrev beHost : Nat := 3
abbrev beAsleep : Nat := 4
abbrev beCaddy : Nat := 5
abbrev bePoison : Nat := 6
abbrev beFenced : Nat := 7
abbrev beIo : Nat := 8
abbrev beFetch : Nat := 9

/-! ### The poll page region (R391) -/

/-- Bytes 0 to 31 of a mailbox in the layout of R375, CMD reading 0. -/
def Dev.mboxBytes (d : Dev) (m : Nat) : List Byte :=
  leBytes 4 (d.mboxHdr m).toNat ++ leBytes 4 (d.mbox m).postTime.toNat ++ leBytes 4 (d.mbox m).reply.toNat ++
    leBytes 4 0 ++ (d.mbox m).msg

/-- A read of `n` bytes of the poll page region by a tag; the poll page's words are checked as kettle SRAM (R482), and every word
read is counted as one of it (R561). -/
def Dev.pollRegion (d : Dev) (tag o n : Nat) : List Byte × Dev :=
  if o < 0x1000 then
    let d := (d.checkWords (pollBase + o) n).2
    let r := d.pollRead tag o ((o % 4 + n + 3) / 4)
    (((r.1.flatMap fun w => leBytes 4 w.toNat).drop (o % 4)).take n, r.2)
  else
    ((rangeFrom o n).map fun a =>
      let q := a - 0x1000
      if q < 0x1000 then (d.mboxBytes (q / 32)).getD (q % 32) 0 else 0, d.count 0 2 tag ((o % 4 + n + 3) / 4))

/-! ### The window (R326) -/

/-- The outcome of an access by a core: done, waiting for a domain, waiting for the host, refused, or in error at its target. -/
inductive CAcc where
  | ok (bs : List Byte) (d : Dev)
  | wait (d : Dev)
  | host (d : Dev)
  | refused (detail : Nat) (d : Dev)
  | error (detail : Nat) (d : Dev)

/-- Why the window refuses a device address, if it does; an access that arrives during a wipe is judged at its end (R409). -/
def Dev.windowErr (d : Dev) (k : Nat) (write : Bool) (a : Nat) : Option Nat :=
  match rangeOf a with
  | .sram _ => none
  | .xram _ _ => none
  | .lram g => if g = agKettle ∧ k ≠ 64 then some beForbidden else none
  | .dram => if d.dramHas a then none else some beUnmapped
  | .caddy => if d.caddy.wiping ∨ d.caddyGrants (coreAgent k) then none else some beCaddy
  | .hostwin =>
    match d.hostXlate write a with
    | .ok _ => none
    | .error .asleep => some beAsleep
    | .error _ => some beHost
  | .poll => if write then some beForbidden else none
  | .unmapped => some beUnmapped
  | _ => some beForbidden

/-- The counters a refusal moves. -/
def Dev.noteWindow (d : Dev) (k detail : Nat) : Dev :=
  if detail = beCaddy then d.bump pgCDY 0x05C 1 0x060 1
  else if detail = beHost then d.countRefused (d.coreTag k)
  else d

/-- A window access to the wheel's own exchange RAM, at its port A (R327, R399). -/
def ownXram (k a : Nat) : Bool :=
  match rangeOf a with
  | .xram w _ => decide (k < 64 ∧ w = k / 8)
  | _ => false

/-- A load through the window, within one 32-byte block. -/
def Dev.windowRead (d : Dev) (k a n : Nat) : CAcc :=
  match d.windowErr k false a with
  | some e => .refused e (d.noteWindow k e)
  | none =>
    if d.caddy.wiping ∧ rangeOf a = .caddy then .wait d
    else match d.reach (coreDomain k) a with
      | (.fenced, d) => .error beFenced d
      | (.asleep, d) => .wait d
      | (.ok, d) =>
        let d := d.countAccess (d.coreTag k) (coreDomain k) false a n
        match rangeOf a with
        | .hostwin => .host d
        | .poll =>
          let r := d.pollRegion (d.coreTag k) (plainAddr a - pollBase) n
          .ok r.1 r.2
        | .caddy =>
          if plainAddr a < caddyBase + 4096 ∧ k ≠ 64 then .ok (List.replicate n 0) d
          else
            let r := d.memRead a n
            if r.2.1 then .error bePoison r.2.2 else .ok r.1 r.2.2
        | _ =>
          let r := d.memRead a n
          if r.2.1 then .error bePoison r.2.2 else .ok r.1 r.2.2

/-- A store through the window, within one 32-byte block. -/
def Dev.windowWrite (d : Dev) (k a : Nat) (bs : List Byte) : CAcc :=
  match d.windowErr k true a with
  | some e => .refused e (d.noteWindow k e)
  | none =>
    if d.caddy.wiping ∧ rangeOf a = .caddy then .wait d
    else match d.reach (coreDomain k) a with
      | (.fenced, d) => .error beFenced d
      | (.asleep, d) => .wait d
      | (.ok, d) =>
        let d := d.countAccess (d.coreTag k) (coreDomain k) true a bs.length
        match rangeOf a with
        | .hostwin =>
          match d.hostXlate true a with
          | .ok hpa => .ok [] (d.hostPoke hpa bs)
          | .error _ => .error beHost d
        | _ =>
          let r := d.memWrite a bs
          let e := if ownXram k a then r.2.notePortA a bs.length (d.peek (a / 8 * 8) 8) else r.2
          if r.1 then .error bePoison e else .ok [] e

/-- Bytes of a window access from an address on that one access takes: to the end of the 32-byte block, and at port A to the end
of the 8-byte word (R399). -/
def winLen (k a n : Nat) : Nat := if ownXram k a then min n (8 - a % 8) else beatLen a n

/-- An access cut where one access ends; the first part that is not served decides. -/
def Dev.windowReads (d : Dev) (k a n : Nat) : CAcc :=
  let n0 := winLen k a n
  match d.windowRead k a n0 with
  | .ok bs d =>
    if n0 = n then .ok bs d
    else match d.windowRead k (a + n0) (n - n0) with
      | .ok cs d => .ok (bs ++ cs) d
      | r => r
  | r => r

def Dev.windowWrites (d : Dev) (k a : Nat) (bs : List Byte) : CAcc :=
  let n0 := winLen k a bs.length
  match d.windowWrite k a (bs.take n0) with
  | .ok _ d => if n0 = bs.length then .ok [] d else d.windowWrite k (a + n0) (bs.drop n0)
  | r => r

/-! ### Local RAM -/

/-- A load from a core's own local RAM; whether a word is poisoned. -/
def Dev.localRead (d : Dev) (k a n : Nat) : List Byte × Bool × Dev :=
  let r := d.memRead (coreLram k + a) n
  (r.1, r.2.1, r.2.2.countTarget (d.coreTag k) false (coreLram k + a) n)

/-- A store to a core's own local RAM; whether it was refused for poison. -/
def Dev.localWrite (d : Dev) (k a : Nat) (bs : List Byte) : Bool × Dev :=
  let r := d.memWrite (coreLram k + a) bs
  (r.1, r.2.countTarget (d.coreTag k) true (coreLram k + a) bs.length)

/-! ### Reset and the boot copy (R354, R355) -/

/-- The stores that a core has posted and that wait are made, though none of their errors is reported to it any more. -/
def Dev.disownStores (d : Dev) (k : Nat) : Dev :=
  { d with held := d.held.map fun q => match q with
    | .store j o a x r => .store j o a x (r && decide (j ≠ k))
    | q => q }

/-- A core is reset and held. -/
def Dev.coreReset (d : Dev) (k : Nat) : Dev :=
  let d := (d.wlRemove (d.coreTag k) .core k).disownStores k
  let c := d.core k
  d.setCore k { completeCnt := c.completeCnt, kThresh := c.kThresh, order := c.order }

/-- CORE_BOOT_ADDR and CORE_BOOT_LEN of a core. -/
def Dev.bootAddr (d : Dev) (k : Nat) : Nat :=
  (d.reg (corPage k) (corOff k 0x08)).toNat + d.rf (corPage k) (corOff k 0x0C) 0 16 * 2 ^ 32
def Dev.bootLen (d : Dev) (k : Nat) : Nat := d.rf (corPage k) (corOff k 0x10) 0 16

/-- How a boot copy stands: done, waiting for a domain, or in error. -/
inductive BootRes where
  | ok (d : Dev)
  | wait (d : Dev)
  | err (d : Dev)

/-- The copy of the 32-byte blocks from `o` on; `n` are left. -/
def Dev.bootBlocks (d : Dev) (k src o : Nat) : Nat → BootRes
  | 0 => .ok d
  | n + 1 =>
    match d.windowRead k (src + o) 32 with
    | .ok bs d => (d.localWrite k o bs).2.bootBlocks k src (o + 32) n
    | .wait d => .wait d
    | .host d => .err d
    | .refused _ d => .err d
    | .error _ d => .err d

/-- The boot copy of a core. -/
def Dev.bootCopy (d : Dev) (k : Nat) : BootRes := d.bootBlocks k (d.bootAddr k) 0 (d.bootLen k / 32)

/-- The end of a boot copy: the core runs from its reset vector, or stays in reset with BOOT_ERR. -/
def Dev.bootDone (d : Dev) (k : Nat) : Dev :=
  (d.setCore k { d.core k with state := .running }).coreCount k 0x1C 16 1

def Dev.bootFail (d : Dev) (k : Nat) : Dev :=
  (d.setCore k { d.core k with state := .bootErr }).pageEvt (corPage k) 0x10000

/-- A core released from reset begins its boot copy, or runs at once where nothing is to be copied (R355). -/
def Dev.coreRelease (d : Dev) (k : Nat) : Dev :=
  let d := d.coreReset k
  d.setCore k { d.core k with state := if d.bootLen k = 0 then .running else .booting }

/-- CORE_BOOT_COPY_COMPLETE (R355). -/
def Dev.bootComplete (d : Dev) (k : Nat) : Dev :=
  if (d.core k).state ≠ .booting ∨ d.gate (coreDomain k) ≠ .ok then d
  else match d.bootCopy k with
    | .ok d => d.bootDone k
    | .wait d => d
    | .err d => d.bootFail k

/-- The core of a domain that has woken from OFF: it is reset, and released where CORE_CTRL.RESET is 0 (R354, R403). None
while its boot copy must still wait for a domain. -/
def Dev.coreWakes (d : Dev) (k : Nat) : BootRes :=
  let d := d.coreReset k
  if d.rb (corPage k) (corOff k 0) 31 then .ok d
  else if d.bootLen k = 0 then .ok (d.setCore k { d.core k with state := .running })
  else match d.bootCopy k with
    | .ok d => .ok (d.bootDone k)
    | .wait d => .wait d
    | .err d => .ok (d.bootFail k)

end Sys2Proof.Machine
end

