-- ==== Sys2Proof/Machine/CoreCsr.lean ====
section
/-!
DEFINITION. The control and status registers of a core, with its pacer compare (R320–R324).
-/

namespace Sys2Proof.Machine

/-! ### Pacer compare (R324) -/

/-- A core's target is reached. -/
def Dev.coreFire (d : Dev) (k : Nat) : Dev :=
  (d.setCore k { d.core k with armed := false, fired := true }).srcOccur (privSrc (k / 8) (k % 8) 17)

/-- The target in PCMP is armed: it replaces the core's entry; a target already reached fires at once. -/
def Dev.coreArm (d : Dev) (k : Nat) : Dev :=
  let d := d.wlRemove (d.coreTag k) .core k
  let d := d.setCore k { d.core k with armed := true, fired := false }
  match d.wlInsert (d.coreTag k) { target := (d.core k).pcmp, kind := .core, id := k } with
  | (.reached, d) => d.coreFire k
  | (.inserted, d) => d
  | (.refused, d) => d.setCore k { d.core k with armed := false, refused := true }

/-- CANCEL. -/
def Dev.coreCancel (d : Dev) (k : Nat) : Dev :=
  let d := d.wlRemove (d.coreTag k) .core k
  d.setCore k { d.core k with armed := false }

/-! ### CSR numbers -/

/-- The table of R320 lists a number. -/
def csrListed (n : Nat) : Bool :=
  n ≤ 0x08 || (0x10 ≤ n && n < 0x28 && n % 8 < 6) || (0x28 ≤ n && n ≤ 0x38)

/-- Numbers that CSRW may not name (R321). -/
def csrReadOnly (n : Nat) : Bool := 1 ≤ n && n ≤ 7

/-- Reserved bits of a CSR. -/
def csrReserved (n : Nat) : Byte :=
  if n = 0 then 0xE0 else if n = 0x08 then 0xF8 else if n = 0x2C then 0xFC else if n = 0x2D then 0x80 else if n = 0x2F then 0x70
  else if n = 0x38 then 0x78 else 0

/-- The FLAGS byte. -/
def Core.flags (c : Core) : Byte := BitVec.ofNat 8 (b2n c.c + 2 * b2n c.z + 4 * b2n c.n + 8 * b2n c.v + 16 * b2n c.i)

/-- The core with its flags from a byte. -/
def Core.setFlags (c : Core) (v : Byte) : Core :=
  { c with c := bitAt v 0, z := bitAt v 1, n := bitAt v 2, v := bitAt v 3, i := bitAt v 4 }

/-- A stored CSR byte; TAG_HI is held with its bit 7 inverted. -/
def Core.csrByte (c : Core) (n : Nat) : Byte :=
  let v := smGet c.csr n 0
  if n = 0x2F then v ^^^ 0x80 else v

def Core.setCsr (c : Core) (n : Nat) (v : Byte) : Core :=
  { c with csr := smSet c.csr n (if n = 0x2F then v ^^^ 0x80 else v) 0 }

/-- A pair of stored bytes, low byte first. -/
def Core.csrPair (c : Core) (n : Nat) : Nat := (c.csrByte n).toNat + (c.csrByte (n + 1)).toNat * 256

def Core.setCsrPair (c : Core) (n v : Nat) : Core :=
  (c.setCsr n (BitVec.ofNat 8 v)).setCsr (n + 1) (BitVec.ofNat 8 (v / 256))

/-! ### Loop levels (R337) -/

def lStart (l : Nat) : Nat := 0x10 + 8 * l
def lEnd (l : Nat) : Nat := 0x12 + 8 * l
def lCount (l : Nat) : Nat := 0x14 + 8 * l

/-- Loop level `l` is active. -/
def Core.loopOn (c : Core) (l : Nat) : Bool := bitAt (c.csrByte 0x08) l

def Core.setLoop (c : Core) (l : Nat) (b : Bool) : Core := c.setCsr 0x08 (withBit (c.csrByte 0x08) l b)

/-- The highest active level. -/
def Core.loopTop (c : Core) : Option Nat :=
  if c.loopOn 2 then some 2 else if c.loopOn 1 then some 1 else if c.loopOn 0 then some 0 else none

/-- LSTART and LEND obey R337. -/
def loopOk (start stop : Nat) : Bool := stop % 2 = 0 && start ≤ stop && stop ≤ 0x7FFE && start < 0x8000

/-- A write of LACTIVE activates only levels whose CSRs obey R337 (R340). -/
def Core.activates (c : Core) (v : Byte) : Bool :=
  [0, 1, 2].all fun l => !bitAt v l || c.loopOn l || loopOk (c.csrPair (lStart l)) (c.csrPair (lEnd l))

/-! ### Reads and writes -/

/-- A CSR as CSRR returns it; none where the number is undefined (R321). -/
def Dev.csrRead (d : Dev) (k n : Nat) : Option Byte :=
  let c := d.core k
  if !csrListed n then none
  else if n = 0 then some c.flags
  else if n = 1 then some (BitVec.ofNat 8 (coreAgent k))
  else if n = 0x38 then some (BitVec.ofNat 8 (4 * b2n c.refused + 2 * b2n c.fired + b2n c.armed))
  else some (c.csrByte n)

/-- What the write of the last byte of a held value puts in force (R322). -/
def Core.inForce (c : Core) (n : Nat) : Core :=
  if n = 0x2C then
    { c with wbase := BitVec.ofNat 48 ((leNat ((List.range 5).map fun i => c.csrByte (0x28 + i))) * 2 ^ 14) }
  else if n = 0x2F then
    let h := c.csrByte 0x2F
    { c with tagAgent := bitAt h 7, tagNum := BitVec.ofNat 12 (fld h 0 4 * 256 + (c.csrByte 0x2E).toNat) }
  else if n = 0x37 then { c with pcmp := BitVec.ofNat 64 (leNat ((List.range 8).map fun i => c.csrByte (0x30 + i))) }
  else c

/-- A CSRW; none where it raises ILLEGAL (R321, R340). -/
def Dev.csrWrite (d : Dev) (k n : Nat) (v : Byte) : Option Dev :=
  let c := d.core k
  if !csrListed n || csrReadOnly n || v &&& csrReserved n != 0 || (n = 0x2D && v.toNat > 0x5F) || (n = 0x08 && !c.activates v) then none
  else if n = 0 then some (d.setCore k (c.setFlags v))
  else if n = 0x38 then
    let d := d.setCore k { c with refused := c.refused && !bitAt v 2, fired := c.fired && !bitAt v 1 }
    some (if bitAt v 7 then d.coreCancel k else d)
  else if n = 0x2D then some (d.setCore k { c.setCsr n v with rlatch := none, wlatch := none })
  else
    let d := d.setCore k ((c.setCsr n v).inForce n)
    some (if n = 0x37 then d.coreArm k else d)

end Sys2Proof.Machine
end

