-- ==== Sys2Proof/Machine/Hub.lean ====
section
/-!
DEFINITION. Arbiters: requester ports, grants by class and credit, masking, starvation, commit and reset (R401, R426–R433).
-/

namespace Sys2Proof.Machine

/-- Number of an arbiter in `arbs`. -/
def arbNum : ArbName → Nat
  | .hub a => a
  | .wheel w b => 32 + 2 * w + b
  | .lram w _ => 64 + w

/-- Page and register base of arbiter number `a` below 64. -/
def arbPage (a : Nat) : Nat := if a < 32 then pgHUB else pgWARB + (a - 32) / 2
def arbBase (a : Nat) : Nat := if a < 32 then 0x100 + 0x80 * a else 0x100 + 0x80 * ((a - 32) % 2)

/-- Ports of an arbiter (R426). -/
def arbPorts (a : Nat) : List Nat :=
  if a < 32 then hubPorts a else if (a - 32) % 2 = 0 then List.range 11 else [8, 9, 10, 11]

/-- The starvation event of an arbiter. -/
def arbEvent (a : Nat) : Nat := if a < 32 then 320 + a else if a < 64 then 344 + (a - 32) else 360 + (a - 64)

/-- The domain of an arbiter's target. -/
def arbTarget (a : Nat) : Nat :=
  if a < 16 then 124 + a else if a < 18 then 26 + (a - 16) else if a = 18 then 3 else if a < 32 then 150
  else commonDom ((a - 32) / 2)

/-- The domain whose fence or OFF masks a port; none for the debug port. -/
def portUnit (a p : Nat) : Option Nat :=
  if a < 16 ∨ a = 19 then
    if p < 8 then some (commonDom p) else if p = 8 then some 151 else some 150
  else if a < 18 then (if p = 0 then some 150 else if p = 1 then some 3 else if p = 2 then some 1 else none)
  else if a = 18 then (if p = 0 then some 150 else if p = 1 then some 4 else if p = 2 then some 3 else some 1)
  else if a = 20 then
    if p = 0 then some 4 else if p = 1 then some 3 else if p = 2 then some 1 else if p = 3 then none else some 4
  else
    let w := (a - 32) / 2
    if p < 8 then some (coreDom w p) else if p < 10 then some (ceDom (2 * w + (p - 8)))
    else if p = 10 then some (moverDom w) else some 150

/-- A port is masked (R428). -/
def Dev.portMasked (d : Dev) (a p : Nat) : Bool :=
  match portUnit a p with
  | none => d.faults.halted
  | some k =>
    let wheel := (a < 16 || a = 19) && p < 8
    (if wheel then (d.wfault p).fenced || d.faults.halted else d.isFenced k) || (d.dom k).state = .off

/-- MASKED of an arbiter. -/
def Dev.maskedWord (d : Dev) (a : Nat) : Word :=
  w32 (((arbPorts a).filter fun p => d.portMasked a p).foldl (fun v p => v + 2 ^ p) 0)

def Dev.arb (d : Dev) (a : Nat) : Arb := smGet d.arbs a {}
def Dev.setArb (d : Dev) (a : Nat) (v : Arb) : Dev := { d with arbs := smSet d.arbs a v {} }

/-- CLASS, WEIGHT and STARVE_LIMIT in force of a port. -/
def Dev.portClass (d : Dev) (a p : Nat) : Nat := d.rf (arbPage a) (arbBase a + 4 * p) 8 2
def Dev.portWeight (d : Dev) (a p : Nat) : Nat := d.rf (arbPage a) (arbBase a + 4 * p) 0 4
def Dev.portLimit (d : Dev) (a p : Nat) : Nat := d.rf (arbPage a) (arbBase a + 4 * p) 16 8

def Arb.creditOf (v : Arb) (p : Nat) : Nat := smGet v.credit p 4
def Arb.setCredit (v : Arb) (p n : Nat) : Arb := { v with credit := smSet v.credit p n 4 }

/-- The credits of some ports take their weights. -/
def Dev.reload (d : Dev) (a : Nat) (ps : List Nat) : Dev :=
  d.setArb a (ps.foldl (fun v p => v.setCredit p (d.portWeight a p)) (d.arb a))

/-- The first of some ports with credit, searching upward from a pointer (R427). -/
def Arb.search (v : Arb) (start : Nat) (r : List Nat) : Option Nat :=
  ((List.range 16).map fun i => (start + i) % 16).find? fun p => r.contains p && decide (0 < v.creditOf p)

/-- A starvation flag, its event and its count (R430). `at_`: page, flag register, count register and CNT_SAT bit. -/
def Dev.starve (d : Dev) (a p page flag cnt sat : Nat) : Dev :=
  let d := d.setArb a { d.arb a with told := p :: (d.arb a).told }
  ((d.setReg page flag (d.reg page flag ||| w32 (2 ^ p))).raiseEvent (arbEvent a)).bump page cnt 1 0x040 sat

/-- A port that has been passed over waits one more grant (R427, R430). -/
def Dev.passOver (d : Dev) (a : Nat) (q : Nat) : Dev :=
  let v := d.arb a
  let n := smGet v.waited q 0 + 1
  let d := d.setArb a { v with waited := smSet v.waited q n 0 }
  let l := d.portLimit a q
  if l ≠ 0 ∧ 16 * l < n ∧ !v.told.contains q then
    d.starve a q (arbPage a) (arbBase a + 0x40) (arbBase a + 0x48) (if a < 32 then a else (a - 32) % 2)
  else d

/-- A grant to a port of a class (R427). -/
def Dev.grantPort (d : Dev) (a k p : Nat) (others : List Nat) : Dev :=
  let v := d.arb a
  let c := v.creditOf p - 1
  let v := v.setCredit p c
  let v := { v with ptr := smSet v.ptr k (if 0 < c then p else (p + 1) % 16) 0, waited := smSet v.waited p 0 0
                    told := v.told.filter (· ≠ p) }
  others.foldl (fun d q => d.passOver a q) (d.setArb a v)

/-- One opportunity of an arbiter: the classes from `k` - 1 down (R427). -/
def Dev.grantClass (d : Dev) (a : Nat) (req : List Nat) : Nat → Dev
  | 0 => d
  | k + 1 =>
    let r := req.filter fun p => d.portClass a p = k
    if r.isEmpty then d.grantClass a req k
    else
      let d := if r.any fun p => decide (0 < (d.arb a).creditOf p) then d
        else d.reload a ((arbPorts a).filter fun p => d.portClass a p = k)
      match (d.arb a).search (smGet (d.arb a).ptr k 0) r with
      | some p => d.grantPort a k p (req.filter (· ≠ p))
      | none => d

/-- A grant opportunity with some ports presenting requests; a fenced target answers without arbitration, a sleeping one
holds its requests (R427–R429). -/
def Dev.arbiterGrant (d : Dev) (a : Nat) (present : BitVec 16) : Dev :=
  if d.gate (arbTarget a) ≠ .ok then d
  else
    let masked := (arbPorts a).filter fun p => d.portMasked a p
    let v := d.arb a
    let d := d.setArb a { v with waited := v.waited.filter fun e => !masked.contains e.1 }
    d.grantClass a ((arbPorts a).filter fun p => present.getLsbD p && !masked.contains p) 4

/-- A step of core `c`'s local RAM: bit 0 of `present`, the core takes it; bit 1, a hub access waits (R401, R430). -/
def Dev.lramGrant (d : Dev) (w c : Nat) (present : BitVec 16) : Dev :=
  let a := 64 + w
  let v := d.arb a
  if !present.getLsbD 1 ∨ d.gate (coreDom w c) ≠ .ok then d
  else if !present.getLsbD 0 then
    d.setArb a { v with waited := smSet v.waited c 0 0, told := v.told.filter (· ≠ c) }
  else
    let n := smGet v.waited c 0 + 1
    let d := d.setArb a { v with waited := smSet v.waited c n 0 }
    let l := d.rf (pgWARB + w) 0x200 16 8
    if l ≠ 0 ∧ 16 * l < n ∧ !v.told.contains c then d.starve a c (pgWARB + w) 0x204 0x208 2 else d

def Dev.grant (d : Dev) (arb : ArbName) (present : BitVec 16) : Dev :=
  match arb with
  | .lram w c => d.lramGrant w c present
  | _ => d.arbiterGrant (arbNum arb) present

/-- An arbiter starts anew: credits at the weights in force, pointers and waits at 0, flags clear (R433). -/
def Dev.arbReset (d : Dev) (a : Nat) : Dev :=
  if a < 64 then (({ d with arbs := smErase d.arbs a }.setReg (arbPage a) (arbBase a + 0x40) 0).reload a (arbPorts a))
  else { d with arbs := smErase d.arbs a }.setReg (pgWARB + (a - 64)) 0x204 0

/-- The arbiters of a page. -/
def pageArbs (p : Nat) : List Nat :=
  if p = pgHUB then List.range 21 else if pgWARB ≤ p ∧ p < pgWARB + 8 then [32 + 2 * (p - pgWARB), 33 + 2 * (p - pgWARB)] else []

/-- Every shadow of a page comes into force, and its credits are reloaded (R431, R539). -/
def Dev.commit (d : Dev) (p : Nat) : Dev :=
  let d := (d.shadow.filter fun e => e.1 / 1024 = p).foldl (fun d e => d.setReg p (e.1 % 1024 * 4) e.2) d
  let d := { d with shadow := d.shadow.filter fun e => e.1 / 1024 ≠ p }
  (pageArbs p).foldl (fun d a => d.reload a (arbPorts a)) d

/-- A parity error on a bridge lane: the domain is fenced by its fault (R434). -/
def Dev.bridgeError (d : Dev) (lane : Nat) : Dev :=
  let d := (d.bump pgBRG 0x05C 1 0x060 0).bump16 pgBRG (0x100 + 4 * lane) 0 1
  (d.setRf pgBRG (0x100 + 4 * lane) 31 1 1).raiseFault
    { kind := 26, page := pgBRG, source := 0, info := w32 lane, unit := some 150 }

end Sys2Proof.Machine
end

