-- ==== Sys2Proof/Machine/Units.lean ====
section
/-!
DEFINITION. What a unit's registers and logic return to when its domain wakes from OFF, is reset or recovers (R129, R252,
R318, R374, R404, R413, R481, R496–R498, R541, R560).
-/

namespace Sys2Proof.Machine

/-- Why a unit's registers and logic are reset. -/
inductive ResetKind where
  | wake | dreset | perst | recovery
  deriving DecidableEq, Repr

/-- Block registers of a page, with PG_INJECT (R534). -/
def blockOff (o : Nat) : Bool := o = 0x02C || decide (0x40 ≤ o)

/-- Header words that a reset of the page's units returns to their reset values (R541). -/
def headerOff (o : Nat) : Bool := [0x008, 0x00C, 0x010, 0x01C, 0x038].contains o

/-- Offsets from `lo`, `n` bytes. -/
def offIn (lo n o : Nat) : Bool := lo ≤ o && o < lo + n

/-- A page of a single unit is reset; its header too, but not by a power transition. -/
def Dev.resetPage (d : Dev) (p : Nat) (y : ResetKind) (keep : Nat → Bool) : Dev :=
  d.resetRegs p fun o => (blockOff o || (y ≠ .wake && headerOff o)) && !keep o

/-- Nothing of a page is kept. -/
def keepNone (_ : Nat) : Bool := false

/-- A PHY quad's registers and lanes. -/
def Dev.resetQuad (d : Dev) (q : Nat) : Dev :=
  let d := d.resetRegs pgPHY fun o => offIn (0x100 + 32 * q) 32 o || offIn (0x400 + 64 * q) 64 o || offIn (0x600 + 128 * q) 128 o
  { d with links := { d.links with zcal := d.links.zcal.filter (· ≠ q), margin := d.links.margin.filter fun l => l / 4 ≠ q } }

/-- A wheel common unit: interrupts, mailboxes, locks and arbiters of its wheel. -/
def Dev.resetCommon (d : Dev) (w : Nat) (y : ResetKind) : Dev :=
  let d := d.resetPage (pgWICU + w) y keepNone
  let d := d.resetPage (pgWMBX + w) y keepNone
  let d := d.resetPage (pgWARB + w) y fun o => y = .recovery && offIn 0x400 16 o
  let locks : SMap Lock :=
    if y = .recovery then
      (d.locks.map fun e => if e.1 / 16 = w ∧ e.1 < 128 then (e.1, ({ broken := e.2.owner.isSome || e.2.broken } : Lock)) else e).filter
        fun e => decide (e.2 ≠ ({} : Lock))
    else
      -- those owned at a fence stay until the fence lifts, which breaks them (R385)
      d.locks.filter fun e => e.1 / 16 ≠ w || decide (128 ≤ e.1) || (y = .wake && d.isFenced (commonDom w) && e.2.owner.isSome)
  let d := { d with
    srcs := d.srcs.filter fun e => e.1 / 512 ≠ w
    prioStacks := d.prioStacks.filter fun e => e.1 / 8 ≠ w
    mboxes := d.mboxes.filter fun e => e.1 / 16 ≠ w
    locks := locks }
  let d := (rangeFrom (8 * w) 8).foldl (fun d k => d.setCore k { d.core k with completeCnt := 0 }) d
  ((d.arbReset (32 + 2 * w)).arbReset (33 + 2 * w)).arbReset (64 + w)

/-- HIF returns to its reset values (R252); the posting logic and its store are in the memory segment. -/
def Dev.resetHif (d : Dev) (y : ResetKind) : Dev :=
  let d := d.resetPage pgHIF y keepNone
  { d with hif := { store := d.hif.store, checks := d.hif.checks } }

/-- The host window table is cleared (R413). -/
def Dev.clearHwt (d : Dev) : Dev :=
  { d with mem := memClear d.mem hwtBase 0x80000, hwtHeld := [] }

/-- The configuration space of the internal endpoint returns to its reset values. -/
def Dev.resetEndpoint (d : Dev) : Dev := { d with cfg := d.cfg.filter fun e => e.1 / 1024 ≠ cfEp }

/-- Entries of a map whose key satisfies a test are dropped. -/
def drop {α : Type} (m : SMap α) (f : Nat → Bool) : SMap α := m.filter fun e => !f e.1

/-- Channel `c` of LPDDR5X has to be trained again (R416). -/
def Dev.untrain (d : Dev) (c : Nat) : Dev :=
  { d with links := { d.links with trained := d.links.trained.filter (· ≠ c) } }

/-- The registers and logic of domain `k`'s unit return to their reset values; memory is left alone. -/
def Dev.unitReset (d : Dev) (k : Nat) (y : ResetKind) : Dev :=
  if k = 2 then d.resetQuad 0
  else if k = 3 then
    let d := d.resetPage pgPUP y fun o => o = 0x040
    let d := ((d.resetPage pgPSW y keepNone).resetPage pgHWT y keepNone).resetPage pgWCH y keepNone
    { d.resetPage pgNVA y keepNone with
      lqs := [], lastCqe := [], hwtHeld := []
      held := d.held.filter fun q => match q with
        | .lend _ => false
        | _ => true }
  else if k = 4 then (d.resetHif y).resetEndpoint
  else if k < 8 then d.resetQuad (k - 4)
  else if k < 14 then d.resetPage (pgPDN + (k - 8)) y fun o => o = 0x044
  else if k < 17 then
    let c := 2 * (k - 14)
    { d.resetRegs pgI3C (offIn (0x100 + 0x80 * c) 0x100) with i3cs := drop d.i3cs fun i => i / 2 = k - 14 }
  else if k < 19 then
    let s := 2 * (k - 17)
    let mine := fun (i : Nat) => decide (i / 2 = k - 17)
    { d.resetRegs pgSPI (offIn (0x100 + 0x40 * s) 0x80) with
      spis := drop d.spis mine
      wide := drop d.wide fun e => e / 1024 = pgSPI && decide (0x100 ≤ e % 1024 * 4) && mine ((e % 1024 * 4 - 0x100) / 64) }
  else if k = 19 then
    { d.resetPage pgUAR y keepNone with uarts := [], wide := drop d.wide fun e => e / 1024 = pgUAR }
  else if k = 20 then { d.resetPage pgGPI y keepNone with gpi := { level := 0, raw := d.gpi.raw, since := d.gpi.since } }
  else if k < 23 then
    let f := 16 * (k - 21)
    { d.resetRegs pgFIF (offIn (0x100 + 0x40 * f) 0x400) with fifos := drop d.fifos fun i => i / 16 = k - 21 }
  else if k = 24 then { d.resetPage pgECP y keepNone with ecp := {} }
  else if k = 25 then { d.resetRegs pgKTL (offIn 0x060 0x14) with boot := { d.boot with qspi := none } }
  else if k = 26 ∨ k = 27 then (d.untrain (k - 26)).arbReset (16 + (k - 26))
  else if 28 ≤ k ∧ k < 124 then
    let w := (k - 28) / 12
    let j := (k - 28) % 12
    if j < 8 then
      let c := 8 * w + j
      let d := d.resetRegs (pgWCOR + w) (offIn (corOff c 0x14) 12)
      let d := if y = .perst then d.resetRegs (pgWCOR + w) (offIn (corOff c 0) 20) else d
      let d := d.coreReset c
      if y = .dreset ∧ !d.rb (pgWCOR + w) (corOff c 0) 31 then d.coreRelease c else d
    else if j < 10 then
      let n := 2 * w + (j - 8)
      (d.engineZero n).resetPage (pgCE + n) y keepNone
    else if j = 10 then (d.mvReset w).resetPage (pgWDM + w) y keepNone
    else d.resetCommon w y
  else if 124 ≤ k ∧ k < 140 then
    let g := k - 124
    (d.resetRegs pgMEM fun o => o = 0x100 + 4 * g || o = 0x140 + 4 * g).arbReset g
  else if k = 150 then
    let d := d.resetPage pgBRG y keepNone
    let d := { d with wide := drop d.wide fun e => e / 1024 = pgBRG, hif := { d.hif with store := [], checks := [] } }
    (d.arbReset 19).arbReset 20
  else if k = 151 then d.resetPage pgXCR y keepNone
  else d

/-- What a wake from OFF clears: memory (R404, R413, R318), and the strainer slice of a wheel (R467). -/
def Dev.clearUnit (d : Dev) (k : Nat) : Dev :=
  if k = 3 then d.clearHwt
  else if 124 ≤ k ∧ k < 140 then
    (d.clearMem ((k - 124) * 0x300000) 0x300000).count 7 5 (regionTag 7) 98304
  else if 28 ≤ k ∧ k < 124 then
    let w := (k - 28) / 12
    let j := (k - 28) % 12
    if j < 8 then d.clearMem (coreLram (8 * w + j)) 0x8000
    else if j = 11 then
      let d := d.clearMem (xramBase + w * 0x10000) 0x10000
      { d with faults := { d.faults with strain := drop d.faults.strain fun e => decide (e / 256 % 4 = 1 ∧ e % 256 = w) } }
    else d
  else if k = 151 then { d with xdt := [] }
  else d

/-- Registers of pages of several units (R497, R560); the key slots of page XAE are domain 0's, and are kept (R313). -/
def Dev.resetShared (d : Dev) : Dev :=
  let d := [pgDRC, pgXSH, pgXDF, pgI3C, pgSPI, pgFIF, pgMEM, pgPHY].foldl
    (fun d p => d.resetPage p .perst keepNone) d
  let d := d.resetPage pgXAE .perst fun o => offIn 0x100 0x100 o
  let d := (List.range 8).foldl (fun d w => d.resetPage (pgWCOR + w) .perst keepNone) d
  let d := d.resetPage pgHUB .perst keepNone
  (List.range 21).foldl Dev.arbReset d

end Sys2Proof.Machine
end

