-- ==== Sys2Proof/Machine/Domains.lean ====
section
/-!
DEFINITION. The derailleur: idleness and floors (R438, R439), known events and schedule slots (R440, R441), estimates
(R446–R448), the selection (R443, R444), transitions (R436, R437, R449), CYCLE and DRESET (R450, R498, R569).
-/

namespace Sys2Proof.Machine

/-- The state one step deeper. -/
def PState.deeper : PState → PState
  | .active => .doze
  | .freewheel => .doze
  | .doze => .nap
  | .nap => .off
  | .off => .off

/-- The state of an encoding from 1 to 4. -/
def PState.ofCode (n : Nat) : PState := if n = 2 then .doze else if n = 3 then .nap else if n = 4 then .off else .freewheel

/-! ### Idleness (R438, R439, R356) -/

/-- A CCW is being fetched from the host window (R145). -/
def Dev.fetchesHost (d : Dev) (i : Nat) : Bool := (d.ctx i).phase = .fetching && rangeOf (d.scb i).ccwAddr.toNat = .hostwin

/-- A read of host memory by a unit of the device is in progress. -/
def Dev.hostBusy (d : Dev) : Bool :=
  d.ctxs.any (fun e => e.2.hostReq.isSome || d.fetchesHost e.1) || d.movers.any (fun e => e.2.cur.any fun x => x.hostReq.isSome) ||
    d.cores.any fun e => e.2.pend.any fun p => p.host && !p.arrived

/-- Some subchannel's device command is in progress on an adapter of a domain. -/
def Dev.adapterBusy (d : Dev) (k : Nat) : Bool := d.ctxs.any fun e => d.usesUnit k e.1

/-- A load of the core whose access is still to be made, or whose host read is outstanding. -/
def PendLoad.unmade (q : PendLoad) : Bool := q.data.isNone && q.fail.isNone

/-- A held request is a posted store of core `k` with a number below `n`. -/
def HeldReq.storeOf (k n : Nat) : HeldReq → Bool
  | .store j o _ _ _ => j = k && decide (o < n)
  | _ => false

/-- Core `k` has posted stores that are not acknowledged yet (R345). -/
def Dev.posting (d : Dev) (k : Nat) : Bool := d.held.any (HeldReq.storeOf k (d.core k).order)

/-- A core counts as idle (R356). -/
def Dev.coreIdle (d : Dev) (k : Nat) : Bool :=
  let c := d.core k
  match c.state with
  | .waiting => c.pend.all (·.arrived) && !d.posting k && c.storeErrs.isEmpty && !d.line k
  | .reset => true
  | .bootErr => true
  | .faultStop => true
  | _ => false

/-- A domain's unit has no work and meets the condition of R439. -/
def Dev.isIdle (d : Dev) (k : Nat) : Bool :=
  if k = 0 then !d.caddy.wiping
  else if k = 1 then d.coreIdle 64
  else if k ≤ 3 then !d.hostBusy
  else if k = 4 then !d.hostBusy && !d.hif.flushing
  else if k < 8 then true
  else if k < 14 then !(d.ctxs.any fun e => d.usesUnit k e.1 && bKind (d.scb e.1).binding = 2)
  else if k < 17 then !d.adapterBusy k && !(d.i3c (2 * (k - 14))).daaBusy && !(d.i3c (2 * (k - 14) + 1)).daaBusy && !(k = 16 && d.pmic.busy.isSome)
  else if k < 19 then !d.adapterBusy k
  else if k = 19 then !d.adapterBusy k && d.uarts.all fun e => e.2.rx.isEmpty
  else if k < 23 then !d.adapterBusy k
  else if k = 25 then d.boot.qspi.isNone
  else if 28 ≤ k ∧ k < 124 then
    let w := (k - 28) / 12
    let j := (k - 28) % 12
    if j < 8 then d.coreIdle (8 * w + j)
    else if j < 10 then (d.activeSub (2 * w + (j - 8))).isNone
    else if j = 10 then !(d.mover (2 * w)).running && !(d.mover (2 * w + 1)).running
    else true
  else if 140 ≤ k ∧ k < 148 then !(d.streams.any fun e => e.2.engs.any fun g => engDom (g / 16) (g % 16) = k)
  else if k = 150 then !d.hif.flushing
  else if k = 151 then d.streams.isEmpty && d.streamWait.isEmpty
  else true

/-! ### Floors (R439) -/

/-- Some ring is enabled. -/
def Dev.anyRing (d : Dev) : Bool := !d.enabledRings.isEmpty

/-- The deepest state that a downstream or upstream link allows its units, by code. -/
def Dev.linkFloor (d : Dev) (p : Nat) : Nat :=
  let s := d.pmState p
  if s = 2 then 2 else if s = 3 then 3
  else if s = 5 ∧ p ≠ 6 ∧ !((List.range 32).any fun q => (d.lq q).state ≠ .free && d.lqPort q = p) then 4 else 1

/-- The ports with lanes in a PHY quad. -/
def quadPorts (q : Nat) : List Nat := (List.range 7).filter fun p => (portLanes p).any fun l => l / 4 = q

/-- VALID_CNT of the host window table. -/
def Dev.hwtValid (d : Dev) : Nat := ((List.range 65536).filter fun i => Machine.hwtValid (d.hwtEntry i)).length

/-- Some entry of the host window table is valid. -/
def Dev.hwtAny (d : Dev) : Bool := d.mem.any fun c => hwtBase ≤ c.1 && c.1 < hwtBase + 0x80000 && c.1 % 8 = 7 && bitAt c.2 7

/-- The deepest state the condition of a domain allows, by code. -/
def Dev.floorAllowed (d : Dev) (k : Nat) : Nat :=
  if k = 1 then 3
  else if k = 2 then d.linkFloor 6
  else if k = 3 then
    if (List.range 7).any fun p => d.pmState p = 0 then 1
    else if !d.hwtAny && (List.range 6).all (fun p => d.pmState p = 5) then 4 else 3
  else if k = 4 then if d.anyRing then 3 else 4
  else if k < 8 then (quadPorts (k - 4)).foldl (fun m p => min m (d.linkFloor p)) 4
  else if k < 14 then d.linkFloor (k - 8)
  else if k < 16 then if [0, 1].any fun i => d.rb pgI3C (0x100 + 0x80 * (2 * (k - 14) + i)) 31 then 3 else 4
  else if k = 16 then 2
  else if k < 19 then if [0, 1].any fun i => d.rb pgSPI (0x100 + 0x40 * (2 * (k - 17) + i)) 31 then 3 else 4
  else if k = 19 then if (List.range 4).any fun u => d.uartOn u then 3 else 4
  else if k = 20 then
    if d.reg pgGPI 0x048 ≠ 0 ∨ (List.range 32).any (fun i => d.rf pgGPI (0x100 + 4 * i) 0 2 ≠ 0) then 2 else 4
  else if k < 23 then
    if (rangeFrom (16 * (k - 21)) 16).any fun f => d.rb pgFIF (0x100 + 0x40 * f) 31 && d.rf pgFIF (0x100 + 0x40 * f) 24 4 ≠ 0
    then 2 else 4
  else if k = 23 then
    if [14, 15, 16, 17, 18, 19, 20, 21, 22, 24, 25].any fun j => !(d.dom j).asleep then 1 else 4
  else if k = 24 then 1
  else if k ≤ 27 then 4
  else if k < 124 then
    let w := (k - 28) / 12
    let j := (k - 28) % 12
    if j < 8 then if d.rb (corPage (8 * w + j)) (corOff (8 * w + j) 0) 29 then 4 else 3
    else if j < 10 then
      if d.scbs.any fun e => e.1 / 256 = 2 * w + (j - 8) && (e.2.state ≠ .idle || e.2.binding ≠ 0) then 3 else 4
    else if j = 10 then if (rangeFrom (16 * w) 16).any fun c => d.mvEn c then 3 else 4
    else if d.rb pgMEM 0x040 (16 + w) || (List.range 8).any (fun c => !d.rb (pgWCOR + w) (corOff c 0) 31) ||
        (rangeFrom 32 224).any (fun s => (d.route w s).isSome) ||
        (rangeFrom (16 * w) 16).any (fun m => (d.mbox m).full || (d.lock m).owner.isSome) then 3 else 4
  else if k < 140 then if d.rb pgMEM 0x040 (k - 124) then 3 else 4
  else if k = 150 then if d.anyRing || !d.hif.store.isEmpty || !d.hif.checks.isEmpty then 3 else 4
  else if k = 151 then if d.xdt.any fun e => fieldAt e.2 0 1 ≥ 128 then 3 else 4
  else 4

/-- LPDDR5X is absent, so its channels are held OFF (R416). -/
def Dev.dramAbsent (d : Dev) (k : Nat) : Bool := (k = 26 || k = 27) && d.rf pgDRC 0x040 0 3 = 0

/-- The effective floor of a domain, by code (R439). -/
def Dev.floorEff (d : Dev) (k : Nat) : Nat :=
  if d.isFenced k ∨ (smFind d.faults.regions (domRegion k)).isSome then 1
  else if d.dramAbsent k then 4
  else if !d.rb pgDRL 0x040 0 then 1
  else max 1 (min (d.rf pgPWD (0x100 + 16 * k) 0 3) (d.floorAllowed k))

/-! ### Known events (R440, R441) -/

/-- The domains that a wake list entry names. -/
def WlEntry.names (e : WlEntry) (k : Nat) : Bool :=
  match e.kind with
  | .subch => k = ceDom (e.id / 256) || k = (if e.id / 512 < 4 then 148 else 149) || k = 150
  | .core => if e.id = 64 then k = 1 else k = coreDomain e.id || k = commonDom (e.id / 8)
  | .ktimer => k = 1

/-- The earlier of two events still to come. -/
def earlier (now : DT) (a : Option DT) (b : DT) : Option DT :=
  match a with
  | none => some b
  | some x => if (b - now).toNat < (x - now).toNat then some b else some x

/-- The next known event of a domain (R440). -/
def Dev.knownEvent (d : Dev) (k : Nat) : Option DT :=
  let poll := if (k = 2 ∨ k = 3 ∨ k = 4) ∧ d.hif.nextPoll ≠ 0 ∧ !d.hif.pollReached then [d.hif.nextPoll] else []
  let all := ((d.wl.filter fun e => e.names k).map fun e => e.target) ++ poll ++
    ((d.slots.filter fun e => e.2.dom = k).map fun e => e.2.time)
  (all.filter fun t => !reached d.now t).foldl (earlier d.now) none

/-- Registers of a schedule slot. -/
def slotOff (i o : Nat) : Nat := 0x200 + 16 * i + o

/-- SCHED_HI of a slot is written: the slot comes into force, or leaves it (R441). -/
def Dev.slotWritten (d : Dev) (i : Nat) : Dev :=
  let c := d.reg pgDRL (slotOff i 0xC)
  if bitAt c 31 then
    { d with slots := smPut d.slots i { time := cat64 (d.reg pgDRL (slotOff i 4)) (d.reg pgDRL (slotOff i 0)), dom := fld c 0 8 } }
  else { d with slots := smErase d.slots i }

/-- The time of a slot is reached (R441). A SCHED_LO that is held for the next SCHED_HI stays. -/
def Dev.slotReached (d : Dev) (i : Nat) : Dev :=
  match smFind d.slots i with
  | none => d
  | some s =>
    if !reached d.now s.time then d
    else
      let per := d.reg pgDRL (slotOff i 8)
      if per = 0 then
        { d.setRf pgDRL (slotOff i 0xC) 31 1 0 with slots := smErase d.slots i }
      else
        let t := s.time + ds32Dur per
        let d := if d.reg pgDRL (slotOff i 0) = lo32 s.time then d.setReg pgDRL (slotOff i 0) (lo32 t) else d
        { d.setReg pgDRL (slotOff i 4) (hi32 t) with slots := smPut d.slots i { s with time := t } }

/-! ### Estimates (R446–R448) -/

/-- The rate of a service-die region at a voltage and a temperature (R453). -/
def Dev.rateAt (d : Dev) (r v : Nat) (t : BitVec 16) : Nat :=
  let q := (min (max t.toInt 0x1900) 0x6900 - 0x1900).toNat
  let e := fun i =>
    let w := d.reg pgDRL (0x400 + 4 * (16 * (r - 5) + min i 15))
    let a : Int := fld w 0 16
    let b : Int := fld w 16 16
    ((a * 20480 + (b - a) * (q : Int)) / 20480).toNat
  let i := (v - 44) / 2
  if (v - 44) % 2 = 0 then e i else (e i + e (i + 1)) / 2

/-- Key of an estimate window. -/
def estKey (k s : Nat) : Nat := 8 * k + s

/-- The window of exit latencies of a domain's state; the fused value where nothing has replaced it (R446). -/
def Dev.latWindow (d : Dev) (k s : Nat) : List LatEntry :=
  smGet d.lats (estKey k s) (List.replicate 16 { lat := (Config.fuseWord (1000000 + estKey k s)).toNat % 2 ^ 16, volt := 60, temp := 0x5500 })

/-- The window of entry energies, and of exit energies (R447). -/
def Dev.einWindow (d : Dev) (k s : Nat) : List EnEntry :=
  smGet d.eins (estKey k s) (List.replicate 16 { pj := (Config.fuseWord (2000000 + estKey k s)).toNat % 2 ^ 24, volt := 60 })
def Dev.eoutWindow (d : Dev) (k s : Nat) : List EnEntry :=
  smGet d.eouts (estKey k s) (List.replicate 16 { pj := (Config.fuseWord (3000000 + estKey k s)).toNat % 2 ^ 24, volt := 60 })

/-- A latency entry scaled to the present (R446). -/
def Dev.latNow (d : Dev) (k : Nat) (m : LatEntry) : Nat :=
  let r := domRegion k
  if r < 5 then m.lat
  else
    let g := d.region r
    let den := d.rateAt r g.volt g.temp
    if den = 0 then Config.latNoRate k m.lat else ceilDiv (m.lat * d.rateAt r m.volt m.temp) den

/-- An energy entry scaled to the present (R447). -/
def Dev.enNow (d : Dev) (k : Nat) (m : EnEntry) : Nat :=
  let r := domRegion k
  if r < 5 then m.pj
  else
    let den := d.vscale r m.volt
    if den = 0 then Config.energyNoScale k m.pj else ceilDiv (m.pj * d.vscale r (d.region r).volt) den

/-- lat(s), ein(s) and eout(s) of a domain, without the energy of a clear. -/
def Dev.lat (d : Dev) (k s : Nat) : Nat := (d.latWindow k s).foldl (fun m e => max m (d.latNow k e)) 0
def Dev.ein (d : Dev) (k s : Nat) : Nat := (d.einWindow k s).foldl (fun m e => max m (d.enNow k e)) 0
def Dev.eout (d : Dev) (k s : Nat) : Nat := (d.eoutWindow k s).foldl (fun m e => max m (d.enNow k e)) 0

/-- 32-byte writes of the clear of a domain's memory (R404). -/
def clearWrites (k : Nat) : Nat :=
  if 124 ≤ k ∧ k < 140 then 98304
  else if 28 ≤ k ∧ k < 124 then
    let j := (k - 28) % 12
    if j < 8 then 1024 else if j = 11 then 2048 else 0
  else 0

/-- The energy of that clear in pJ (R445). -/
def Dev.clearEnergy (d : Dev) (k s : Nat) : Nat := if s = 4 then ceilDiv (clearWrites k * d.ecEff 7 5) 65536 else 0

/-- p(s) of a domain (R448). -/
def Dev.power (d : Dev) (k s : Nat) : Nat :=
  let r := domRegion k
  let pf := (Config.fuseWord (4000000 + estKey k s)).toNat % 2 ^ 24
  let t := (d.region r).temp
  let ref := d.leakAt r 0x5500
  let vs := if s = 2 then d.vscale r 44 else d.vscale r (d.region r).volt
  if ref = 0 then Config.powerNoLeak k s t else pf * d.leakAt r t * vs / (ref * 0x4000)

/-- The newest measurement enters a window of 16. -/
def window {α : Type} (l : List α) (x : α) : List α := (l ++ [x]).drop (l.length + 1 - 16)

/-- Region voltage and temperature, under which measurements are stored. -/
def Dev.volt (d : Dev) (k : Nat) : Nat := (d.region (domRegion k)).volt
def Dev.temp (d : Dev) (k : Nat) : BitVec 16 := (d.region (domRegion k)).temp

/-! ### The selection (R443, R444) -/

/-- The time available before a known event (R443). -/
def Dev.availFor (d : Dev) (nk : Option DT) : Nat :=
  match nk with
  | none => m32
  | some t =>
    let dt := (t - d.now).toNat
    let g := (d.reg pgDRL 0x044).toNat * 256
    if 2 ^ 63 ≤ dt ∨ dt ≤ g then 0 else min ((dt - g) / 256) m32

/-- The deepest state that passes every test, from state `s` on; `n` states are left. -/
def Dev.selectFrom (d : Dev) (k avail lim best s : Nat) : Nat → Nat
  | 0 => best
  | n + 1 =>
    let de := d.ein k s + d.eout k s + d.clearEnergy k s
    let a := d.power k (s - 1)
    let b := d.power k s
    if lim < d.lat k s then best
    else if a ≤ b then best
    else if avail * (a - b) * 1000000 < de * 2 ^ 24 then best
    else d.selectFrom k avail lim s (s + 1) n

/-- The state an evaluation selects, by code. -/
def Dev.selection (d : Dev) (k : Nat) : Nat :=
  let avail := d.availFor (d.knownEvent k)
  let f := d.floorEff k
  if d.dramAbsent k then f
  else d.selectFrom k avail (min avail (d.reg pgPWD (0x104 + 16 * k)).toNat) 1 2 (f - 1)

/-- A domain is moved toward a state (R436, R439). -/
def Dev.moveToward (d : Dev) (k best : Nat) : Dev :=
  let u := d.dom k
  let now := max 1 u.state.code
  match u.trans with
  | .exiting _ _ => d
  | .entering _ => if now < best then d.setDom k { u with trans := .entering (PState.ofCode best) } else d.startExit k false none
  | .none =>
    if now < best then d.setDom k { u with trans := .entering (PState.ofCode best) }
    else if best < now then d.startExit k false none
    else d

/-- One evaluation of a domain (R442–R444). -/
def Dev.evaluate (d : Dev) (k : Nat) : Dev :=
  let u := d.dom k
  if k = 0 ∨ !u.eligible ∨ d.isFenced k ∨ u.cycling then d
  else
    let d := d.bump pgDRL 0x050 1 0x060 0
    let best := d.selection k
    let nk := d.knownEvent k
    let d := d.moveToward k best
    match nk with
    | some t =>
      if best = 1 then d.setDom k { d.dom k with wakeAt := none }
      else
        let at_ := t - BitVec.ofNat 64 ((d.lat k best + (d.reg pgDRL 0x044).toNat) * 256)
        if reached d.now at_ then d.startExit k false (some t)
        else d.setDom k { d.dom k with wakeAt := some at_, wakeFor := t }
    | none => d.setDom k { d.dom k with wakeAt := none }

/-- IDLE_HOLD has passed without interruption (R438). -/
def Dev.idleHold (d : Dev) (k : Nat) : Dev :=
  if k ≠ 0 ∧ d.isIdle k ∧ !(d.dom k).asleep ∧ !d.isFenced k then d.setDom k { d.dom k with eligible := true } else d

/-- DT64 reaches a domain's scheduled wake (R444). -/
def Dev.scheduledWake (d : Dev) (k : Nat) : Dev :=
  match (d.dom k).wakeAt with
  | some t => if reached d.now t ∧ !d.isFenced k then d.startExit k false (some (d.dom k).wakeFor) else d
  | none => d

/-! ### Transitions (R436, R437, R449) -/

/-- Whether two domains of a region are in transition at once, so that no energy is entered (R447). -/
def Dev.soleTransition (d : Dev) (k : Nat) : Bool :=
  (regionDoms (domRegion k)).all fun j => j = k || ((d.dom j).trans = .none && !(d.dom j).cycling)

/-- A measured transition energy enters its window (R447). -/
def Dev.measureIn (d : Dev) (k s : Nat) (pj : Option Nat) : Dev :=
  match pj with
  | some e => if 5 ≤ domRegion k ∧ d.soleTransition k then { d with eins := smPut d.eins (estKey k s) (window (d.einWindow k s) { pj := e, volt := d.volt k }) } else d
  | none => d
def Dev.measureOut (d : Dev) (k s : Nat) (pj : Option Nat) : Dev :=
  match pj with
  | some e => if 5 ≤ domRegion k ∧ d.soleTransition k then { d with eouts := smPut d.eouts (estKey k s) (window (d.eoutWindow k s) { pj := e, volt := d.volt k }) } else d
  | none => d

/-- A transition is charged its estimate (R447, kind 31 of R57). -/
def Dev.chargeTrans (d : Dev) (k pj : Nat) : Dev := d.chargeRegion (domRegion k) (regionTag (domRegion k)) (pj * 65536)

/-- What a domain loses as it reaches OFF: locks that its agents own free themselves (R384). -/
def Dev.poweredOff (d : Dev) (k : Nat) : Dev := d.breakLocks fun a => agentDom a = some k

/-- One step of an entry completes (R436). -/
def Dev.entryStep (d : Dev) (k : Nat) (pj : Option Nat) : Dev :=
  let u := d.dom k
  match u.trans with
  | .entering goal =>
    if u.cycling ∨ d.isFenced k then d
    else
      let s := u.state.deeper
      let d := (d.chargeTrans k (d.ein k s.code)).measureIn k s.code pj
      let d := d.setDom k { u with state := s, trans := if s = goal then .none else .entering goal }
      if s = .off then d.poweredOff k else d
  | _ => d

/-- The energies of the steps of an exit from state `s`, charged and measured; `pj` from the deepest step on. -/
def Dev.exitEnergies (d : Dev) (k : Nat) : Nat → List (Option Nat) → Dev
  | 0, _ => d
  | 1, _ => d
  | s + 1, pj => ((d.chargeTrans k (d.eout k (s + 1))).measureOut k (s + 1) (pj.headD none)).exitEnergies k s (pj.drop 1)

/-- The unit of a domain that leaves OFF comes up (R129, R252, R318, R355, R374, R404, R413); not
while a core's boot copy waits for a domain, which has begun to wake. -/
def Dev.comeUp (d0 : Dev) (k : Nat) : Bool × Dev :=
  let d := (d0.clearUnit k).unitReset k .wake
  if 28 ≤ k ∧ k < 124 ∧ (k - 28) % 12 < 8 then
    match d.coreWakes (8 * ((k - 28) / 12) + (k - 28) % 12) with
    | .ok d => (true, d)
    | .wait d => (false, { d0 with doms := d.doms })
    | .err d => (true, d)
  else if k = 1 then
    -- the kettle core is reset and fetches at 0x0000, once the ROM has ended; its local RAM is kept (R354, R404, R495)
    let d := d.coreReset 64
    (true, if d.rb pgKTL 0x040 30 then d.setCore 64 { d.core 64 with state := .running } else d)
  else (true, d)

/-- What the counters of a domain and of the derailleur take at the end of an exit (R449). -/
def Dev.countExit (d : Dev) (k : Nat) (tr : Trans) : Dev :=
  let late := match tr with
    | .exiting _ (some t) => reached d.now (t + 1)
    | _ => false
  let dem := match tr with
    | .exiting b _ => b
    | _ => false
  let u := d.dom k
  let w := satAdd u.wakes 1
  let l := satAdd u.late (b2n late)
  let n := satAdd u.unplanned (b2n dem)
  let sat := u.cntSat ||| BitVec.ofNat 4 (b2n w.2 + 2 * b2n l.2 + 4 * b2n n.2)
  let d := d.setDom k { u with wakes := w.1, late := l.1, unplanned := n.1, cntSat := sat }
  let d := if late then d.bump pgDRL 0x054 1 0x060 1 else d
  if dem then d.bump pgDRL 0x058 1 0x060 2 else d

/-- A CYCLE has returned its domain: the fence of a unit-fatal fault lifts (R479). -/
def Dev.endCycle (d : Dev) (k : Nat) : Dev := d.liftFence k .fault

/-- An exit completes: `lat` is its whole time in DT units (R436, R446, R449). -/
def Dev.exitComplete (d : Dev) (k lat : Nat) (pj : List (Option Nat)) : Dev :=
  let u := d.dom k
  match u.trans with
  | .exiting _ _ =>
    if d.isFenced k ∧ !u.cycling then d
    else
      match if u.state = .off then d.comeUp k else (true, d) with
      | (false, d) => d
      | (true, d) =>
        let s := u.state.code
        let d := d.exitEnergies k s pj
        let m : LatEntry := { lat := ceilDiv lat 256, volt := d.volt k, temp := d.temp k }
        let d := if 2 ≤ s then { d with lats := smPut d.lats (estKey k s) (window (d.latWindow k s) m) } else d
        let d := d.countExit k u.trans
        let d := d.setDom k { d.dom k with
          state := .freewheel, trans := .none, eligible := false, wakeAt := none, cycling := false }
        if u.cycling then d.endCycle k else d
  | _ => d

/-! ### CYCLE and DRESET (R450, R498, R569) -/

/-- A stream that holds engines ends with domain 151 (R318). -/
def Dev.loseStreams (d : Dev) : Dev := d.streams.foldl (fun d e => d.loseStream 9 0 e.1) d

/-- What the loss of a domain's power or a reset ends (R569, R318). -/
def Dev.workLost (d : Dev) (k : Nat) : Dev :=
  let d := if (d.dom k).fenced then d else d.unitGone k 4
  if k = 151 then d.loseStreams else d

/-- A domain belongs to a fenced wheel. -/
def Dev.wheelFenced (d : Dev) (k : Nat) : Bool := (domWheel k).any fun w => (d.wfault w).fenced

/-- The entry steps of a domain that is taken to OFF are charged. -/
def Dev.chargeToOff (d : Dev) (k : Nat) : Dev :=
  ([2, 3, 4].filter fun s => (d.dom k).state.code < s).foldl (fun d s => d.chargeTrans k (d.ein k s)) d

/-- CYCLE of a domain is written; none where the write is discarded with BAD_WRITE (R450, R479). -/
def Dev.cycleDomain (d : Dev) (k : Nat) : Option Dev :=
  let u := d.dom k
  if d.faults.halted then some d
  else if d.wheelFenced k then none
  else if u.cycling then some d
  else
    let d := ((d.workLost k).chargeToOff k).poweredOff k
    some (d.setDom k { d.dom k with
      state := .off, trans := .exiting false none, cycling := true, eligible := false, wakeAt := none })

/-- DRESET of a domain is written; none where the write is discarded with BAD_WRITE (R498, R569). That of domain 1 keeps the kettle
core, its local RAM and the global locks (the table of R496; log 51). -/
def Dev.resetDomain (d : Dev) (k : Nat) : Option Dev :=
  let u := d.dom k
  if u.fenced ∨ d.wheelFenced k then none
  else if u.cycling ∨ u.state = .off then some d
  else if k = 1 then some d
  else
    let d := (d.workLost k).unitReset k .dreset
    let d := if k = 3 then d.clearHwt else d
    some (if 8 ≤ k ∧ k < 14 then d.portDown (k - 8) else d)

end Sys2Proof.Machine
end

