-- ==== Sys2Proof/Machine/Caddy.lean ====
section
/-!
DEFINITION. The caddy's wipe and tamper events (R315, R409, R502).
-/

namespace Sys2Proof.Machine

/-- A wipe begins, unless one runs: the memory, the grants and the key slots are cleared, and every stream with an AES
stage ends (R315, R409). -/
def Dev.wipe (d : Dev) : Dev :=
  if d.caddy.wiping then d
  else
    let d := d.clearMem caddyBase 0x100000
    let d := (List.range 4).foldl (fun d j => d.setReg pgCDY (0x040 + 4 * j) 0) d
    let d := (List.range 64).foldl (fun d j => d.setRf pgXAE (0x100 + 4 * j) 31 1 0) d
    let d := { d with caddy := { d.caddy with wiping := true, held := [] } }
    (d.streams.filter fun e => e.2.engs.any fun g => g / 16 = 0).foldl
      (fun d e => d.loseStream 8 (e.2.stageOf fun g => g / 16 = 0) e.1) d

/-- The wipe completes: WIPES increments, and the grants written meanwhile take effect (R409). -/
def Dev.wipeDone (d : Dev) : Dev :=
  if d.caddy.wiping then
    let d := (d.bump pgCDY 0x058 1 0x060 0)
    let d := d.caddy.held.foldl (fun d e => d.setReg pgCDY e.1 e.2) d
    { d with caddy := {} }
  else d

/-- Life-cycle states (R500). -/
abbrev lcBLANK : Nat := 0
abbrev lcPROVISION : Nat := 1
abbrev lcFIELD : Nat := 2
abbrev lcRETURN : Nat := 3

/-- LCS.STATE.STATE. -/
def Dev.lifeCycle (d : Dev) : Nat := d.rf pgLCS 0x040 0 4

/-- A tamper event: its bit, its count, a wipe, and in FIELD the debug port closed (R502). -/
def Dev.tamper (d : Dev) (b : Nat) : Dev :=
  let d := ((d.setRf pgLCS 0x04C b 1 1).bump pgLCS 0x054 1 0x058 0).wipe
  if d.lifeCycle = lcFIELD then { d with boot := { d.boot with dbgShut := true } } else d

end Sys2Proof.Machine
end

