-- ==== Sys2Proof/Machine/Voltage.lean ====
section
/-!
DEFINITION. Region voltages and VDD_CORE (R17, R18, R451–R455), the governor (R69–R74, R457), the sensors (R456, R461), and
the faults that the power and handshake monitors raise (R461, R545).
-/

namespace Sys2Proof.Machine

/-! ### Voltages in steps of 12.5 mV (R36) -/

/-- The grid step that a voltage field in mV reports, and the mV that a step reports as. -/
def mvStep (mv : Nat) : Nat := (2 * mv + 1) / 25
def stepMv (v : Nat) : Nat := v * 25 / 2

/-- Whether a voltage field lies on the grid between 550 and 900 mV (R459). -/
def mvOk (mv : Nat) : Bool := decide (44 ≤ mvStep mv ∧ mvStep mv ≤ 72 ∧ stepMv (mvStep mv) = mv)

/-- Every switched domain of a region is in DOZE or deeper, and none is leaving it (R451). -/
def Dev.regionIdle (d : Dev) (r : Nat) : Bool :=
  (regionDoms r).all fun k =>
    let u := d.dom k
    (u.state = .doze || u.state = .nap || u.state = .off) &&
      (match u.trans with
        | .exiting _ _ => u.cycling
        | _ => true)

/-- The target of a service-die region (R451). -/
def Dev.target (d : Dev) (r : Nat) : Nat :=
  let w := d.reg pgDRL (0x080 + 16 * (r - 5))
  if d.regionIdle r then mvStep (fld w 16 16) else max (mvStep (fld w 0 16)) (d.region r).floor

/-- The voltage that the target and the governor give a region (R73). -/
def Dev.wanted (d : Dev) (r : Nat) : Nat := max 44 (min (d.target r) (d.region r).cap)

/-- VDD_CORE as R454 requests it. -/
def Dev.vcoreWanted (d : Dev) : Nat := [5, 6, 7, 8].foldl (fun m r => max m (d.wanted r)) 44

/-- PMIC_CFG.EN. -/
def Dev.pmicOn (d : Dev) : Bool := d.rb pgDRL 0x0C4 31

/-- The VDD_CORE that bounds the regions: the lower of the one in force and one about to be set (R454). -/
def Dev.vcoreBound (d : Dev) : Nat :=
  match d.pmic.busy with
  | some t => min t d.pmic.now
  | none => d.pmic.now

/-- The voltage of a region within the bounds of R452. -/
def Dev.regionVolt (d : Dev) (r : Nat) : Nat :=
  let v := d.vcoreBound
  max 44 (min v (max (d.wanted r) (v - 12)))

/-- The region voltages of a device whose VDD_CORE is settled; a change folds what is pending first (R59). -/
def Dev.setVolts (d : Dev) : Dev :=
  if [5, 6, 7, 8].all fun r => (d.region r).volt = d.regionVolt r then d
  else
    let d := [5, 6, 7, 8].foldl (fun d r =>
      if (d.region r).volt = d.regionVolt r then d
      else d.setRegion r { d.region r with volt := d.regionVolt r, meas := none }) d.foldAll
    let mv := stepMv (d.region 7).volt
    let diff := if mv ≤ 750 then 750 - mv else mv - 750
    if (d.reg pgBRG 0x048).toNat < diff then d.setReg pgBRG 0x048 (w32 diff) else d

/-- Voltages follow targets, caps and VDD_CORE; without a PMIC, VDD_CORE is PMIC_BASE (R451–R455). -/
def Dev.voltages (d : Dev) : Dev :=
  let d := if d.pmicOn then d
    else { d with pmic := { now := mvStep (d.rf pgDRL 0x0C8 0 16), req := mvStep (d.rf pgDRL 0x0C8 0 16) } }
  d.setVolts

/-! ### PMIC requests (R454, R455) -/

/-- A PMIC write begins where VDD_CORE is to change; controller 5 carries it (PMIC_WRITE). -/
def Dev.pmicWrite (d : Dev) : Dev :=
  let t := d.vcoreWanted
  if !d.pmicOn ∨ d.pmic.busy.isSome ∨ d.pmic.settling.isSome ∨ t = d.pmic.now then d
  else match d.knock 16 with
    | (.ok, d) => ({ d with pmic := { d.pmic with req := t, busy := some t, nacks := 0 } }).countSerial (regionTag 3) 2
    | (_, d) => d

/-- A transfer of controller 5 ends: it counts as completed, or as a NACK (R219). -/
def Dev.countI3c5 (d : Dev) (ack : Bool) : Dev :=
  if ack then d.bump pgI3C 0x3A4 1 0x3AC 1 else d.bump pgI3C 0x3A0 1 0x3AC 0

/-- A PMIC write ends (PMIC_WRITE_COMPLETE). -/
def Dev.pmicDone (d : Dev) (ack : Bool) : Dev :=
  match d.pmic.busy with
  | none => d
  | some t =>
    let d := d.countI3c5 ack
    if ack then
      if d.pmic.now < t then { d with pmic := { d.pmic with busy := none, settling := some t } }
      else { d with pmic := { d.pmic with busy := none, now := t } }
    else if d.pmic.nacks < 2 then
      ({ d with pmic := { d.pmic with nacks := d.pmic.nacks + 1 } }).countSerial (regionTag 3) 2
    else
      let d := { d with pmic := { d.pmic with busy := none, req := d.pmic.now, nacks := 0 } }
      (d.bump pgDRL 0x05C 1 0x060 3).raiseFault
        { kind := 15, page := pgDRL, source := 0, info := w32 (stepMv t), unit := none }

/-- PMIC_SETTLE has passed after a raise (PMIC_SETTLE_EXPIRY). -/
def Dev.pmicSettled (d : Dev) : Dev :=
  match d.pmic.settling with
  | some t => { d with pmic := { d.pmic with settling := none, now := t } }
  | none => d

/-! ### The governor (R69–R74) -/

/-- The rate floor of a region, and whether no voltage meets RATE_REQ (R453). -/
def Dev.rateFloor (d : Dev) (r : Nat) : Nat × Bool :=
  let q := d.rf pgDRL (0x084 + 16 * (r - 5)) 0 16
  if q = 0 then (44, false)
  else match (rangeFrom 44 29).find? fun v => q ≤ d.rateAt r v (d.region r).temp with
    | some v => (v, false)
    | none => (72, true)

/-- Every rate floor is recomputed (R453). -/
def Dev.setFloors (d : Dev) : Dev :=
  [5, 6, 7, 8].foldl (fun d r =>
    let f := d.rateFloor r
    d.setRegion r { d.region r with floor := f.1, unmet := f.2 }) d

/-- The mean of the last `n` tick figures, those not yet made counting 0 (log 27). -/
def Dev.average (d : Dev) (n : Nat) : Nat := (d.gov.hist.take n).foldl (· + ·) 0 / n

/-- The windows that are enabled: average and ceiling. -/
def Dev.govWindows (d : Dev) : List (Nat × Nat) :=
  [(d.average (d.rf pgLDG 0x06C 16 6), d.rf pgLDG 0x06C 0 16), (d.average (d.rf pgLDG 0x070 16 12), d.rf pgLDG 0x070 0 16)].filter
    fun w => w.2 ≠ 0

/-- The first region of a list whose measure is the largest. -/
def argMax (f : Nat → Nat) : List Nat → Option Nat
  | [] => none
  | r :: rs =>
    match argMax f rs with
    | none => some r
    | some q => if f r < f q then some q else some r

/-- At approach, the cap of the region with the largest share falls one step; at release, that of the region furthest below
its target rises (R72). -/
def Dev.govStep (d : Dev) (approach release : Bool) : Dev :=
  if approach then
    match argMax (fun r => smGet d.gov.tickCharge r 0) ([5, 6, 7, 8].filter fun r => (d.region r).floor < (d.region r).cap) with
    | some r => d.setRegion r { d.region r with cap := (d.region r).cap - 1 }
    | none => d
  else if release then
    match argMax (fun r => d.target r - (d.region r).cap) ([5, 6, 7, 8].filter fun r => (d.region r).cap < d.target r) with
    | some r => d.setRegion r { d.region r with cap := (d.region r).cap + 1 }
    | none => d
  else d

/-- The band of a temperature (R457). -/
def tempBand (t : BitVec 16) : Nat := ([25, 45, 65, 85, 95, 105, 115].filter fun b => decide ((b : Int) * 256 ≤ t.toInt)).length

/-- The residency counters of a tick (R457). -/
def Dev.residency (d : Dev) : Dev :=
  (List.range 9).foldl (fun d r =>
    let b := tempBand (d.region r).temp
    d.bump pgTHM (0x100 + 0x80 * r + 0x40 + 4 * b) 1 (0x044 + 4 * (r / 4)) (8 * (r % 4) + b)) d

/-- GOVERNOR_TICK (R70–R74). The figure of the tick takes what was charged before EN became 0; with both windows disabled the governor
is at release; a region is at its rate floor where its voltage in force is (log 53). -/
def Dev.governorTick (d : Dev) : Dev :=
  let fig := min ((d.ledger.pkgAcc - d.gov.lastPkg).toNat / 256000) 65535
  let d := { d with gov := { d.gov with hist := (fig :: d.gov.hist).take 4095, lastPkg := d.ledger.pkgAcc } }
  let d := d.setFloors.residency
  let d := d.setReg pgLDG 0x074
    (w32 (fput 16 16 (d.average (d.rf pgLDG 0x06C 16 6)) + fput 0 16 (d.average (d.rf pgLDG 0x070 16 12))))
  let ws := d.govWindows
  let release := ws.all fun w => decide (8 * w.1 < 7 * w.2)
  let d := (d.govStep (ws.any fun w => decide (15 * w.2 ≤ 16 * w.1)) release).voltages
  let hit := [5, 6, 7, 8].all (fun r => decide ((d.region r).volt ≤ (d.region r).floor)) && ws.any fun w => decide (w.2 ≤ w.1)
  let d := { d with gov := { d.gov with tickCharge := [], ceilBit := if hit then true else if release then false else d.gov.ceilBit } }
  if hit then d.bump pgLDG 0x078 1 0x084 2 else d

/-! ### Sensors (R456, R461, R478, R502) -/

/-- One reading: the raw value with its offset; a sum outside the format is not stated (log 11). -/
def Dev.sensorRead (d : Dev) (r s : Nat) (raw : BitVec 16) : BitVec 16 × Dev :=
  let ofs : BitVec 16 := (d.reg pgTHM (0x100 + 0x80 * r + 0x24 + 4 * s)).truncate 16
  let x := raw.toInt + ofs.toInt
  if -32768 ≤ x ∧ x ≤ 32767 then (BitVec.ofInt 16 x, d)
  else
    let f := d.free
    (f.1.truncate 16, f.2)

/-- A sensor reads outside −40 to 150 °C, or differs from each other sensor of its region by more than 20 °C. -/
def sensorBad (xs : List (BitVec 16)) (s : Nat) : Bool :=
  let t := (xs.getD s 0).toInt
  decide (t < -10240 ∨ 38400 < t) ||
    ([0, 1, 2, 3].filter (· ≠ s)).all fun j => decide (5120 < ((xs.getD j 0).toInt - t).natAbs)

/-- The region temperature: the hottest sensor not failed, 105 °C while every one has failed. -/
def hottest (xs : List (BitVec 16)) (failed : BitVec 4) : BitVec 16 :=
  match ([0, 1, 2, 3].filter fun s => !bitAt failed s).map fun s => xs.getD s 0 with
  | [] => 0x6900
  | t :: ts => ts.foldl (fun m x => if m.toInt < x.toInt then x else m) t

/-- What one working sensor's reading leads to: THERMAL_WARN and the thermal trip. -/
def Dev.judgeSensor (d : Dev) (r s : Nat) : Dev :=
  let g := d.region r
  let t := (g.readings.getD s 0)
  let warn : BitVec 16 := (d.reg pgFLT 0x05C).truncate 16
  let d :=
    if bitAt g.warned s then
      if t.toInt < warn.toInt - 512 then d.setRegion r { g with warned := withBit g.warned s false } else d
    else if warn.toInt ≤ t.toInt then
      (d.setRegion r { g with warned := withBit g.warned s true }).raiseFault
        { kind := 23, page := pgTHM, source := r, info := w32 t.toNat, unit := none }
    else d
  if 0x7300 ≤ t.toInt ∧ !d.faults.thermTrip then
    ({ d with faults := { d.faults with thermTrip := true } }).raiseFault
      { kind := 31, page := pgTHM, source := r, info := w32 t.toNat, unit := none }
  else d

/-- The region temperature lies in the tamper range (R502). -/
def tempTamper (t : BitVec 16) : Bool := decide (t.toInt < -10240 ∨ 32000 < t.toInt)

/-- A region's sensors are sampled. -/
def Dev.sampleRegion (d : Dev) (r : Nat) (raw : List (BitVec 16)) : Dev :=
  let x := [0, 1, 2, 3].foldl (fun (x : List (BitVec 16) × Dev) s =>
    let y := x.2.sensorRead r s (raw.getD s 0)
    (x.1 ++ [y.1], y.2)) ([], d)
  let d := x.2
  let g := d.region r
  let fresh := [0, 1, 2, 3].filter fun s => !bitAt g.failed s && sensorBad x.1 s
  let failed := fresh.foldl (fun f s => withBit f s true) g.failed
  let t := hottest x.1 failed
  let d := d.setRegion r { g with readings := x.1, failed := failed, temp := t }
  let d := fresh.foldl (fun d s =>
    d.raiseFault { kind := 24, page := pgTHM, source := 16 * r + s, info := w32 (x.1.getD s 0).toNat, unit := none }) d
  let d := ([0, 1, 2, 3].filter fun s => !bitAt failed s).foldl (fun d s => d.judgeSensor r s) d
  let b := 0x100 + 0x80 * r
  let hi : BitVec 16 := (d.reg pgTHM (b + 0x14)).truncate 16
  let lo : BitVec 16 := (d.reg pgTHM (b + 0x18)).truncate 16
  let d := if hi.toInt < t.toInt then d.setReg pgTHM (b + 0x14) (w32 t.toNat) else d
  let d := if t.toInt < lo.toInt then d.setReg pgTHM (b + 0x18) (w32 t.toNat) else d
  if tempTamper t ∧ !tempTamper g.temp then d.tamper 2 else d

/-- THERMAL_SAMPLE: the raw readings, four to a region. -/
def Dev.thermalSample (d : Dev) (raw : List (BitVec 16)) : Dev :=
  (List.range 9).foldl (fun d r => d.sampleRegion r ((raw.drop (4 * r)).take 4)) d

/-! ### Faults of the monitors -/

/-- LDO_REGULATION_FAULT: a region's voltage deviates from its setting by more than 25 mV. -/
def Dev.ldoFault (d : Dev) (r mv : Nat) : Dev :=
  let s := stepMv (d.region r).volt
  if r < 5 ∨ 8 < r ∨ (s ≤ mv + 25 ∧ mv ≤ s + 25) then d
  else (d.setRegion r { d.region r with meas := some mv }).raiseFault
    { kind := 25, page := pgTHM, source := r, info := w32 mv, unit := none }

/-- A KETTLE_INTEGRITY fault; where no storage is named, its SOURCE is not stated (log 11). -/
def Dev.kettleFault (d : Dev) (info : Word) : Dev :=
  let f := d.free
  f.2.raiseFault { kind := 28, page := pgKTL, source := (f.1.truncate 16 : BitVec 16).toNat, info := info, unit := none }

/-- HANDSHAKE_TIMEOUT: a handshake inside a unit stays incomplete while its domain is ACTIVE. -/
def Dev.handshakeTimeout (d : Dev) (k : Nat) (stage : Word) : Dev :=
  if k = 0 then d.kettleFault stage
  else if (d.dom k).asleep ∨ d.isFenced k then d
  else d.raiseFault { kind := 20, page := unitPage k, source := k, info := stage, unit := some k }

/-- RAIL_FAULT: the device halts; `rail` counts from 1 (R545). -/
def Dev.railFault (d : Dev) (rail : Nat) : Dev := d.kettleFault (w32 rail)

end Sys2Proof.Machine
end

