-- ==== Sys2Proof/Machine/Boot.lean ====
section
/-!
DEFINITION. Start-up from the mask ROM, the reset kinds, life-cycle, kettle timers, the boot flash port and the unlock of
the debug port (R487–R507), with the expiry of wake list entries (R52).
-/

namespace Sys2Proof.Machine

/-! ### Kettle timers and the wake list (R504, R52) -/

def ktCtl (k : Nat) : Nat := 0x108 + 16 * k

/-- Timer `k` reaches its target. -/
def Dev.ktFire (d : Dev) (k : Nat) : Dev :=
  ((d.setRf pgKTL (ktCtl k) 0 1 0).setRf pgKTL (ktCtl k) 1 1 1).srcOccur (privSrc 8 0 (20 + k))

/-- KT_HI of timer `k` has been written: the timer is armed. -/
def Dev.ktArm (d : Dev) (k : Nat) : Dev :=
  let d := d.wlRemove (d.coreTag 64) .ktimer k
  let d := (d.setRf pgKTL (ktCtl k) 0 1 1).setRf pgKTL (ktCtl k) 1 1 0
  let t := cat64 (d.reg pgKTL (0x104 + 16 * k)) (d.reg pgKTL (0x100 + 16 * k))
  match d.wlInsert (d.coreTag 64) { target := t, kind := .ktimer, id := k } with
  | (.reached, d) => d.ktFire k
  | (.inserted, d) => d
  | (.refused, d) => (d.setRf pgKTL (ktCtl k) 0 1 0).setRf pgKTL (ktCtl k) 2 1 1

/-- CANCEL of timer `k`. -/
def Dev.ktCancel (d : Dev) (k : Nat) : Dev :=
  (d.wlRemove (d.coreTag 64) .ktimer k).setRf pgKTL (ktCtl k) 0 1 0

/-- The domain that takes an entry's expiry; none for a timer of domain 0. -/
def WlEntry.dom (e : WlEntry) : Option Nat :=
  match e.kind with
  | .subch => some (ceDom (e.id / 256))
  | .core => some (coreDomain e.id)
  | .ktimer => none

/-- An entry that is reached expires; an owner that sleeps is woken first, its entry still in the list. The expiry counts as a removal
(kind 3 of R561; log 53). -/
def Dev.wlExpire (d : Dev) (e : WlEntry) : Dev :=
  let asleep := e.dom.any fun k => (d.dom k).asleep
  if asleep then d.startExit (e.dom.getD 0) false (some e.target)
  else
    let d := d.wlRemove (wlTag d.coreTag e.kind e.id) e.kind e.id
    match e.kind with
    | .subch => d.subExpiry e.id
    | .core => d.coreFire e.id
    | .ktimer => d.ktFire e.id

/-- WAKE_LIST_EXPIRY: every entry that is reached expires, in list order (R52). -/
def Dev.wakeListExpiry (d : Dev) (c : Counts) : Dev :=
  let d := { d with pacer := d.pacer.setCounts c }
  d.wlDue.1.foldl (fun d e => if d.wl.contains e then d.wlExpire e else d) d

/-! ### The image (R491–R495) -/

abbrev stagingBase : Nat := 0x02C00000
abbrev stagingSize : Nat := 0x400000

/-- Fields of an image. -/
def imgLen (b : List Byte) : Nat := fieldAt b 0x008 4
def imgSvn (b : List Byte) : Nat := fieldAt b 0x00C 4
def imgEntry (b : List Byte) : Nat := fieldAt b 0x010 4
def imgSegs (b : List Byte) : Nat := fieldAt b 0x006 2
def segOff (b : List Byte) (i : Nat) : Nat := fieldAt b (0x060 + 32 * i) 4
def segLen (b : List Byte) (i : Nat) : Nat := fieldAt b (0x064 + 32 * i) 4
def segDest (b : List Byte) (i : Nat) : Nat := fieldAt b (0x068 + 32 * i) 8

/-- A segment's DEST range is allowed (check 0x07 of R494). -/
def segDestOk (b : List Byte) (i : Nat) : Bool :=
  let a := segDest b i
  let e := a + segLen b i
  decide (e ≤ stagingBase) || (decide (0x04208000 ≤ a) && decide (e ≤ 0x04210000))

/-- A segment entry of an image is allowed by itself. -/
def segOk (b : List Byte) (i : Nat) : Bool :=
  decide (1 ≤ segLen b i) && decide (segLen b i ≤ 0x400000) && segOff b i % 32 = 0 && decide (0x260 ≤ segOff b i) &&
    decide (segOff b i + segLen b i ≤ imgLen b - 64) && segDestOk b i

/-- No two DEST ranges overlap. -/
def segsDisjoint (b : List Byte) : Bool :=
  (List.range (imgSegs b)).all fun i => (List.range i).all fun j =>
    decide (segDest b i + segLen b i ≤ segDest b j) || decide (segDest b j + segLen b j ≤ segDest b i)

/-- KEYHASH k as the fuses hold it, in digest order. -/
def Dev.keyHash (d : Dev) (k : Nat) : List Byte :=
  (List.range 8).flatMap fun i => leBytes 4 (d.reg pgFUS (0x080 + 32 * k + 4 * i)).toNat

def Dev.dbgKeyHash (d : Dev) : List Byte := (List.range 8).flatMap fun i => leBytes 4 (d.reg pgFUS (0x100 + 4 * i)).toNat

/-- Header checks 0x01 and 0x02. -/
def imgHeaderErr (b : List Byte) : Nat :=
  let zero := fun (o n : Nat) => ((b.drop o).take n).all (· = 0)
  if fieldAt b 0 4 ≠ 0x31525645 ∨ fieldAt b 4 2 ≠ 1 then 0x01
  else if imgLen b < 0x300 ∨ 0x400000 < imgLen b ∨ imgLen b % 32 ≠ 0 ∨ imgSegs b = 0 ∨ 16 < imgSegs b ∨ !zero 0x015 11 ∨
      !((List.range 16).all fun i => if i < imgSegs b then zero (0x070 + 32 * i) 16 else zero (0x060 + 32 * i) 32) then 0x02
  else 0

/-- The checks of R494 in their order: the number of the first that fails, 0 where all pass. -/
def Dev.imgErr (d : Dev) (b : List Byte) : Nat :=
  let key := (b.getD 0x014 0).toNat
  let pub := (b.drop 0x020).take 64
  let sig := b.drop (imgLen b - 64)
  let checked := decide (d.lifeCycle ≠ lcBLANK)
  if imgHeaderErr b ≠ 0 then imgHeaderErr b
  else if checked ∧ (3 < key ∨ d.rb pgFUS 0x044 (16 + key)) then 0x03
  else if checked ∧ sha256 pub ≠ d.keyHash key then 0x04
  else if checked ∧ imgSvn b < d.rf pgLCS 0x048 0 6 then 0x05
  else if checked ∧ !ecdsaCheck (beNat (pub.take 32)) (beNat (pub.drop 32)) (beNat (sig.take 32)) (beNat ((sig.drop 32).take 32))
      (sha256 (b.take (imgLen b - 64))) then 0x06
  else if !((List.range (imgSegs b)).all (segOk b) && segsDisjoint b) then 0x07
  else 0

/-- The segments of an image are copied in table order. -/
def Dev.copySegs (d : Dev) (b : List Byte) : Dev :=
  (List.range (imgSegs b)).foldl (fun d i => d.poke (segDest b i) ((b.drop (segOff b i)).take (segLen b i))) d

/-- A failed attempt shows in BOOT_STAT.ERR. -/
def Dev.bootErr (d : Dev) (e : Nat) : Dev := d.setRf pgKTL 0x040 16 8 e

/-- An image that passes is copied and waits for ROM_EXIT; `source` is its BOOT_STAT.SOURCE. -/
def Dev.tryImage (d : Dev) (source : Nat) (b : List Byte) : Bool × Dev :=
  let e := d.imgErr b
  if e = 0 then (true, { d.copySegs b with boot := { d.boot with loaded := some (source, imgSvn b, imgEntry b), hostPath := false } })
  else (false, d.bootErr e)

/-- `n` bytes of a flash copy; bytes beyond those given read as erased. -/
def flashBytes (f : List Byte) (n : Nat) : List Byte := f.take n ++ List.replicate (n - f.length) 0xFF

/-- One copy is read into the staging area and checked (R491). -/
def Dev.tryFlash (d : Dev) (source : Nat) (f : Option (List Byte)) : Bool × Dev :=
  match f with
  | none => (false, d.bootErr 0x08)
  | some f =>
    let h := flashBytes f 0x260
    let d := d.poke stagingBase h
    if fieldAt h 0 4 = 0xFFFFFFFF then (false, d.bootErr 0x08)
    else if imgHeaderErr h ≠ 0 then (false, d.bootErr (imgHeaderErr h))
    else
      let b := flashBytes f (imgLen h)
      (d.poke stagingBase b).tryImage source b

/-- HOST_BOOT: the image in the staging area is checked in place (R492). -/
def Dev.hostBoot (d : Dev) : Dev :=
  let h := d.peek stagingBase 0x260
  if imgHeaderErr h ≠ 0 then d.bootErr (imgHeaderErr h) else (d.tryImage 3 (d.peek stagingBase (imgLen h))).2

/-- The host path is open: CFG_READY is set, and the ROM waits for HOST_BOOT (R492). -/
def Dev.openHostPath (d : Dev) : Dev :=
  { d.setRf pgKTL 0x044 31 1 1 with boot := { d.boot with hostPath := true } }

/-- The boot source that BOOT_MODE selects; BLANK takes images from the host alone (R491, R492, R494). -/
def Dev.bootFrom (d : Dev) (a b : Option (List Byte)) : Dev :=
  let mode := d.rf pgFUS 0x044 0 2
  if d.lifeCycle = lcBLANK ∨ mode = 1 ∨ mode = 3 then d.openHostPath
  else
    let x := d.tryFlash 1 a
    if x.1 then x.2
    else
      let y := x.2.tryFlash 2 b
      if y.1 ∨ mode = 0 then y.2 else y.2.openHostPath

/-! ### Cold reset (R487–R489, R406, R506) -/

/-- A repair entry. -/
def Dev.repair (d : Dev) (r : Nat) : Word := d.reg pgFUS (0x200 + 4 * r)

/-- A repair entry that R506 calls a fuse fault. -/
def Dev.repairBad (d : Dev) (r : Nat) : Bool :=
  let w := d.repair r
  let same := fun (q : Nat) => bitAt (d.repair q) 31 && fld (d.repair q) 10 10 = fld w 10 10 && bitAt (d.repair q) 30 == bitAt w 30
  bitAt w 31 && (decide (840 < fld w 10 10) || decide (287 < fld w 0 10) || (List.range r).any same)

/-- MEM.REPAIRED: the VALID entries. -/
def Dev.repaired (d : Dev) : Nat := ((List.range 192).filter fun r => bitAt (d.repair r) 31).length

/-- The device as power returns: every register and memory at reset; pins, the host's memory, what is blown in the fuses
and the model's counters stay. XTAL32_BYP is sampled (R552). -/
def Dev.powerOn (d : Dev) (bypass : Bool) : Dev :=
  { pacer := { extClock := bypass }
    doms := [(26, { state := .off }), (27, { state := .off })]
    hostMem := d.hostMem
    gpi := { raw := d.gpi.raw }
    boot := { fuses := d.boot.fuses, written := d.boot.written }
    links := { perst := d.links.perst }
    freeCtr := d.freeCtr
    seq := d.seq }

/-- The FUS shadow takes the fuses blown in the part, and the registers that report them follow (step 3 of R487). -/
def Dev.loadFuses (d : Dev) : Dev :=
  let d := d.boot.fuses.foldl (fun d e => d.setReg (e.1 / 1024) (e.1 % 1024 * 4) e.2) d
  let d := d.setRf pgFUS 0x040 31 1 1
  let d := d.setReg pgLCS 0x040 (w32 (d.rf pgFUS 0x044 4 4 * 0x11))
  d.setReg pgLCS 0x048 (w32 (d.rf pgFUS 0x044 8 6))

/-- A fuse fault halts the device; FUS.STAT names the row (R489). -/
def Dev.fuseFault (d : Dev) (row : Nat) : Dev :=
  (d.setRf pgFUS 0x040 0 8 row).raiseFault { kind := 29, page := pgFUS, source := row, info := 0, unit := none }

/-- PMIC_CFG and PMIC_BASE take their fuses, and the PMIC is assigned its address with SETDASA (step 5 of R487, R219). -/
def Dev.loadPmic (d : Dev) (ack : Bool) : Dev :=
  let f := d.reg pgFUS 0x048
  let d := d.setReg pgDRL 0x0C4 (w32 (fput 31 1 (b2n (decide (fld f 8 8 ≠ 0))) + fput 8 23 (fld f 8 23)))
  let d := d.setReg pgDRL 0x0C8 (w32 (d.rf pgFUS 0x04C 0 16))
  if fld f 0 7 = 0 then d else (d.countSerial (regionTag 3) 2).countI3c5 ack

/-- COLD_RESET: steps 1 to 7 of R487, with the copies of step 8. -/
def Dev.coldReset (d : Dev) (b : ColdBoard) : Dev :=
  let d := d.powerOn b.bypass
  match b.badRow with
  | some r => (if b.testEn then d.tamper 4 else d).fuseFault r.toNat
  | none =>
    let d := d.loadFuses
    let d := if b.testEn then d.tamper 4 else d
    if (List.range 192).any d.repairBad then
      let f := d.free
      f.2.fuseFault (f.1.truncate 8 : BitVec 8).toNat
    else
      let d := if d.lifeCycle = lcRETURN then d.wipe else d
      (d.loadPmic b.pmicAck).bootFrom b.flashA b.flashB

/-- ROM_EXIT (R495): the kettle core runs at ENTRY; in FIELD and RETURN the ROM has locked FUS and LCS (R540). -/
def Dev.romExit (d : Dev) : Dev :=
  match d.boot.loaded with
  | none => d
  | some (source, svn, entry) =>
    let locks := d.lifeCycle = lcFIELD || d.lifeCycle = lcRETURN
    let d := if locks then (d.setReg pgFUS 0x03C 1).setReg pgLCS 0x03C 1 else d
    let d := d.setReg pgKTL 0x040
      (w32 (fput 30 1 1 + fput 28 2 source + fput 16 8 (d.rf pgKTL 0x040 16 8) + fput 8 8 svn))
    let d := { d with boot := { d.boot with loaded := none, hostPath := false } }
    let c := d.core 64
    d.setCore 64 { state := .running, pc := BitVec.ofNat 16 entry, completeCnt := c.completeCnt, kThresh := c.kThresh }

/-! ### PERST_N and function-level reset (R496, R497, R499) -/

/-- Every fence and wheel fault that a reset lifts (R497). -/
def Dev.liftAll (d : Dev) : Dev :=
  let d := (List.range 152).foldl (fun d k =>
    d.setDom k { d.dom k with fenceReq := false, fenceF := false, fenceW := false }) d
  { d with faults := { d.faults with wheels := [], regions := [] } }

/-- A held request that PERST_N leaves: the kettle core's and the debug port's. -/
def HeldReq.outlasts : HeldReq → Bool
  | .regRead a _ _ => a = agKettle || a = agDebug
  | .regWrite a _ _ _ => a = agKettle || a = agDebug
  | .daa a _ _ _ => a = agKettle || a = agDebug
  | .table _ _ _ => true
  | .claim k => k = 64
  | .complete k _ _ => k = 64
  | .host _ _ => false
  | .poll _ _ => false
  | .bus _ _ => false
  | .peer _ _ _ _ => false
  | .port _ _ _ => false
  | .store k _ _ _ _ => k = 64
  | .trace _ _ => false
  | .mirror _ _ => false
  | .lend _ => false
  | .occur _ => false

/-- Upstream PERST_N is asserted (R497). -/
def Dev.upstreamPerst (d : Dev) : Dev :=
  let d := d.breakLocks fun a => (agentDom a).any (2 ≤ ·)
  let d := ([0, 1, 2, 3, 4, 5] : List Nat).foldl Dev.portDown d
  let d := (d.liftAll.linkDrop 6)
  let d := (rangeFrom 2 150).foldl (fun d k => d.unitReset k .perst) d
  let d := d.resetShared.clearHwt
  let d := (d.setRf pgKTL 0x044 31 1 0).setRf pgKTL 0x04C 1 1 1
  { d with cfg := [], hif := {}, streams := [], streamWait := [], enPend := [], banked := [],
           held := d.held.filter HeldReq.outlasts,
           links := { d.links with perst := true } }

/-- Upstream PERST_N is released. -/
def Dev.perstRelease (d : Dev) : Dev := { d with links := { d.links with perst := false } }

/-- A hot reset or a loss of link acts as an assertion and release of PERST_N (R514). -/
def Dev.linkLoss (d : Dev) : Dev := d.upstreamPerst.perstRelease

/-- FUNCTION_LEVEL_RESET (R496, R499, R252). -/
def Dev.flr (d : Dev) : Dev :=
  let d := (d.breakLocks (· = agHost)).hostAsleep
  (((d.resetHif .dreset).resetEndpoint).clearHwt).setRf pgKTL 0x04C 2 1 1

/-! ### Life-cycle and fuses (R500, R503, R507) -/

/-- A fuse word of page FUS as it is blown now. -/
def Dev.blownWord (d : Dev) (o : Nat) : Word := smGet d.boot.fuses (rk pgFUS o) (d.reg pgFUS o)

def Dev.blow (d : Dev) (o : Nat) (v : Word) : Dev :=
  { d with boot := { d.boot with fuses := smPut d.boot.fuses (rk pgFUS o) v } }

/-- LCS.ADVANCE; none where the write is discarded with BAD_WRITE. -/
def Dev.advance (d : Dev) (v : Word) : Option Dev :=
  let st := d.lifeCycle
  let target := fld v 0 4
  if fld v 16 16 ≠ 0x4C43 ∨ target ≠ st + 1 ∨ 3 < target ∨ d.rf pgLCS 0x040 4 4 ≠ st then none
  else some ((((d.blow 0x044 (withFld (d.blownWord 0x044) 4 4 target)).setRf pgLCS 0x040 4 4 target).wipe))

/-- LCS.SVN.ADV; none at 63 (R503). -/
def Dev.svnAdvance (d : Dev) : Option Dev :=
  let n := d.rf pgLCS 0x048 0 6
  if n = 63 then none
  else some ((d.blow 0x044 (withFld (d.blownWord 0x044) 8 6 (n + 1))).setRf pgLCS 0x048 0 6 (n + 1))

/-- A write of a KEYHASH or DBGKEYHASH word by the kettle core; none where it is discarded. -/
def Dev.keyWrite (d : Dev) (o : Nat) (v : Word) : Option Dev :=
  if d.lifeCycle ≠ lcPROVISION ∨ d.boot.written.contains o then none
  else
    let d := d.blow o (d.blownWord o ||| v)
    some { d with boot := { d.boot with written := o :: d.boot.written } }

/-- What an agent reads of such a word (R507). -/
def Dev.keyRead (d : Dev) (a o : Nat) : Word :=
  if a = agKettle ∧ (d.lifeCycle = lcBLANK ∨ d.lifeCycle = lcPROVISION) then d.reg pgFUS o else 0

/-! ### The boot flash port (R505) -/

/-- A write of QSPI_XFER; none where it is a reserved encoding. -/
def Dev.qspiWrite (d : Dev) (v : Word) : Option Dev :=
  let len := fld v 0 13
  let buf := d.rf pgKTL 0x06C 0 15
  let cmd := d.reg pgKTL 0x064
  if !bitAt v 31 then some (if d.boot.qspi.isSome then d else d.setReg pgKTL 0x070 (w32 len))
  else if d.boot.qspi.isSome ∨ 4096 < len ∨ 4 < fld cmd 21 3 ∨ fld cmd 14 2 = 3 ∨ 0x8000 < buf + len then none
  else some { d.setReg pgKTL 0x070 (w32 (0x80000000 + len)) with
    boot := { d.boot with qspi := some (buf, len, bitAt cmd 13) } }

/-- The transfer ends; the flash has sent `data`. -/
def Dev.qspiDone (d : Dev) (data : List Byte) : Dev :=
  match d.boot.qspi with
  | none => d
  | some (buf, len, write) =>
    let d := { d.setRf pgKTL 0x070 31 1 0 with boot := { d.boot with qspi := none } }
    if write then d else (d.localWrite 64 buf (data.take len)).2

/-! ### The unlock exchange (R501) -/

/-- STATE and LAST_FAIL of DBG.UNLOCK_STAT. -/
def Dev.unlockState (d : Dev) : Nat := d.rf pgDBG 0x044 0 2

/-- UNLOCK_CMD 1: a challenge of 32 free bytes; none after the third failure. -/
def Dev.challenge (d : Dev) : Option Dev :=
  if d.rf pgLCS 0x050 0 2 = 3 ∨ d.unlockState = 2 then none
  else
    let d := (List.range 8).foldl (fun d i =>
      let f := d.free
      f.2.setReg pgDBG (0x080 + 4 * i) (f.1.truncate 32)) d
    some (d.setRf pgDBG 0x044 0 2 1)

/-- UNLOCK_CMD 2: the response goes to be checked; none without a challenge. -/
def Dev.sendResponse (d : Dev) : Option Dev := if d.unlockState = 1 then some (d.setRf pgDBG 0x044 0 2 2) else none

/-- The public keys under which a signature of a hash checks. -/
def recoverKeys (r s : Nat) (hash : List Byte) : List (Nat × Nat) :=
  let p := p256P
  let n := p256N
  if r = 0 ∨ n ≤ r ∨ s = 0 ∨ n ≤ s then []
  else
    let w := invMod n r
    let points := ((r :: (if r + n < p then [r + n] else [])).flatMap fun x =>
      let q := (x * x * x + (p - 3) * x + p256B) % p
      let y := powMod p q 1 ((p + 1) / 4) 256
      if y * y % p = q then [(x, y), (x, (p - y) % p)] else [])
    points.filterMap fun t =>
      let e := beNat hash % n
      match ecAdd (ecMul (some t) none (s * w % n) 256) (ecMul (some (p256Gx, p256Gy)) none ((n - e) * w % n) 256) with
      | some q => if ecdsaCheck q.1 q.2 r s hash then some q else none
      | none => none

/-- The response is a signature of the challenge made with the key that DBGKEYHASH names. -/
def Dev.responseOk (d : Dev) : Bool :=
  let bytes := fun (o n : Nat) => (List.range n).flatMap fun i => leBytes 4 (d.reg pgDBG (o + 4 * i)).toNat
  let resp := bytes 0x0C0 16
  (recoverKeys (beNat (resp.take 32)) (beNat (resp.drop 32)) (sha256 (bytes 0x080 8))).any fun q =>
    sha256 (beBytes 32 q.1 ++ beBytes 32 q.2) = d.dbgKeyHash

/-- UNLOCK_CHECK_RESULT. -/
def Dev.unlockResult (d : Dev) : Dev :=
  if d.unlockState ≠ 2 then d
  else if d.responseOk then
    { d.setReg pgDBG 0x044 0 with boot := { d.boot with unlocked := true } }
  else
    let n := d.rf pgLCS 0x050 0 2 + 1
    let d := (d.setReg pgDBG 0x044 4).setRf pgLCS 0x050 0 2 (min n 3)
    if n = 3 then d.tamper 3 else d

/-- LCS.DBG.ACCESS: 0 closed, 1 limited, 2 full. -/
def Dev.dbgAccess (d : Dev) : Nat :=
  if d.boot.dbgShut then 0 else if d.lifeCycle = lcFIELD then (if d.boot.unlocked then 1 else 0) else 2

end Sys2Proof.Machine
end

