-- ==== Sys2Proof/Machine/Recovery.lean ====
section
/-!
DEFINITION. The recovery of a fenced wheel (R480, R481).
-/

namespace Sys2Proof.Machine

/-- A recovery starts: the wheel's 12 domains enter OFF together (step 1 of R480). -/
def Dev.recoverStart (d : Dev) (w : Nat) : Dev :=
  let v := d.wfault w
  if !v.fenced ∨ v.recovering ∨ d.faults.halted then d
  else
    (wheelDoms w).foldl (fun d k =>
      let d := (d.chargeToOff k).poweredOff k
      d.setDom k { d.dom k with state := .off, trans := .none, cycling := true, eligible := false, wakeAt := none })
      (d.setWfault w { v with recovering := true })

/-- The steep time of a fenced wheel has passed: it recovers, or is held at its limit (R480). -/
def Dev.steepExpiry (d : Dev) (w : Nat) : Dev :=
  let v := d.wfault w
  if !v.fenced ∨ v.recovering ∨ v.held ∨ d.faults.halted ∨ (toDl32 d.now - v.steepStart).toNat < (d.reg (pgWARB + w) 0x404).toNat then d
  else if (d.reg pgFLT (0x0A0 + 4 * w)).toNat < d.rf (pgWARB + w) 0x400 0 8 then d.recoverStart w
  else (d.setWfault w { v with held := true }).notice 7

/-- The pages of a wheel. -/
def wheelPages (w : Nat) : List Nat :=
  [pgCE + 2 * w, pgCE + 2 * w + 1, pgWICU + w, pgWMBX + w, pgWDM + w, pgWCOR + w, pgWARB + w]

/-- What a recovery resets of a wheel: its memories and units, PG_LOCK of its pages, and the WCOR registers of the page as a
whole (R481, R541). -/
def Dev.recoverReset (d : Dev) (w : Nat) : Dev :=
  let d := (wheelDoms w).foldl (fun d k => (d.clearUnit k).unitReset k .recovery) d
  let d := (wheelPages w).foldl (fun d p => d.resetRegs p fun o => o = 0x03C) d
  d.resetRegs (pgWCOR + w) fun o => headerOff o || o = 0x02C || o = 0x040 || o = 0x044

/-- The wheel returns: its fences are lifted and its domains are in FREEWHEEL (step 3 of R480). -/
def Dev.recoverLift (d : Dev) (w : Nat) : Dev :=
  let d := (wheelDoms w).foldl (fun d k =>
    let d := (d.exitEnergies k 4 []).countExit k (.exiting false none)
    d.setDom k { d.dom k with
      state := .freewheel, trans := .none, cycling := false, fenceReq := false, fenceF := false, fenceW := false }) d
  let d := (wheelDoms w).foldl Dev.regionReturn (d.regionReturn (256 + w))
  d.setWfault w { d.wfault w with fenced := false, held := false, recovering := false }

/-- A recovery completes (steps 2 to 4 of R480). -/
def Dev.recoverDone (d : Dev) (w : Nat) : Dev :=
  if !(d.wfault w).recovering ∨ d.faults.halted then d
  else
    let d := (d.recoverReset w).recoverLift w
    let d := d.bump pgFLT (0x0A0 + 4 * w) 1 0x060 (1 + w)
    let e : LogEntry := { info := d.reg pgFLT (0x0A0 + 4 * w), source := BitVec.ofNat 16 w
                          page := BitVec.ofNat 8 (pgWARB + w), cls := clsByte false 3 0 }
    let d := (d.logEntry e).2.notice 6
    (rangeFrom (8 * w) 8).foldl (fun d k => if d.rb (corPage k) (corOff k 0) 31 then d else d.coreRelease k) d

end Sys2Proof.Machine
end

