-- ==== Sys2Proof/Machine/RegRead.lean ====
section
/-!
DEFINITION. What each register of each page reads as: the words that report the present state, and otherwise the word held
(the register tables of each chapter, R533–R541).
-/

namespace Sys2Proof.Machine

/-! ### States as encoded -/

/-- STATE of a domain as it shows: ACTIVE or FREEWHEEL by its work (R435). -/
def Dev.stateCode (d : Dev) (k : Nat) : Nat :=
  let c := (d.dom k).state.code
  if c ≤ 1 then b2n (d.isIdle k) else c

def CoreState.code : CoreState → Nat
  | .reset => 0
  | .booting => 1
  | .running => 2
  | .waiting => 3
  | .debugHalt => 4
  | .bootErr => 5
  | .faultStop => 6

/-- CORE_STAT of a core. -/
def Dev.coreStat (d : Dev) (k : Nat) : Word :=
  let c := d.core k
  let st := if (d.dom (coreDomain k)).state = .off then 0 else c.state.code
  w32 (fput 29 3 st + c.pc.toNat)

def SubState.code : SubState → Nat
  | .idle => 0
  | .pending => 1
  | .active => 2
  | .waiting => 3
  | .suspended => 4
  | .draining => 5
  | .stopped => 6

def Cause.code : Cause → Nat
  | .none => 0
  | .time => 1
  | .event => 2
  | .device => 3
  | .spoke => 4
  | .ring => 5
  | .slot => 6

/-- The 64 bytes of a subchannel control block (R128). -/
def Scb.bytes (s : Scb) : List Byte :=
  leBytes 1 s.state.code ++
  leBytes 1 (fput 6 1 (b2n s.inChain) + fput 5 1 (b2n s.suspReq) + fput 4 1 (b2n s.haltReq) + s.cause.code) ++
  leBytes 1 (fput 4 4 s.headFb.toNat + s.cls.toNat) ++ leBytes 1 s.ring.toNat ++ leBytes 4 s.binding.toNat ++
  leBytes 8 s.ccwAddr.toNat ++ leBytes 4 s.residual.toNat ++ leBytes 4 s.lastDevstat.toNat ++ leBytes 8 s.programT0.toNat ++
  leBytes 8 s.startMark.toNat ++ leBytes 8 s.ccwMark.toNat ++ leBytes 2 s.budget.toNat ++ leBytes 1 s.headOp.toNat ++
  leBytes 1 s.headMod.toNat ++ leBytes 2 s.headXdt.toNat ++ leBytes 2 s.headEbound.toNat ++ leBytes 8 s.headParam.toNat

/-- A word of a byte string. -/
def wordOf (bs : List Byte) (i : Nat) : Word := w32 (leNat ((bs.drop (4 * i)).take 4))

/-! ### The header (R535, R536) -/

/-- A page's block drains: EN is 0 and work is left (R167, R272, R316). -/
def Dev.draining (d : Dev) (p : Nat) : Bool :=
  if pgCE ≤ p ∧ p < pgCE + 16 then d.ceDraining (p - pgCE)
  else if d.pageEn p then false
  else if pgWDM ≤ p ∧ p < pgWDM + 8 then d.mvBusy (p - pgWDM)
  else
    let kind := if p = pgXAE then 0 else if p = pgXSH then 1 else 2
    (p = pgXAE || p = pgXSH || p = pgXDF) && d.streams.any fun e => e.2.engs.any fun g => g / 16 = kind

/-- A unit of a page is fenced. -/
def Dev.pageFenced (d : Dev) (p : Nat) : Bool := (pageDoms p).any d.isFenced

/-- PG_CAP. -/
def pageCap (p : Nat) : Word :=
  w32 (fput 16 8 (pageCheckers p) + fput 8 8 (pageBlockEvents p) + fput 2 1 (b2n (pageCommits p)) + fput 1 1 (b2n (pageDrains p)) +
    b2n (pageFenceable p))

/-- PG_STAT. -/
def Dev.pageStat (d : Dev) (p : Nat) : Word :=
  let bad := d.reg p 0x00C &&& 0xFFFFC000
  let ds := d.stateCode ((pageDoms p).headD 0)
  bad ||| w32 (fput 8 3 ds + fput 4 1 (b2n (d.rb p 0x03C 0)) + fput 3 1 (b2n (d.rb p 0x010 0)) +
    fput 2 1 (b2n (d.pageFenced p)) + fput 1 1 (b2n (d.draining p)) + b2n (d.pageEn p && !d.draining p))

/-- PG_DOMAIN. -/
def pageDomain (p : Nat) : Word :=
  match (pageDoms p).head? with
  | none => 0
  | some k => w32 (fput 24 8 (pageDoms p).length + fput 8 4 (domRegion k) + k)

/-- A header word. -/
def Dev.headerWord (d : Dev) (p o : Nat) : Word :=
  if o = 0x000 then pageId p
  else if o = 0x004 then pageCap p
  else if o = 0x00C then d.pageStat p
  else if o = 0x014 ∨ o = 0x018 then d.reg p 0x010
  else if o = 0x030 then pageDomain p
  else if o = 0x034 then 0
  else d.reg p o

/-! ### Block registers, by page -/

/-- DEV.EVT_SUM. -/
def Dev.evtSum (d : Dev) (j : Nat) : Word :=
  srcWord fun b => decide (32 * j + b < numPages) && d.reg (32 * j + b) 0x010 &&& d.reg (32 * j + b) 0x01C ≠ 0

def Dev.devWord (d : Dev) (o : Nat) : Word := if 0x060 ≤ o then d.evtSum ((o - 0x060) / 4) else d.reg pgDEV o

def WlKind.code : WlKind → Nat
  | .subch => 1
  | .core => 2
  | .ktimer => 3

/-- PCR.WL_OWNER: a core shows by its agent ID. -/
def Dev.wlOwner (d : Dev) : Word :=
  match d.wl.head? with
  | none => 0
  | some e => w32 (fput 28 4 e.kind.code + fput 0 12 (if e.kind = .core then coreAgent e.id else e.id))

def Trust.code : Trust → Nat
  | .trusted => 0
  | .holdover => 1
  | .untrusted => 2

def Interp.code : Interp → Nat
  | .none => 0
  | .ring => 1
  | .refclk => 2

def Dev.pcrWord (d : Dev) (o : Nat) : Word :=
  let p := d.pacer
  if o = 0x044 then
    w32 (fput 8 1 (b2n p.wasUntrusted) + fput 6 2 p.trust.code + fput 4 2 p.interp.code + fput 3 1 (b2n p.ptmValid) +
      fput 2 1 (b2n p.refOk) + fput 1 1 (b2n p.xtalOk))
  else if o = 0x054 then p.prev.zeroExtend 32
  else if o = 0x058 then lo32 p.hostOfs
  else if o = 0x068 then d.wl.head?.elim 0xFFFFFFFF fun e => lo32 e.target
  else if o = 0x070 then withFld (d.reg pgPCR o) 0 10 d.wl.length
  else if o = 0x074 then d.wlOwner
  else d.reg pgPCR o

def Dev.ldgWord (d : Dev) (o : Nat) : Word :=
  if o = 0x048 then lo32 (d.acc (d.rf pgLDG 0x044 0 13))
  else if o = 0x054 then lo32 d.ledger.pkgAcc
  else if o = 0x05C then d.ledger.g.zeroExtend 32
  else d.reg pgLDG o

def Dev.drlWord (d : Dev) (o : Nat) : Word :=
  if o = 0x04C then
    w32 (fput 4 1 (b2n (d.pmic.busy.isSome || d.pmic.settling.isSome)) +
      ((List.range 4).foldl (fun n i => n + (if (d.region (5 + i)).unmet then 2 ^ i else 0)) 0))
  else if o = 0x0C0 then w32 (fput 16 16 (stepMv d.pmic.req) + stepMv d.pmic.now)
  else if 0x080 ≤ o ∧ o < 0x0C0 then
    let g := d.region (5 + (o - 0x080) / 16)
    if o % 16 = 8 then w32 (stepMv g.floor)
    else if o % 16 = 12 then w32 (fput 16 16 (stepMv g.cap) + stepMv g.volt)
    else d.reg pgDRL o
  else d.reg pgDRL o

/-- PWD.STAT of a domain. -/
def Dev.domStat (d : Dev) (k : Nat) : Word :=
  let u := d.dom k
  w32 (fput 29 3 (d.stateCode k) + fput 28 1 (b2n (d.isIdle k)) + fput 27 1 (b2n u.eligible) +
    fput 24 3 (if k = 0 then 1 else d.floorEff k) + fput 23 1 (b2n u.wakeAt.isSome) + fput 22 1 (b2n (u.cycling && !(domWheel k).any fun w => (d.wfault w).recovering)))

/-- Domain and state that PWD.SEL names. -/
def Dev.selDom (d : Dev) : Nat := d.rf pgPWD 0x040 0 8
def Dev.selState (d : Dev) : Nat := d.rf pgPWD 0x040 8 3

def Dev.pwdWord (d : Dev) (o : Nat) : Word :=
  let k := d.selDom
  let s := d.selState
  if o = 0x044 then w32 (min (d.lat k s) 0xFFFF)
  else if o = 0x048 then w32 (min (d.ein k s) 0xFFFFFF)
  else if o = 0x04C then w32 (min (d.eout k s) 0xFFFFFF)
  else if o = 0x050 then w32 (min (d.power k s) 0xFFFFFF)
  else if o = 0x054 then (d.dom k).wakes
  else if o = 0x058 then (d.dom k).late
  else if o = 0x05C then (d.dom k).unplanned
  else if o = 0x060 then (d.dom k).aborted
  else if o = 0x064 then (d.dom k).cntSat.zeroExtend 32
  else if 0x100 ≤ o then
    let q := (o - 0x100) / 16
    if o % 16 = 8 then d.domStat q
    else if o % 16 = 12 then (d.dom q).wakeAt.elim 0 toDs32
    else d.reg pgPWD o
  else d.reg pgPWD o

def Dev.fltWord (d : Dev) (o : Nat) : Word :=
  if o = 0x044 then
    w32 (fput 2 1 (b2n d.faults.halted) + fput 1 1 (b2n d.logFull) + b2n ((List.range 152).any d.isFenced))
  else if o = 0x048 then d.faults.logProd
  else if 0x080 ≤ o ∧ o < 0x094 then srcWord fun b => d.isFenced (32 * ((o - 0x080) / 4) + b) && decide (32 * ((o - 0x080) / 4) + b < 152)
  else if 0x800 ≤ o then (smGet d.faults.log ((o - 0x800) / 32) {}).word ((o - 0x800) % 32 / 4)
  else d.reg pgFLT o

/-- The strainer count that STR.SEL names. -/
def Dev.selCount (d : Dev) : StrCount := smGet d.faults.strain (strKey (d.rf pgSTR 0x040 0 8) (d.rf pgSTR 0x040 8 8)) {}

def Dev.strWord (d : Dev) (o : Nat) : Word :=
  if o = 0x044 then w32 (fput 31 1 (b2n d.selCount.isOpen) + fput 0 8 d.selCount.count)
  else if o = 0x048 then d.selCount.start
  else d.reg pgSTR o

def Dev.lcsWord (d : Dev) (o : Nat) : Word :=
  if o = 0x044 then 0
  else if o = 0x050 then w32 (fput 8 2 d.dbgAccess + d.rf pgLCS 0x050 0 2)
  else d.reg pgLCS o

def Dev.fusWord (d : Dev) (a o : Nat) : Word := if 0x080 ≤ o ∧ o < 0x120 then d.keyRead a o else d.reg pgFUS o

def Dev.thmWord (d : Dev) (o : Nat) : Word :=
  if o < 0x100 then d.reg pgTHM o
  else
    let g := d.region ((o - 0x100) / 0x80)
    let q := (o - 0x100) % 0x80
    if q < 0x10 then (g.readings.getD (q / 4) 0).zeroExtend 32
    else if q = 0x10 then g.temp.zeroExtend 32
    else if q = 0x1C then w32 (fput 16 16 (stepMv g.volt) + g.meas.getD (stepMv g.volt))
    else if q = 0x20 then g.failed.zeroExtend 32
    else d.reg pgTHM o

def Dev.hifWord (d : Dev) (o : Nat) : Word :=
  if o = 0x044 then w32 (fput 1 1 (b2n d.hif.flushing) + b2n d.hif.postSync)
  else if o = 0x05C then d.urgentByte.zeroExtend 32
  else if o = 0x060 then w32 d.deferTotal
  else if 0xC00 ≤ o ∧ o < 0xE00 then d.prod ((o - 0xC00) / 4)
  else d.reg pgHIF o

def Dev.ceWord (d : Dev) (a n o : Nat) : Word :=
  let p := pgCE + n
  if !agentBanked a then 0
  else if o = 0x040 then 0
  else if 0x044 ≤ o ∧ o < 0x054 then d.bank p o a
  else if o = 0x054 then
    match d.activeSub n with
    | some i => w32 (fput 8 1 1 + i % 256)
    | none => 0
  else if o = 0x058 then
    w32 (fput 16 8 (d.eng n).reaping.length + fput 8 8 (d.eng n).highWater + fput 0 8 (d.slotsUsed n).length)
  else if o = 0x060 then w32 (smGet (d.eng n).arr (d.rf p 0x05C 0 10) 0)
  else if 0x080 ≤ o then wordOf (d.scb (256 * n + (d.bank p 0x050 a).toNat % 256)).bytes ((o - 0x080) / 4)
  else d.reg p o

/-- The pending bits of a word of sources, and their mask bits: a private bank, or word `j` of the shared ones. -/
def Dev.privPend (d : Dev) (w c : Nat) : Word := srcWord fun i => 1 ≤ i && d.srcPending (privSrc w c i)
def Dev.privMask (d : Dev) (w c : Nat) : Word := srcWord fun i => (d.src (privSrc w c i)).mask
def Dev.sharedPend (d : Dev) (w j : Nat) : Word := srcWord fun i => 1 ≤ j && d.srcPending (sharedSrc w (32 * j + i))
def Dev.sharedMask (d : Dev) (w j : Nat) : Word := srcWord fun i => 1 ≤ j && (d.src (sharedSrc w (32 * j + i))).mask

def Dev.wicuWord (d : Dev) (w o : Nat) : Word :=
  let p := pgWICU + w
  if o < 0x100 then d.reg p o
  else if o < 0x300 then
    let c := (o - 0x100) / 0x40
    let q := (o - 0x100) % 0x40
    if q = 4 then d.runWord (8 * w + c)
    else if q = 8 then d.reqWord (8 * w + c)
    else if 0x0C ≤ q ∧ q < 0x18 then d.privPend w c
    else if 0x18 ≤ q ∧ q < 0x24 then d.privMask w c
    else d.reg p o
  else if o < 0x700 then d.srcCfg (privSrc w ((o - 0x300) / 0x80) ((o - 0x300) % 0x80 / 4))
  else if o < 0xB00 then d.srcCfg (sharedSrc w ((o - 0x700) / 4))
  else if o < 0xF00 then d.reg p o
  else if o < 0xF60 then d.sharedPend w ((o - 0xF00) % 0x20 / 4)
  else d.sharedMask w ((o - 0xF60) % 0x20 / 4)

/-- LOCK_INFO and LOCK_TIME of a lock (R384). -/
def Lock.info (l : Lock) : Word :=
  w32 (fput 31 1 (b2n l.owner.isSome) + fput 30 1 (b2n l.broken) + fput 0 8 (l.owner.getD l.lastOwner))

def Dev.wmbxWord (d : Dev) (a w o : Nat) : Word :=
  let p := pgWMBX + w
  if o = 0x040 then 0
  else if o = 0x044 ∨ (0x060 ≤ o ∧ o < 0x070) then d.bank p o a
  else if o < 0x100 then d.reg p o
  else if o < 0x300 then wordOf (d.mboxBytes (16 * w + (o - 0x100) / 32)) ((o - 0x100) % 32 / 4)
  else if 0x340 ≤ o ∧ o < 0x380 then (d.lock (16 * w + (o - 0x340) / 4)).info
  else if 0x380 ≤ o ∧ o < 0x3C0 then (d.lock (16 * w + (o - 0x380) / 4)).time
  else 0

def Dev.ktlWord (d : Dev) (o : Nat) : Word :=
  if o = 0x044 then d.reg pgKTL o &&& 0x80000000
  else if o = 0x048 then 0
  else if 0x340 ≤ o ∧ o < 0x380 then (d.lock (128 + (o - 0x340) / 4)).info
  else if 0x380 ≤ o ∧ o < 0x3C0 then (d.lock (128 + (o - 0x380) / 4)).time
  else d.reg pgKTL o

def Dev.wdmWord (d : Dev) (w o : Nat) : Word :=
  if o < 0x048 then d.mvStat (2 * w + (o - 0x040) / 4)
  else if 0x100 ≤ o then
    let k := 16 * w + (o - 0x100) / 32
    if o % 32 = 0x0C then w32 (d.mchan k).tail
    else if o % 32 = 0x10 then d.mvHead k
    else if o % 32 = 0x14 then (d.mchan k).resid
    else if o % 32 = 0x18 then lo32 (smGet d.wide (rk (pgWDM + w) o) 0)
    else d.reg (pgWDM + w) o
  else d.reg (pgWDM + w) o

/-- WCOR.BTB_DATA. -/
def Dev.btbWord (d : Dev) (w : Nat) : Word :=
  let sel := d.rf (pgWCOR + w) 0x044 0 7
  match smFind (d.core (8 * w + sel / 16)).btb (sel % 16) with
  | some (b, t, _) => w32 (2 ^ 31 + fput 16 15 (b / 2) + t / 2 % 2 ^ 15 * 2)
  | none => 0

def Dev.wcorWord (d : Dev) (w o : Nat) : Word :=
  if o = 0x048 then d.btbWord w
  else if 0x100 ≤ o ∧ o % 32 = 4 then d.coreStat (8 * w + (o - 0x100) / 32)
  else d.reg (pgWCOR + w) o

/-- A word of an arbiter block: RWS fields read their shadow (R3), MASKED the present masks. -/
def Dev.arbWord (d : Dev) (p a o : Nat) : Word :=
  let q := o - arbBase a
  if q = 0x44 then d.maskedWord a else if q < 0x40 then d.shadowOf p o else d.reg p o

def Dev.hubWord (d : Dev) (o : Nat) : Word := if o < 0x100 then d.reg pgHUB o else d.arbWord pgHUB ((o - 0x100) / 0x80) o

def Dev.warbWord (d : Dev) (w o : Nat) : Word :=
  let p := pgWARB + w
  if 0x100 ≤ o ∧ o < 0x200 then d.arbWord p (32 + 2 * w + (o - 0x100) / 0x80) o
  else if o = 0x200 then d.shadowOf p o
  else if o = 0x408 then
    let v := d.wfault w
    w32 (fput 31 1 (b2n v.fenced) + fput 30 1 (b2n v.held) + fput 29 1 (b2n v.recovering))
  else if o = 0x40C then (d.wfault w).steepStart
  else d.reg p o

def Dev.memWord (d : Dev) (o : Nat) : Word :=
  if o = 0x044 then w32 d.repaired
  else if o = 0x048 then srcWord fun g => decide (g < 16) && match (d.dom (124 + g)).trans with
    | .exiting _ _ => (d.dom (124 + g)).state = .off
    | _ => false
  else d.reg pgMEM o

def Dev.cdyWord (d : Dev) (o : Nat) : Word :=
  if o = 0x048 then d.reg pgCDY o ||| 2
  else if o = 0x050 then w32 (b2n d.caddy.wiping)
  else if o = 0x054 then 0
  else d.reg pgCDY o

/-- DRC channel state (R416). -/
def Dev.dramState (d : Dev) (c : Nat) : Nat :=
  if !d.rb pgDRC 0x040 31 ∨ d.rf pgDRC 0x040 0 3 = 0 then 0
  else match (d.dom (26 + c)).state with
    | .doze => 4
    | .nap => 5
    | .off => 5
    | _ => if !d.links.trained.contains c then 1 else if d.isIdle (26 + c) then 3 else 2

def Dev.drcWord (d : Dev) (o : Nat) : Word :=
  if o = 0x044 then w32 (fput 4 4 (d.dramState 1) + d.dramState 0) else d.reg pgDRC o

/-- ENG_STAT of an engine kind. -/
def Dev.engStat (d : Dev) (kind : Nat) : Word :=
  w32 ((List.range (engCount kind)).foldl (fun n e =>
    n + (if d.isFenced (engDom kind e) then 2 ^ (16 + e) else 0) + (if d.engFree kind e then 0 else 2 ^ e)) 0)

def Dev.engWord (d : Dev) (p kind o : Nat) : Word := if o = 0x040 then d.engStat kind else d.reg p o

def Dev.xcrWord (d : Dev) (a o : Nat) : Word :=
  if o = 0x044 then 0
  else if o = 0x048 then w32 (fput 16 11 d.streamWait.length + fput 0 5 (d.streams.filter fun e => !e.2.engs.isEmpty).length)
  else if 0x080 ≤ o then d.bank pgXCR o a
  else d.reg pgXCR o

def LqState.code : LqState → Nat
  | .free => 0
  | .lent => 1
  | .revoking => 2

def Dev.nvaWord (d : Dev) (o : Nat) : Word :=
  if o < 0x100 then d.reg pgNVA o
  else
    let l := d.lq ((o - 0x100) / 64)
    let q := o % 64
    if q = 0 then w32 (fput 30 2 l.state.code + fput 29 1 (b2n l.lendErr))
    else if q = 0x2C then w32 (fput 31 1 (b2n l.phase) + fput 16 10 l.sqHead + fput 0 10 l.sqTail)
    else if q = 0x30 then w32 (fput 0 10 l.cqHead)
    else if q = 0x34 then w32 (fput 0 11 l.cmds.length)
    else d.reg pgNVA o

def Dev.i3cWord (d : Dev) (o : Nat) : Word :=
  if o = 0x040 then srcWord fun c => decide (c < 6) && (d.i3c c).ibiValid
  else if o < 0x100 then d.reg pgI3C o
  else
    let c := (o - 0x100) / 0x80
    let q := (o - 0x100) % 0x80
    let v := d.i3c c
    if q = 0x10 then
      w32 (fput 8 8 v.assigned.length + fput 2 1 (b2n v.ibiValid) + fput 1 1 (b2n v.daaBusy) +
        b2n (d.i3cBusy c || v.daaBusy || (c = 5 && d.pmic.busy.isSome)))
    else if q = 0x14 then w32 (fput 31 1 (b2n v.ibiValid) + fput 24 7 v.ibiAddr.toNat + fput 0 4 v.ibi.length)
    else if q = 0x18 then wordOf v.ibi 0
    else if q = 0x1C then wordOf v.ibi 1
    else d.reg pgI3C o

/-- A transaction is in progress on SPI port `s`. -/
def Dev.spiBusy (d : Dev) (s : Nat) : Bool :=
  d.ctxs.any fun e => bKind (d.scb e.1).binding = 4 && bPort (d.scb e.1).binding = s && e.2.ops.any fun o => !o.taken

def Dev.spiWord (d : Dev) (o : Nat) : Word :=
  if o < 0x100 then d.reg pgSPI o
  else
    let s := (o - 0x100) / 64
    let v := d.spi s
    let q := o % 64
    if q = 0x10 then
      w32 (fput 4 1 (b2n v.tgtSel) + fput 2 2 v.cs + fput 1 1 (b2n v.heldBy.isSome) + b2n (d.spiBusy s))
    else if q = 0x20 ∨ q = 0x28 then lo32 (smGet d.wide (rk pgSPI o) 0)
    else d.reg pgSPI o

def Dev.uarWord (d : Dev) (o : Nat) : Word :=
  if o < 0x100 then d.reg pgUAR o
  else
    let q := o % 64
    if q = 0x0C then d.uartStat ((o - 0x100) / 64)
    else if q = 0x20 ∨ q = 0x28 then lo32 (smGet d.wide (rk pgUAR o) 0)
    else d.reg pgUAR o

def Dev.gpiWord (d : Dev) (o : Nat) : Word :=
  if o = 0x040 then d.gpi.level
  else if o = 0x04C ∨ o = 0x050 then d.reg pgGPI 0x044
  else d.reg pgGPI o

def Dev.fifWord (d : Dev) (o : Nat) : Word :=
  if o < 0x100 then d.reg pgFIF o
  else
    let v := d.fifo ((o - 0x100) / 64)
    let q := o % 64
    if q = 0x08 then 0
    else if q = 0x0C then
      w32 (fput 16 8 v.packets + fput 10 1 (b2n (v.dropPend || v.dropReq)) + fput 9 1 (b2n v.flushPend) +
        fput 8 1 (b2n v.inPkt) + fput 0 7 v.chain.length)
    else d.reg pgFIF o

def Dev.ecpWord (d : Dev) (o : Nat) : Word :=
  if o = 0x044 then w32 (fput 1 1 (b2n d.ecp.ibiPend) + b2n (decide (d.ecpDyn ≠ 0))) else d.reg pgECP o

def Dev.brgWord (d : Dev) (o : Nat) : Word :=
  if o = 0x040 then w32 (fput 1 1 (b2n (d.isFenced 150)) + b2n !(d.dom 150).asleep)
  else if o = 0x044 then
    let mv := stepMv (d.region 7).volt
    w32 (if mv < 750 then 750 - mv else mv - 750)
  else if o = 0x04C ∨ o = 0x054 then lo32 (smGet d.wide (rk pgBRG o) 0)
  else d.reg pgBRG o

/-- DBG.REG_DATA: a general register or CSR of a halted core (R509); the kettle core only with full access. -/
def Dev.dbgRegRead (d : Dev) : Word :=
  let sel := d.reg pgDBG 0x600
  let a := fld sel 8 8
  let k := a - 1
  if a = 0 ∨ 65 < a ∨ (d.core k).state ≠ .debugHalt ∨ (k = 64 ∧ d.dbgAccess ≠ 2) then 0
  else if bitAt sel 7 then ((d.csrRead k (fld sel 0 6)).getD 0).zeroExtend 32
  else if fld sel 0 6 < 32 then (smGet (d.core k).g (fld sel 0 6) 0).zeroExtend 32
  else 0

def Dev.dbgWord (d : Dev) (o : Nat) : Word :=
  if o = 0x040 then 0
  else if 0x110 ≤ o ∧ o < 0x600 ∧ o % 16 = 12 then d.coreStat ((o - 0x100) / 16 - 1)
  else if 0x110 ≤ o ∧ o < 0x600 ∧ o % 16 = 0 then d.reg pgDBG o &&& 0x90000000
  else if o = 0x604 then d.dbgRegRead
  else d.reg pgDBG o

def Dev.hwtWord (d : Dev) (o : Nat) : Word := if o = 0x044 then w32 d.hwtValid else d.reg pgHWT o

/-- PDN registers; CLKREQ_N is low while the far end or the port, whose link is in L0 or L1, drives it (R522). -/
def Dev.pdnWord (d : Dev) (p o : Nat) : Word :=
  let v := d.reg (pgPDN + p) o
  if o = 0x044 then withBit v 17 (bitAt v 17 || (bitAt v 0 && decide (fld v 4 4 ≤ 1))) else v

/-- What a block register of a page reads as for an agent, apart from what the read itself does. -/
def Dev.blockWord (d : Dev) (a p o : Nat) : Word :=
  if p = pgDEV then d.devWord o
  else if p = pgKTL then d.ktlWord o
  else if p = pgPCR then d.pcrWord o
  else if p = pgLDG then d.ldgWord o
  else if p = pgDRL then d.drlWord o
  else if p = pgPWD then d.pwdWord o
  else if p = pgFLT then d.fltWord o
  else if p = pgSTR then d.strWord o
  else if p = pgLCS then d.lcsWord o
  else if p = pgFUS then d.fusWord a o
  else if p = pgTHM then d.thmWord o
  else if p = pgHIF then d.hifWord o
  else if p = pgHWT then d.hwtWord o
  else if p = pgHUB then d.hubWord o
  else if p = pgBRG then d.brgWord o
  else if p = pgDBG then d.dbgWord o
  else if p < pgWICU then d.ceWord a (p - pgCE) o
  else if p < pgWMBX then d.wicuWord (p - pgWICU) o
  else if p < pgWDM then d.wmbxWord a (p - pgWMBX) o
  else if p < pgWCOR then d.wdmWord (p - pgWDM) o
  else if p < pgWARB then d.wcorWord (p - pgWCOR) o
  else if p < pgMEM then d.warbWord (p - pgWARB) o
  else if p = pgMEM then d.memWord o
  else if p = pgCDY then d.cdyWord o
  else if p = pgDRC then d.drcWord o
  else if p = pgXAE then d.engWord p 0 o
  else if p = pgXSH then d.engWord p 1 o
  else if p = pgXDF then d.engWord p 2 o
  else if p = pgXCR then d.xcrWord a o
  else if p = pgNVA then d.nvaWord o
  else if p = pgI3C then d.i3cWord o
  else if p = pgSPI then d.spiWord o
  else if p = pgUAR then d.uarWord o
  else if p = pgGPI then d.gpiWord o
  else if p = pgFIF then d.fifWord o
  else if p = pgECP then d.ecpWord o
  else if pgPDN ≤ p ∧ p < pgPHY then d.pdnWord (p - pgPDN) o
  else d.reg p o

/-- What a register of a page reads as for an agent, apart from what the read itself does. -/
def Dev.regWord (d : Dev) (a p o : Nat) : Word := if o < 0x040 then d.headerWord p o else d.blockWord a p o

/-! ### Reads that do something -/

/-- A 64-bit value is read through its lower register: the upper one takes the latch (R77). -/
def Dev.latchHi (d : Dev) (p lo : Nat) (v : BitVec 64) : Word × Dev := (lo32 v, d.setReg p (lo + 4) (hi32 v))

/-- Registers that hold the lower half of a 64-bit byte counter. -/
def wideLow (p o : Nat) : Bool :=
  ((p = pgUAR || p = pgSPI) && decide (0x100 ≤ o) && (o % 64 = 0x20 || o % 64 = 0x28)) ||
  (decide (pgWDM ≤ p) && decide (p < pgWCOR) && decide (0x100 ≤ o) && o % 32 = 0x18) ||
  (p = pgBRG && (o = 0x04C || o = 0x054))

/-- The lock that a LOCK register is (R382, R386). -/
def lockReg (p o : Nat) : Option Nat :=
  if 0x300 ≤ o ∧ o < 0x340 then
    if p = pgKTL then some (128 + (o - 0x300) / 4)
    else if pgWMBX ≤ p ∧ p < pgWDM then some (16 * (p - pgWMBX) + (o - 0x300) / 4)
    else none
  else none

/-- A read by an agent, whose work carries a tag, with what it does. -/
def Dev.readReg (d : Dev) (a tag p o : Nat) : Word × Dev :=
  if wideLow p o then d.latchHi p o (smGet d.wide (rk p o) 0)
  else match lockReg p o with
    | some l =>
      let d := match lockWheel l with
        | some w => d.countWheelOp w tag
        | none => d
      d.lockRead tag a l
    | none =>
      if p = pgPCR ∧ o = 0x048 then
        let s := d.sample tag
        s.2.latchHi p o s.1
      else if p = pgPCR ∧ o = 0x058 then d.latchHi p o d.pacer.hostOfs
      else if p = pgPCR ∧ o = 0x068 then d.latchHi p o (d.wl.head?.elim (BitVec.ofNat 64 (2 ^ 64 - 1)) WlEntry.target)
      else if p = pgLDG ∧ o = 0x048 then
        let t := d.rf pgLDG 0x044 0 13
        (lo32 (d.acc t), (d.setReg pgLDG 0x04C (hi32 (d.acc t))).setReg pgLDG 0x050 (w32 (smGet d.ledger.rem t 0)))
      else if p = pgLDG ∧ o = 0x054 then d.latchHi p o d.ledger.pkgAcc
      else if p = pgFIF ∧ 0x100 ≤ o ∧ o % 64 = 0x18 then d.fifoReadStage ((o - 0x100) / 64) tag
      else if p = pgI3C ∧ 0x100 ≤ o ∧ (o - 0x100) % 0x80 = 0x1C then
        let c := (o - 0x100) / 0x80
        (d.regWord a p o, d.setI3c c { d.i3c c with ibiValid := false })
      else if p = pgPWD ∧ 0x110 ≤ o ∧ o % 16 = 12 ∧ (d.dom ((o - 0x100) / 16)).wakeAt.isNone then
        let f := d.free
        (f.1.truncate 32, f.2)
      else (d.regWord a p o, d)

end Sys2Proof.Machine
end

