-- ==== Sys2Proof/Machine/RegHeader.lean ====
section
/-!
DEFINITION. Writes of register words: what access codes alone do (R3, R5, R539), and the common header (R535–R541).
A write answers the device after it, or none where it is discarded with BAD_WRITE (R6, R538).
-/

namespace Sys2Proof.Machine

/-- The word a write leaves where bits behave by their access codes alone (R3, R5). -/
def RegRow.written (r : RegRow) (cur v : Word) : Word :=
  let rw := w32 r.rw
  let w1c := w32 r.w1c
  (cur &&& ~~~rw &&& ~~~(w1c &&& v)) ||| (v &&& rw)

/-- A write that does what the access codes say and no more: a banked register takes it in its writer's copy (R131), RWS
fields in their shadow (R539). -/
def Dev.plain (d : Dev) (a p o : Nat) (v : Word) : Dev :=
  match regRow p o with
  | none => d
  | some r =>
    if r.banked then d.setBank p o a (r.written (d.bank p o a) v)
    else if r.rws then { d with shadow := smSet d.shadow (rk p o) (r.written (d.shadowOf p o) v) (d.reg p o) }
    else d.setReg p o (r.written (d.reg p o) v)

/-- Bits that PG_EVT_SET, PG_EVT_CLR and PG_EVT_EN name on a page. -/
def evtMask (p : Nat) : Word := if pageBlockEvents p = 0 then 3 else 0x10003

/-- Another page of a domain's unit holds its fence request: WICU, WMBX and WARB name one unit (R536). -/
def Dev.otherRequest (d : Dev) (p k : Nat) : Bool :=
  (List.range numPages).any fun q => q ≠ p && (pageDoms q).contains k && d.rb q 0x008 1

/-- PG_CTRL.EN and FENCE_REQ (R167, R168, R272, R316, R474, R536). -/
def Dev.writePgCtrl (d : Dev) (p : Nat) (v : Word) : Option Dev :=
  let en := bitAt v 0
  let fence := bitAt v 1
  if (!en && !pageDrains p) || (fence && !pageFenceable p) then none
  else
    let draining := d.draining p
    let was := d.pageEn p
    let keep := if en && draining then withBit v 0 false else v
    let d := d.setReg p 0x008 (keep &&& 3)
    let d := { d with enPend := if en && draining then (d.enPend.filter (· ≠ p)) ++ [p] else d.enPend.filter (· ≠ p) }
    let d := if was && !en && pgCE ≤ p && p < pgWICU then d.engineDrain (p - pgCE) else d
    some ((pageDoms p).foldl (fun d k =>
      if fence then d.fenceUnit k .request false
      else if (d.dom k).fenceReq && !d.otherRequest p k then d.liftFence k .request
      else d) d)

/-- Pages whose checker is a parity checker: logic parity, and not a memory's or a FIFO's check bits (R461, R482). -/
def parityPage (p : Nat) : Bool := !(p = pgMEM || p = pgFIF || p = pgDRC || p = pgKTL || p = pgCDY)

/-- PG_INJECT (R482). -/
def Dev.writeInject (d : Dev) (a p : Nat) (v : Word) : Option Dev :=
  if !d.rb pgFLT 0x040 0 ∨ fld v 4 2 = 3 ∨ pageCheckers p ≤ fld v 8 8 ∨ (bitAt v 3 ∧ parityPage p) then none
  else some (d.plain a p 0x02C v)

/-- A header word is written. -/
def Dev.writeHeader (d : Dev) (a p o : Nat) (v : Word) : Option Dev :=
  if o = 0x008 then d.writePgCtrl p v
  else if o = 0x014 then if v &&& ~~~evtMask p = 0 then some (d.pageEvt p v.toNat) else none
  else if o = 0x018 then if v &&& ~~~evtMask p = 0 then some (d.setReg p 0x010 (d.reg p 0x010 &&& ~~~v)) else none
  else if o = 0x01C then some (d.plain a p o (v &&& evtMask p))
  else if o = 0x020 then some (if bitAt v 31 then (d.setReg p 0x020 0).setReg p 0x024 0 else d)
  else if o = 0x02C then d.writeInject a p v
  else if o = 0x034 then if v = pageId p ∧ pageCommits p then some (d.commit p) else none
  else if o = 0x03C then
    if bitAt v 0 then (if a = agKettle then some (d.setRf p o 0 1 1) else none) else some d
  else some (d.plain a p o v)

end Sys2Proof.Machine
end

