-- ==== Sys2Proof/Machine/RegSys.lean ====
section
/-!
DEFINITION. Writes of the system pages: pacer, ledger, derailleur, power, faults, thermal sensors, status posting, kettle,
life-cycle, fuses, debug, arbiters, memory, caddy and transform control. A write answers the device after it, or none
where it is discarded with BAD_WRITE (R6, R538).
-/

namespace Sys2Proof.Machine

/-- A value within a range stands in for every value a table names; the rest are reserved encodings (R6, log 28). -/
def within (lo hi v : Nat) : Bool := lo ≤ v && v ≤ hi

/-- A write that is a plain one where a condition holds, and discarded where it does not. -/
def Dev.plainIf (d : Dev) (ok : Bool) (a p o : Nat) (v : Word) : Option Dev := if ok then some (d.plain a p o v) else none

/-- Half of a 64-bit counter is loaded (R75, R77): the lower register is at `lo`. -/
def Dev.wideLoad (d : Dev) (a p lo o : Nat) (v : Word) : Dev :=
  let cur := smGet d.wide (rk p lo) 0
  let new := if o = lo then cat64 (hi32 cur) v else cat64 v (lo32 cur)
  ({ d with wide := smSet d.wide (rk p lo) new 0 }).plain a p o v

/-! ### PCR and LDG (chapter 02) -/

/-- PCR: SRC (R49), RATE_ADJ (R37), HOST_OFS (R50), PTM_CFG. -/
def Dev.writePCR (d : Dev) (a o : Nat) (v : Word) : Option Dev :=
  let ok := d.plain a pgPCR o v
  if o = 0x040 then
    some (if fld v 0 2 = d.src_ then ok else { ok with pacer := { ok.pacer with ptmFirst := true } })
  else if o = 0x044 then some (if bitAt v 8 then { d with pacer := { d.pacer with wasUntrusted := false } } else d)
  else if o = 0x050 then d.plainIf (decide (v.toInt = clampRate v.toInt)) a pgPCR o v
  else if o = 0x058 ∨ o = 0x05C then
    if d.src_ = 3 then some d
    else
      let ofs := if o = 0x058 then cat64 (hi32 d.pacer.hostOfs) v else cat64 v (lo32 d.pacer.hostOfs)
      some { ok with pacer := { ok.pacer with hostOfs := ofs } }
  else if o = 0x060 then d.plainIf (fld v 0 16 ≠ 0 && fld v 16 16 ≠ 0) a pgPCR o v
  else some ok

/-- LDG: EN (R562), the tables (R59), the ranges the tables state. -/
def Dev.writeLDG (d : Dev) (a o : Nat) (v : Word) : Option Dev :=
  let ok := d.plain a pgLDG o v
  if o = 0x040 then some (if bitAt v 0 then ok else { ok with ledger := { ok.ledger with secWhole := false } })
  else if o = 0x044 then d.plainIf (within 0 4351 (fld v 0 13)) a pgLDG o v
  else if o = 0x064 then d.plainIf (within 1 2047 (fld v 0 16)) a pgLDG o v
  else if o = 0x06C then d.plainIf (within 1 63 (fld v 16 6)) a pgLDG o v
  else if o = 0x070 then d.plainIf (within 16 4095 (fld v 16 12)) a pgLDG o v
  else if 0x100 ≤ o ∧ o < 0x7C0 then some (d.foldAll.plain a pgLDG o v)
  else some ok

/-! ### DRL and PWD (chapter 14) -/

/-- DRL: the grid of VTARGET, the schedule slots (R441, R459), the rates (R453). -/
def Dev.writeDRL (d : Dev) (a o : Nat) (v : Word) : Option Dev :=
  let ok := d.plain a pgDRL o v
  if 0x080 ≤ o ∧ o < 0x0C0 ∧ o % 16 = 0 then d.plainIf (mvOk (fld v 0 16) && mvOk (fld v 16 16)) a pgDRL o v
  else if 0x080 ≤ o ∧ o < 0x0C0 ∧ o % 16 = 4 then some ok.setFloors
  else if o = 0x0C4 then d.plainIf (!(bitAt v 31 && fld v 8 8 = 0)) a pgDRL o v
  else if 0x200 ≤ o ∧ o < 0x400 ∧ o % 16 = 4 then some (ok.slotWritten ((o - 0x200) / 16))
  else if 0x200 ≤ o ∧ o < 0x400 ∧ o % 16 = 12 then
    if !within 1 151 (fld v 0 8) then none
    else some (if bitAt v 31 then ok else { ok with slots := smErase ok.slots ((o - 0x200) / 16) })
  else if 0x400 ≤ o then some ok.setFloors
  else some ok

/-- PWD: the windows of estimates, the counters of the selected domain, and CTRLd (R446–R450, R498). -/
def Dev.writePWD (d : Dev) (a o : Nat) (v : Word) : Option Dev :=
  let k := d.selDom
  let key := estKey k d.selState
  let en : List EnEntry := List.replicate 16 { pj := fld v 0 24, volt := d.volt k }
  if o = 0x040 then d.plainIf (within 1 151 (fld v 0 8) && within 2 4 (fld v 8 3)) a pgPWD o v
  else if o = 0x044 then
    some { d with lats := smPut d.lats key (List.replicate 16 { lat := fld v 0 16, volt := d.volt k, temp := d.temp k }) }
  else if o = 0x048 then some { d with eins := smPut d.eins key en }
  else if o = 0x04C then some { d with eouts := smPut d.eouts key en }
  else if o = 0x054 then some (d.setDom k { d.dom k with wakes := v })
  else if o = 0x058 then some (d.setDom k { d.dom k with late := v })
  else if o = 0x05C then some (d.setDom k { d.dom k with unplanned := v })
  else if o = 0x060 then some (d.setDom k { d.dom k with aborted := v })
  else if o = 0x064 then some (d.setDom k { d.dom k with cntSat := (d.dom k).cntSat &&& ~~~(v.truncate 4) })
  else if 0x100 ≤ o then
    let j := (o - 0x100) / 16
    if j = 0 then none
    else if o % 16 = 0 then
      if !within 1 4 (fld v 0 3) then none
      else if bitAt v 31 then (d.plain a pgPWD o v).cycleDomain j
      else if bitAt v 30 then (d.plain a pgPWD o v).resetDomain j
      else some (d.plain a pgPWD o v)
    else some (d.plain a pgPWD o v)
  else some (d.plain a pgPWD o v)

/-! ### FLT, STR, THM and the wheel fault block (chapters 14 and 15) -/

/-- FLT (R466, R484). -/
def Dev.writeFLT (d : Dev) (a o : Nat) (v : Word) : Option Dev :=
  if o = 0x040 then d.plainIf (a = agKettle || a = agDebug) a pgFLT o v
  else if o = 0x04C then
    let old := d.reg pgFLT o
    d.plainIf (decide ((v - old).toNat ≤ (d.faults.logProd - old).toNat)) a pgFLT o v
  else if o = 0x058 then d.plainIf (v ≠ 0) a pgFLT o v
  else if o = 0x05C then
    some ((List.range 9).foldl (fun d r => d.setRegion r { d.region r with warned := 0 }) (d.plain a pgFLT o v))
  else some (d.plain a pgFLT o v)

/-- Number of instances of a level of the strainer (R485): the last one, from 1 for units. -/
def strInstOk (lvl i : Nat) : Bool :=
  if lvl = 0 then within 1 151 i else if lvl = 1 then within 0 7 i else if lvl = 2 then within 0 8 i else i = 0

/-- STR (R485). -/
def Dev.writeSTR (d : Dev) (a o : Nat) (v : Word) : Option Dev :=
  if o = 0x040 then d.plainIf (strInstOk (fld v 0 2) (fld v 8 8)) a pgSTR o v
  else if 0x100 ≤ o ∧ o % 8 = 0 then
    d.plainIf (!bitAt v 31 || (fld v 0 8 ≠ 0 && within 1 27 ((o - 0x100) / 8 / 4))) a pgSTR o v
  else some (d.plain a pgSTR o v)

/-- THM: a sample period of 0 is reserved. -/
def Dev.writeTHM (d : Dev) (a o : Nat) (v : Word) : Option Dev := d.plainIf (o ≠ 0x040 || v.truncate 16 ≠ (0 : BitVec 16)) a pgTHM o v

/-- WARB: port fields (R431), RECOVER and STEEP (R480). -/
def Dev.writeWARB (d : Dev) (a w o : Nat) (v : Word) : Option Dev :=
  let p := pgWARB + w
  if 0x100 ≤ o ∧ o < 0x200 ∧ o % 0x80 < 0x40 then d.plainIf (fld v 0 4 ≠ 0) a p o v
  else if o = 0x400 then some (let d := d.plain a p o v; if bitAt v 31 then d.recoverStart w else d)
  else if o = 0x404 then d.plainIf (v ≠ 0) a p o v
  else some (d.plain a p o v)

/-- HUB: port fields (R431). -/
def Dev.writeHUB (d : Dev) (a o : Nat) (v : Word) : Option Dev :=
  d.plainIf (!(0x100 ≤ o && o % 0x80 < 0x40) || fld v 0 4 ≠ 0) a pgHUB o v

/-- BRG: VDIFF_MAX loads, the transfer counts load by halves. -/
def Dev.writeBRG (d : Dev) (a o : Nat) (v : Word) : Option Dev :=
  if o = 0x04C ∨ o = 0x050 then some (d.wideLoad a pgBRG 0x04C o v)
  else if o = 0x054 ∨ o = 0x058 then some (d.wideLoad a pgBRG 0x054 o v)
  else some (d.plain a pgBRG o v)

/-! ### HIF (chapter 06) -/

/-- EN of a ring is written 1 from 0: its indices are 0 (R227). -/
def Dev.ringStart (d : Dev) (r : Nat) : Dev :=
  { d.setReg pgHIF (0xE00 + 4 * r) 0 with
    hif := { d.hif with prod := smErase d.hif.prod r, mirrored := smErase d.hif.mirrored r, unread := smErase d.hif.unread r
                        flushTo := smErase d.hif.flushTo r }
    held := d.held.filter fun q => match q with
      | .mirror j _ => j ≠ r
      | _ => true }

/-- A write of RCFG (R226–R228). -/
def Dev.writeRCFG (d : Dev) (r : Nat) (v : Word) : Option Dev :=
  let o := 0x600 + 4 * r
  let old := d.rcfg r
  let new := v &&& 0xE01F00FF
  let size := 32 * 2 ^ fld v 16 5
  let base := d.rf pgHIF (0x400 + 4 * r) 5 21 * 32
  if bitAt old 31 then
    if (old ^^^ new) &&& 0x7FFFFFFF ≠ 0 then none
    else if bitAt new 31 then some d
    else if d.prod r = d.cons r ∧ !d.hif.store.any fun w => w.ring = r then some (d.setReg pgHIF o new) else none
  else if bitAt new 31 then
    if within 6 16 (fld v 16 5) ∧ fld v 0 8 ≠ 0 ∧ base % size = 0 ∧ base + size ≤ xramBase ∧
        (!bitAt v 30 ∨ (d.reg pgHIF (0xA00 + 4 * r)).toNat * 32 % size = 0) then
      some ((d.setReg pgHIF o new).ringStart r)
    else none
  else some (d.setReg pgHIF o new)

/-- A write of RCONS (R230): the slots below it are free. -/
def Dev.writeRCONS (d : Dev) (r : Nat) (v : Word) : Option Dev :=
  let old := d.cons r
  let n := (v - old).toNat
  if n ≤ (d.prod r - old).toNat then
    let left := (smGet d.hif.unread r []).drop n
    some { d.setReg pgHIF (0xE00 + 4 * r) v with hif := { d.hif with unread := smSet d.hif.unread r left [] } }
  else none

/-- HIF. -/
def Dev.writeHIF (d : Dev) (a o : Nat) (v : Word) : Option Dev :=
  if o = 0x040 then some (if bitAt v 0 then (if d.awakeHost then d else d.hostAwake.linkWake 6) else d.hostAsleep)
  else if o = 0x04C then
    let d := d.plain a pgHIF o v
    some { d with hif := { d.hif with nextPoll := cat64 v (d.reg pgHIF 0x048), pollReached := false } }
  else if 0x070 ≤ o ∧ o < 0x080 then
    let j := (o - 0x070) / 4
    some ((List.range 32).foldl (fun d b => if bitAt v b && d.merr (32 * j + b) then d.merrResume (32 * j + b) else d) d)
  else if 0x400 ≤ o ∧ o < 0x600 then d.plainIf (!d.ringEn ((o - 0x400) / 4)) a pgHIF o v
  else if 0x600 ≤ o ∧ o < 0x800 then d.writeRCFG ((o - 0x600) / 4) v
  else if 0x800 ≤ o ∧ o < 0xA00 then d.plainIf (!d.ringEn ((o - 0x800) / 4)) a pgHIF o v
  else if 0xA00 ≤ o ∧ o < 0xC00 then d.plainIf (!d.ringEn ((o - 0xA00) / 4)) a pgHIF o v
  else if 0xE00 ≤ o then d.writeRCONS ((o - 0xE00) / 4) v
  else some (d.plain a pgHIF o v)

/-! ### Locks (R383, R386) -/

/-- A write to a lock: only 0 is defined. -/
def Dev.writeLock (d : Dev) (a tag l : Nat) (v : Word) : Option Dev :=
  if v ≠ 0 then none
  else
    let d := match lockWheel l with
      | some w => d.countWheelOp w tag
      | none => d
    some (d.lockWrite a l)

/-! ### KTL, LCS, FUS and DBG (chapter 16) -/

/-- KTL: start-up control (R490, R492, R495), the flash port (R505), the timers (R504), the global locks. -/
def Dev.writeKTL (d : Dev) (a tag o : Nat) (v : Word) : Option Dev :=
  let ok := d.plain a pgKTL o v
  if o = 0x044 then
    if bitAt v 0 then none else some (if bitAt v 31 then d.setRf pgKTL o 31 1 1 else d)
  else if o = 0x048 then
    if !within 0x300 0x400000 v.toNat ∨ v.toNat % 32 ≠ 0 ∨ !d.boot.hostPath ∨ d.boot.loaded.isSome then none
    else some d.hostBoot
  else if 0x060 ≤ o ∧ o ≤ 0x070 then
    if a ≠ agKettle then none
    else if o = 0x060 then d.plainIf (decide (2 ≤ fld v 0 16)) a pgKTL o v
    else if o = 0x064 then d.plainIf (fld v 21 3 ≤ 4 && fld v 14 2 ≠ 3) a pgKTL o v
    else if o = 0x070 then d.qspiWrite v
    else some ok
  else if 0x100 ≤ o ∧ o < 0x180 then
    let k := (o - 0x100) / 16
    if o % 16 = 4 then some (ok.ktArm k)
    else if o % 16 = 8 then
      let d := d.setReg pgKTL o (d.reg pgKTL o &&& ~~~(v &&& 6))
      some (if bitAt v 7 then d.ktCancel k else d)
    else some ok
  else match lockReg pgKTL o with
    | some l => d.writeLock a tag l v
    | none => some ok

/-- LCS (R500, R503). -/
def Dev.writeLCS (d : Dev) (a o : Nat) (v : Word) : Option Dev :=
  if o = 0x044 then if a = agKettle then d.advance v else none
  else if o = 0x048 then
    if !bitAt v 31 then some d else if a = agKettle then d.svnAdvance else none
  else some (d.plain a pgLCS o v)

/-- FUS: the key hashes (R507). -/
def Dev.writeFUS (d : Dev) (a o : Nat) (v : Word) : Option Dev :=
  if 0x080 ≤ o ∧ o < 0x120 then (if a = agKettle then d.keyWrite o v else none) else some (d.plain a pgFUS o v)

/-- Debug reaches a core: the kettle core only with full access (R509). -/
def Dev.debugReaches (d : Dev) (k : Nat) : Bool := k < 64 || d.dbgAccess = 2

/-- RESUME and STEP of a halted core (R509). -/
def Dev.debugRun (d : Dev) (k : Nat) (v : Word) : Dev :=
  let c := d.core k
  if c.state ≠ .debugHalt then d
  else if bitAt v 29 then d.setCore k { c with state := c.haltedIn, skipBp := true, stepping := true }
  else if bitAt v 30 ∧ !bitAt v 31 then d.setCore k { c with state := c.haltedIn, skipBp := true, stepping := false }
  else d

/-- REG_DATA of a halted core (R509). -/
def Dev.debugRegWrite (d : Dev) (v : Byte) : Option Dev :=
  let sel := d.reg pgDBG 0x600
  let ag := fld sel 8 8
  let n := fld sel 0 6
  if ag = 0 ∨ 65 < ag ∨ !d.debugReaches (ag - 1) ∨ (d.core (ag - 1)).state ≠ .debugHalt then none
  else if bitAt sel 7 then d.csrWrite (ag - 1) n v
  else if n < 32 then some (d.setCore (ag - 1) { d.core (ag - 1) with g := smSet (d.core (ag - 1)).g n v 0 })
  else none

/-- The trace ring that the registers describe lies in shared SRAM and is aligned (R510). -/
def Dev.traceOk (d : Dev) : Bool :=
  let size := 16 * 2 ^ d.rf pgDBG 0x68C 0 4
  let base := (cat64 (d.reg pgDBG 0x688) (d.reg pgDBG 0x684)).toNat
  base % size = 0 && base + size ≤ xramBase

/-- DBG (R501, R509, R510). -/
def Dev.writeDBG (d : Dev) (a o : Nat) (v : Word) : Option Dev :=
  if o = 0x040 then
    if fld v 0 2 = 1 then d.challenge else if fld v 0 2 = 2 then d.sendResponse else none
  else if 0x110 ≤ o ∧ o < 0x520 then
    let k := (o - 0x110) / 16
    if !d.debugReaches k then none
    else if o % 16 = 0 then some ((d.plain a pgDBG o v).debugRun k v)
    else some (d.plain a pgDBG o v)
  else if o = 0x604 then d.debugRegWrite (v.truncate 8)
  else if o = 0x680 then d.plainIf (!bitAt v 31 || d.traceOk) a pgDBG o v
  else if o = 0x68C then d.plainIf (decide (4 ≤ fld v 0 4)) a pgDBG o v
  else some (d.plain a pgDBG o v)

/-! ### CDY, DRC, XAE and XCR (chapters 09 and 12) -/

/-- CDY: grants and the wipe, of the kettle core alone (R408, R409). -/
def Dev.writeCDY (d : Dev) (a o : Nat) (v : Word) : Option Dev :=
  if o < 0x050 then
    if a ≠ agKettle ∨ (o = 0x040 ∧ bitAt v 0) then none
    else
      let v := if o = 0x048 then v &&& 0xFFFFFFFD else v
      some (if d.caddy.wiping then { d with caddy := { d.caddy with held := d.caddy.held ++ [(o, v)] } } else d.setReg pgCDY o v)
  else if o = 0x054 then
    if a ≠ agKettle then none else some (if bitAt v 0 then d.wipe else d)
  else some (d.plain a pgCDY o v)

/-- DRC.CFG: SIZE and RATE change only while EN is 0. -/
def Dev.writeDRC (d : Dev) (a o : Nat) (v : Word) : Option Dev :=
  if o = 0x040 then
    let d := if bitAt v 31 then d else (d.untrain 0).untrain 1
    d.plainIf (fld v 0 3 ≤ 5 && fld v 4 3 ≤ 4 && (!d.rb pgDRC o 31 || (v ^^^ d.reg pgDRC o) &&& 0x77 = 0)) a pgDRC o v
  else some (d.plain a pgDRC o v)

/-- KSLOT (R313). -/
def Dev.writeXAE (d : Dev) (a o : Nat) (v : Word) : Option Dev :=
  if 0x100 ≤ o then
    let key := d.peek (caddyBase + 64 * ((o - 0x100) / 4)) 64
    let same := bitAt v 31 && bitAt v 30 && key.take 32 == key.drop 32
    d.plainIf ((a = agKettle || d.caddyGrants a) && !same) a pgXAE o v
  else some (d.plain a pgXAE o v)

/-- XDT_CMD (R319). -/
def Dev.writeXCR (d : Dev) (a o : Nat) (v : Word) : Option Dev :=
  if o = 0x044 then
    let i := d.rf pgXCR 0x040 0 10
    if bitAt v 0 ∧ bitAt v 1 then none
    else if bitAt v 1 then
      let ds := d.xdesc i
      some ((List.range 16).foldl (fun d j => d.setBank pgXCR (0x080 + 4 * j) a (wordOf ds j)) d)
    else if bitAt v 0 then
      some (d.setXdesc i ((List.range 16).flatMap fun j => leBytes 4 (d.bank pgXCR (0x080 + 4 * j) a).toNat))
    else some d
  else some (d.plain a pgXCR o v)

/-! ### WDM (chapter 07) -/

/-- WDM: the channels' registers (R254–R256). -/
def Dev.writeWDM (d : Dev) (a w o : Nat) (v : Word) : Option Dev :=
  let p := pgWDM + w
  if 0x100 ≤ o then
    let k := 16 * w + (o - 0x100) / 32
    let r := o % 32
    if r < 8 then d.plainIf (!d.mvEn k && (d.mchan k).state = .off) a p o v
    else if r = 8 then d.mvCfgWrite k v
    else if r = 12 then d.mvTailWrite k v
    else if r = 0x18 then some (d.wideLoad a p o o v)
    else if r = 0x1C then some (d.wideLoad a p (o - 4) o v)
    else some (d.plain a p o v)
  else some (d.plain a p o v)

end Sys2Proof.Machine
end

