-- ==== Sys2Proof/Machine/RegPort.lean ====
section
/-!
DEFINITION. Writes of the pages of the ports and links: NVA, WCH, I3C, SPI, UAR, GPI, FIF, ECP, PUP, PSW, PDN and PHY. A
write answers the device after it, or none where it is discarded with BAD_WRITE (R6, R538).
-/

namespace Sys2Proof.Machine

/-! ### NVA and WCH -/

/-- NVA: the lent queues (R183–R185) and the tables' ranges. -/
def Dev.writeNVA (d : Dev) (a o : Nat) (v : Word) : Option Dev :=
  if o = 0x040 then d.plainIf (within 0 47 (fld v 20 6)) a pgNVA o v
  else if 0x100 ≤ o then
    let q := (o - 0x100) / 64
    let r := o % 64
    let free := (d.lq q).state = .free
    if r = 0 then
      some (if bitAt v 0 ∧ free then d.lend q else if bitAt v 1 then d.revoke q else d)
    else if r = 0x24 then some (d.plain a pgNVA o v)
    else
      let ok :=
        if r = 0x04 then fld v 0 16 ≠ 0
        else if r = 0x08 ∨ r = 0x0C then fld v 0 10 ≠ 0
        else if r = 0x14 then within 9 12 (fld v 0 4) && fld v 16 8 ≠ 0
        else if r = 0x28 then within 0 6 (fld v 0 3)
        else true
      d.plainIf (free && ok) a pgNVA o v
  else some (d.plain a pgNVA o v)

/-- WCH: the sizes and ports of watch ranges and memory windows. -/
def Dev.writeWCH (d : Dev) (a o : Nat) (v : Word) : Option Dev :=
  if o < 0x300 ∧ o % 8 = 4 then d.plainIf (within 0 18 (fld v 0 5)) a pgWCH o v
  else if 0x300 ≤ o ∧ o % 16 = 8 then d.plainIf (within 0 24 (fld v 16 5) && within 0 5 (fld v 24 3)) a pgWCH o v
  else some (d.plain a pgWCH o v)

/-! ### I3C, SPI and UAR -/

/-- An I3C address field: none, or an address that may be given to a target. -/
def i3cAddrOk (x : Nat) : Bool := x = 0 || within 0x08 0x77 x

/-- CTRL of a controller (R217): EN can be cleared while the others stay; DAA is ignored with I2C_ONLY and out of use. -/
def Dev.writeI3cCtrl (d : Dev) (c : Nat) (v : Word) : Option Dev :=
  let o := i3cOff c 0
  let old := d.reg pgI3C o
  if bitAt old 31 ∧ (old ^^^ v) &&& 0x60000000 ≠ 0 then none
  else
    let d := d.setReg pgI3C o (v &&& 0xE0000000)
    let u := d.i3c c
    some (d.setI3c c { u with daaBusy := bitAt v 31 && (u.daaBusy || (bitAt v 28 && !bitAt v 29 && c < 5)) })

/-- I3C (R217, R219). -/
def Dev.writeI3C (d : Dev) (a o : Nat) (v : Word) : Option Dev :=
  if o < 0x100 then some (d.plain a pgI3C o v)
  else
    let c := (o - 0x100) / 0x80
    let r := (o - 0x100) % 0x80
    let off := !d.rb pgI3C (i3cOff c 0) 31
    if c = 5 ∧ a ≠ agKettle then none
    else if r = 0 then d.writeI3cCtrl c v
    else if r = 0x04 ∨ r = 0x08 then d.plainIf (off && decide (32 ≤ fld v 0 16)) a pgI3C o v
    else if r = 0x0C then d.plainIf (off && decide (400 ≤ fld v 0 16)) a pgI3C o v
    else if 0x40 ≤ r then d.plainIf (off && i3cAddrOk (fld v 16 8) && i3cAddrOk (fld v 0 7)) a pgI3C o v
    else some (d.plain a pgI3C o v)

/-- SPI (R215). -/
def Dev.writeSPI (d : Dev) (a o : Nat) (v : Word) : Option Dev :=
  if o < 0x100 then some (d.plain a pgSPI o v)
  else
    let s := (o - 0x100) / 64
    let r := o % 64
    let old := d.reg pgSPI (spiOff s 0)
    let off := !bitAt old 31
    if r = 0 then
      if fld v 16 2 = 3 ∨ (!off ∧ (old ^^^ v) &&& 0x60030000 ≠ 0) then none
      else
        let d := d.plain a pgSPI o v
        some (if bitAt v 31 then d else d.setSpi s {})
    else if r = 0x04 then d.plainIf (off && decide (2 ≤ fld v 0 16)) a pgSPI o v
    else if r = 0x08 then d.plainIf (off && fld v 0 8 ≠ 0 && fld v 8 8 ≠ 0 && fld v 16 8 ≠ 0) a pgSPI o v
    else if r = 0x0C ∨ r = 0x14 then d.plainIf off a pgSPI o v
    else if r = 0x20 ∨ r = 0x24 then some (d.wideLoad a pgSPI (spiOff s 0x20) o v)
    else if r = 0x28 ∨ r = 0x2C then some (d.wideLoad a pgSPI (spiOff s 0x28) o v)
    else some (d.plain a pgSPI o v)

/-- UAR (R214). -/
def Dev.writeUAR (d : Dev) (a o : Nat) (v : Word) : Option Dev :=
  if o < 0x100 then some (d.plain a pgUAR o v)
  else
    let u := (o - 0x100) / 64
    let r := o % 64
    let old := d.reg pgUAR (uarOff u 0)
    let off := !bitAt old 31
    if r = 0 then
      if fld v 2 2 = 3 ∨ 2 ≤ fld v 0 2 ∨ (!off ∧ (old ^^^ v) &&& 0x3F ≠ 0) then none
      else
        let d := d.plain a pgUAR o v
        let pin := (d.uart u).pin
        some (if bitAt v 31 then (if off then d.setUart u { pin := pin, since := d.now, lastRx := d.now } else d)
          else
            -- the receive buffer is empty, and so is a burst of it (R214)
            let d := match d.uartReader u with
              | some i => d.setCtx i { d.ctx i with burst := 0 }
              | none => d
            d.setUart u { pin := pin })
    else if r = 0x04 then d.plainIf (off && decide (0x215 ≤ fld v 0 20)) a pgUAR o v
    else if r = 0x08 then d.plainIf off a pgUAR o v
    else if r = 0x20 ∨ r = 0x24 then some (d.wideLoad a pgUAR (uarOff u 0x20) o v)
    else if r = 0x28 ∨ r = 0x2C then some (d.wideLoad a pgUAR (uarOff u 0x28) o v)
    else some (d.plain a pgUAR o v)

/-! ### GPI, FIF and ECP -/

/-- GPI: OUT_SET and OUT_CLR (R220). -/
def Dev.writeGPI (d : Dev) (a tag o : Nat) (v : Word) : Option Dev :=
  if o = 0x04C then some (d.gpioDrive tag v 0xFFFFFFFF)
  else if o = 0x050 then some (d.gpioDrive tag v 0)
  else some (d.plain a pgGPI o v)

/-- INST lies in the range of its SRC (R280, R291). -/
def fifoSrcOk (v : Word) : Bool :=
  let src := fld v 24 4
  let inst := fld v 16 3
  src ≤ 3 && (src = 0 || inst ≤ (if src = 3 then 4 else 3))

/-- FIF (R281, R287–R291). -/
def Dev.writeFIF (d : Dev) (a o : Nat) (v : Word) : Option Dev :=
  if o < 0x100 then some (d.plain a pgFIF o v)
  else
    let f := (o - 0x100) / 64
    let r := o % 64
    let old := d.fifoCfg f
    if r = 0 then
      let taken := (List.range 32).any fun g =>
        g ≠ f && bitAt (d.fifoCfg g) 31 && fld (d.fifoCfg g) 24 4 = fld v 24 4 && fld (d.fifoCfg g) 16 3 = fld v 16 3
      if !fifoSrcOk v then none
      else if bitAt old 31 then
        if (old ^^^ v) &&& 0x4F070FFF ≠ 0 then none else some (if bitAt v 31 then d else d.fifoDisable f)
      else if bitAt v 31 then
        if fld v 24 4 ≠ 0 ∧ taken then none else some ((d.plain a pgFIF o v).fifoEnable f)
      else some (d.plain a pgFIF o v)
    else if r = 0x04 then d.plainIf (within 0 64 (fld v 16 7) && within 0 63 (fld v 0 7)) a pgFIF o v
    else if r = 0x08 then some (d.fifoCmd f (bitAt v 0) (bitAt v 1))
    else some (d.plain a pgFIF o v)

/-- ECP.CFG (R222): STATIC_ADDR changes only while EN is 0, and EN = 0 drops the dynamic address. -/
def Dev.writeECP (d : Dev) (a o : Nat) (v : Word) : Option Dev :=
  if o = 0x040 then
    let old := d.reg pgECP o
    if !within 0x08 0x77 (fld v 16 7) ∨ (bitAt old 31 ∧ fld old 16 7 ≠ fld v 16 7) then none
    else
      let d := d.plain a pgECP o v
      some (if bitAt v 31 then d else { (d.setRf pgECP o 0 7 0) with ecp := { d.ecp with ibiPend := false, tries := 0 } })
  else some (d.plain a pgECP o v)

/-! ### PUP, PDN and PHY (chapter 17) -/

/-- PUP: L1_IDLE and LTR_CFG. -/
def Dev.writePUP (d : Dev) (a o : Nat) (v : Word) : Option Dev :=
  if o = 0x044 then d.plainIf (v ≠ 0) a pgPUP o v
  else if o = 0x048 then d.plainIf (fld v 0 16 ≤ fld v 16 16) a pgPUP o v
  else some (d.plain a pgPUP o v)

/-- PDN.CTRL: PERST_REL needs REFCLK_EN in the same write (log 54), and its clearing takes the link down (R522). -/
def Dev.writePDN (d : Dev) (a p o : Nat) (v : Word) : Option Dev :=
  if o = 0x040 then
    if bitAt v 31 ∧ !bitAt v 30 then none
    else
      let was := d.rb (pgPDN + p) o 31
      let d := d.plain a (pgPDN + p) o v
      some (if was ∧ !bitAt v 31 then d.portDown p else d)
  else some (d.plain a (pgPDN + p) o v)

/-- PHY: RECAL and LMARG.GO (R531). -/
def Dev.writePHY (d : Dev) (a o : Nat) (v : Word) : Option Dev :=
  if o < 0x180 ∧ o % 32 = 0 then some (if bitAt v 0 then d.recal ((o - 0x100) / 32) else d)
  else if 0x400 ≤ o ∧ o < 0x500 ∧ o % 16 = 8 then
    let steps := fld v 20 8
    if bitAt v 31 then
      if steps = 0 ∨ marginLimit (bitAt v 30) < steps then none
      else some ((d.plain a pgPHY o v).marginStart ((o - 0x400) / 16))
    else some (d.plain a pgPHY o v)
  else some (d.plain a pgPHY o v)

end Sys2Proof.Machine
end

