-- ==== Sys2Proof/Machine/RegWheel.lean ====
section
/-!
DEFINITION. Writes of the pages of channel engines, wheel interrupts, mailboxes and cores: CE, WICU, WMBX and WCOR. A write
answers the device after it, or none where it is discarded with BAD_WRITE (R6, R538).
-/

namespace Sys2Proof.Machine

/-! ### CE (R131–R136) -/

/-- The states of R135 that allow an operation, by OPC. -/
def opAllowed (opc : Nat) (s : SubState) (fenced : Bool) : Bool :=
  match opc with
  | 1 => s = .idle
  | 2 => s = .suspended
  | 3 => s = .pending || s = .active || s = .waiting || s = .suspended || s = .draining
  | 4 => s = .pending || s = .active || s = .waiting
  | _ => s = .stopped || fenced

/-- The effect of an accepted operation (R135, R136). -/
def Dev.opEffect (d : Dev) (opc i : Nat) (addr : BitVec 48) : Dev :=
  match opc with
  | 1 => d.subStart i addr
  | 2 => d.subResume i
  | 3 => d.subHalt i
  | 4 => d.setScb i { d.scb i with suspReq := true }
  | _ => d.subClear i

/-- CE.OP of engine `n` by an agent: the result goes to the agent's OP_RESULT (R131–R136). -/
def Dev.ceOp (d : Dev) (a n : Nat) (v : Word) : Option Dev :=
  let p := pgCE + n
  let opc := fld v 28 4
  let sub := fld v 0 8
  let i := 256 * n + sub
  if opc = 0 ∨ 5 < opc then none
  else
    let fenced := d.isFenced (ceDom n)
    let s := (d.scb i).state
    let res :=
      if fenced && opc ≠ 5 then 3
      else if (opc = 1 || opc = 2) && (!d.pageEn p || d.ceDraining n) then 4
      else if opAllowed opc s fenced then 1
      else 2
    let addr := BitVec.ofNat 48 (cat64 (d.bank p 0x04C a) (d.bank p 0x048 a)).toNat
    let d := if res = 1 then d.opEffect opc i addr else d
    some (d.setBank p 0x044 a (w32 (fput 28 4 opc + fput 8 8 sub + fput 4 4 s.code + res)))

/-- A write of a word of the SCB window (R133, R172). -/
def Dev.scbWrite (d : Dev) (i j : Nat) (v : Word) : Option Dev :=
  let s := d.scb i
  let idle := s.state = .idle
  if j = 0 then
    if BitVec.ofNat 7 (fld v 24 7) ≠ s.ring ∧ !idle then none
    else some (d.setScb i { s with cls := BitVec.ofNat 2 (fld v 16 2), ring := BitVec.ofNat 7 (fld v 24 7) })
  else if j = 1 then if idle ∧ bindingOk v then some (d.setScb i { s with binding := v }) else none
  else if j = 12 then if idle then some (d.setScb i { s with budget := v.truncate 16 }) else none
  else some d

/-- CE n. -/
def Dev.writeCE (d : Dev) (a n o : Nat) (v : Word) : Option Dev :=
  let p := pgCE + n
  if !agentBanked a then none
  else if o = 0x040 then d.ceOp a n v
  else if o = 0x058 then some (d.setEng n { d.eng n with highWater := fld v 8 8 })
  else if o = 0x060 then
    let g := d.eng n
    let e := d.rf p 0x05C 0 10
    let ovf := 256 ≤ smGet g.arr e 0 && !bitAt v 8
    some (d.setEng n { g with arr := smSet g.arr e (fld v 0 8 + 256 * b2n ovf) 0 })
  else if 0x080 ≤ o then d.scbWrite (256 * n + (d.bank p 0x050 a).toNat % 256) ((o - 0x080) / 4) v
  else some (d.plain a p o v)

/-! ### WICU (R365, R370, R373) -/

/-- Mask bits set or cleared. -/
def Src.setMask (b : Bool) (s : Src) : Src := { s with mask := b }

/-- An operation by its register among the four of a bank: PEND_SET, PEND_CLR, MASK_SET, MASK_CLR. -/
def bankOp (j : Nat) : Src → Src :=
  match j with
  | 0 => Src.pendSet
  | 1 => Src.pendClr
  | 2 => Src.setMask true
  | _ => Src.setMask false

/-- The lowest private source number that an operation of a bank acts on: the mask has a bit for source 0. -/
def bankFirst (j : Nat) : Nat := if 2 ≤ j then 0 else 1

/-- WICU w. -/
def Dev.writeWICU (d : Dev) (a tag w o : Nat) (v : Word) : Option Dev :=
  let p := pgWICU + w
  let op := d.countWheelOp w tag
  if o < 0x100 then some (d.plain a p o v)
  else if o < 0x300 then
    let c := (o - 0x100) / 64
    let r := o % 64
    let go := fun j => some (op.eachSrc (bankOp j) (privSrc w c) (bankFirst j) v)
    if r = 0x10 then go 0 else if r = 0x14 then go 1 else if r = 0x1C then go 2 else if r = 0x20 then go 3
    else some (d.plain a p o v)
  else if o < 0x700 then op.srcCfgWrite (privSrc w ((o - 0x300) / 128) ((o - 0x300) % 128 / 4)) v
  else if o < 0xB00 then op.srcCfgWrite (sharedSrc w ((o - 0x700) / 4)) v
  else if o < 0xF00 then some (d.plain a p o v)
  else
    let j := (o - 0xF00) % 32 / 4
    let go := fun k => some (op.eachSrc (bankOp k) (fun b => sharedSrc w (32 * j + b)) (if j = 0 then 32 else 0) v)
    match (o - 0xF00) / 32 with
    | 1 => go 0
    | 2 => go 1
    | 4 => go 2
    | _ => go 3

/-! ### WMBX (R375–R383) -/

def PostRes.code : PostRes → Nat
  | .accepted => 1
  | .full => 2
  | .fenced => 3

/-- POST of an agent: the message is its own POST_W (R377). -/
def Dev.postWrite (d : Dev) (a tag w : Nat) (v : Word) : Dev :=
  let p := pgWMBX + w
  let m := fld v 0 4
  let msg := (List.range 4).flatMap fun j => leBytes 4 (d.bank p (0x060 + 4 * j) a).toNat
  let r := d.mboxPost tag a (16 * w + m) (fld v 8 3) msg false
  r.2.setBank p 0x044 a (w32 (fput 4 4 m + r.1.code))

/-- CMD of a mailbox: 1 RELEASE, 2 REPLY; the others are reserved. -/
def Dev.mboxCmd (d : Dev) (tag m cmd : Nat) : Option Dev :=
  let d := d.countWheelOp (m / 16) tag
  if cmd = 1 then some (d.mboxRelease m) else if cmd = 2 then some (d.mboxReply m) else none

/-- WMBX w. -/
def Dev.writeWMBX (d : Dev) (a tag w o : Nat) (v : Word) : Option Dev :=
  let p := pgWMBX + w
  if o = 0x040 then some (d.postWrite a tag w v)
  else if 0x100 ≤ o ∧ o < 0x300 then
    let m := 16 * w + (o - 0x100) / 32
    if o % 32 = 8 then some (d.setMbox m { d.mbox m with reply := v })
    else if o % 32 = 12 then d.mboxCmd tag m (fld v 0 8)
    else some (d.plain a p o v)
  else match lockReg p o with
    | some l => d.writeLock a tag l v
    | none => some (d.plain a p o v)

/-! ### WCOR (R342, R354–R357, R384) -/

/-- CORE_CTRL of core `k`: RESET and BTB_OFF. -/
def Dev.coreCtrl (d : Dev) (a k : Nat) (v : Word) : Dev :=
  let was := d.rb (corPage k) (corOff k 0) 31
  let d := d.plain a (corPage k) (corOff k 0) v
  let d := if bitAt v 30 then d.setCore k { d.core k with btb := [] } else d
  if bitAt v 31 ∧ !was then
    (d.setCore k { d.core k with state := .reset, pend := [], storeErrs := [], stepping := false }).breakLocks fun g => g = coreAgent k
  else if !bitAt v 31 ∧ was then
    let u := d.dom (coreDomain k)
    if u.state = .off then d.startExit (coreDomain k) false none
    else if u.asleep then (d.coreRelease k).startExit (coreDomain k) false none
    else d.coreRelease k
  else d

/-- The boot source of a core lies in shared SRAM, exchange RAM or LPDDR5X (R357). -/
def bootAddrOk (a : Nat) : Bool :=
  match rangeOf a with
  | .sram .none => true
  | .xram _ .none => true
  | .dram => true
  | _ => false

/-- WCOR w. -/
def Dev.writeWCOR (d : Dev) (a w o : Nat) (v : Word) : Option Dev :=
  let p := pgWCOR + w
  if o < 0x100 then some (d.plain a p o v)
  else
    let k := 8 * w + (o - 0x100) / 32
    let r := o % 32
    if r = 0 then some (d.coreCtrl a k v)
    else if r = 0x08 then d.plainIf (bootAddrOk (v.toNat / 32 * 32 + d.rf p (o + 4) 0 16 * 2 ^ 32)) a p o v
    else if r = 0x0C then d.plainIf (bootAddrOk ((d.reg p (o - 4)).toNat + fld v 0 16 * 2 ^ 32)) a p o v
    else if r = 0x10 then d.plainIf (fld v 0 16 ≤ 32768 && fld v 0 16 % 32 = 0) a p o v
    else some (d.plain a p o v)

end Sys2Proof.Machine
end

