-- ==== Sys2Proof/Machine/RegPath.lean ====
section
/-!
DEFINITION. The path of a register access: who may make it (R492, R501, R532), what stands in its way (R25, R26, R534,
R560), the lock (R540), and the two accesses that every command of the register pages is made of.
-/

namespace Sys2Proof.Machine

/-! ### Where a register is held (R534, R560) -/

/-- The domains whose units hold a register (R11, R534, R560); none where domain 0 holds it. HUB's registers lie in the four segments,
and PG_INJECT and PG_COMMIT in every unit that R12 names the page for (log 36). -/
def regDoms (p o : Nat) : List Nat :=
  if o < 0x040 then (if o = 0x02C ∨ o = 0x034 then pageDoms p else [])
  else if p = pgKTL then (if 0x060 ≤ o ∧ o < 0x074 then [25] else [])
  else if pgWCOR ≤ p ∧ p < pgWARB then
    (if 0x100 ≤ o ∧ o < 0x200 ∧ 0x14 ≤ o % 32 then [coreDom (p - pgWCOR) ((o - 0x100) / 32)] else [])
  else if p = pgMEM then
    (if 0x100 ≤ o ∧ o < 0x140 then [124 + (o - 0x100) / 4] else if 0x140 ≤ o ∧ o < 0x180 then [124 + (o - 0x140) / 4]
     else [])
  else if p = pgI3C then (if 0x100 ≤ o then [14 + (o - 0x100) / 0x100] else [])
  else if p = pgSPI then (if 0x100 ≤ o then [17 + (o - 0x100) / 0x80] else [])
  else if p = pgFIF then (if 0x100 ≤ o then [21 + (o - 0x100) / 0x400] else [])
  else if p = pgPHY then
    let quad := fun (q : Nat) => if q = 0 then 2 else 4 + q
    (if 0x600 ≤ o then [quad ((o - 0x600) / 128)] else if 0x400 ≤ o then [quad ((o - 0x400) / 64)]
     else if 0x100 ≤ o then [quad ((o - 0x100) / 32)] else [])
  else if p = pgHUB then pageDoms pgHUB
  else match pageDoms p with
    | [k] => [k]
    | _ => []

/-- The domain that an agent's register accesses come from: the endpoint's for the host, and the crossbar's for the debug port. -/
def regSrc (a : Nat) : Nat := (agentDom a).getD 0

/-- The segments that an agent's access meets on its way to a register, the units that hold it apart (R14, R19, R420). -/
def regPath (a p o : Nat) : List Nat :=
  (hubPath (regSrc a) ((regDoms p o).headD 0)).filter fun k => !(regDoms p o).contains k

/-! ### Who makes it -/

/-- The ledger tag of an agent's accesses: a core's is the one in force (R323). -/
def Dev.tagOf (d : Dev) (a : Nat) : Nat := if 1 ≤ a ∧ a ≤ 65 then d.coreTag (a - 1) else agentTag a

/-- An agent can make register accesses: the host; the cores, each while its own domain runs; the debug port (R532). -/
def Dev.canAccess (d : Dev) (a : Nat) : Bool :=
  a = agHost || a = agDebug || (decide (1 ≤ a) && decide (a ≤ 65) && d.gate (coreDomain (a - 1)) = .ok)

/-- The pages that the debug port reaches (R501, R508). -/
def Dev.debugMay (d : Dev) (p o : Nat) : Bool :=
  match d.dbgAccess with
  | 0 => (p = pgDBG && decide (0x040 ≤ o) && decide (o < 0x100)) || (p = pgLCS && o = 0x050)
  | 1 => !(p = pgLCS || p = pgFUS || p = pgCDY || p = pgKTL)
  | _ => true

/-- Pages that the host reaches while the ROM waits on the host path (R492). -/
def bootPage (p : Nat) : Bool := p = pgDEV || p = pgKTL || p = pgFLT

/-- The outcome of a register access. -/
inductive RegAcc where
  /-- Served: the word read. -/
  | ok (w : Word) (d : Dev)
  /-- A domain must wake first (R25). -/
  | wait (d : Dev)
  /-- It meets a fence or the halt on its way (R26, R477): a read ends in error, a write is dropped. -/
  | abort (d : Dev)
  /-- The agent makes no such access. -/
  | none

/-- A LOCKk of a fenced common unit answers the fenced error; other registers are served while their unit is fenced
(R385, R470). -/
def fencedPart (p o : Nat) : Bool := decide (pgWMBX ≤ p ∧ p < pgWDM) && decide (0x300 ≤ o ∧ o < 0x340)

/-- An access knocks at the units that hold its register: it waits for one that sleeps. -/
def Dev.knockUnits (d : Dev) (p o : Nat) : Gate × Dev :=
  (regDoms p o).foldl (fun r k =>
    match r.2.knock k with
    | (.asleep, d) => (.asleep, d)
    | (.fenced, d) => (if fencedPart p o ∧ r.1 = .ok then .fenced else r.1, d)
    | (.ok, d) => (r.1, d)) (.ok, d)

/-- An access finds its way: the host's through the switch and the endpoint, every one through the hub to the units that hold the
register (R14, R25, R26). While the device is halted, the host reads page FLT alone (R477). -/
def Dev.regReach (d : Dev) (a p o : Nat) (write : Bool) : Gate × Dev :=
  if a = agHost ∧ d.faults.halted then (if p = pgFLT ∧ !write then .ok else .fenced, d)
  else match d.knockAll ((if a = agHost then [3, 4] else []) ++ regPath a p o) with
    | (.ok, d) => d.knockUnits p o
    | r => r

/-- The events of one register access (R57, R561): its page's, those of its way through the hub, and the host's TLPs. -/
def Dev.countReg (d : Dev) (a p o : Nat) (write : Bool) : Dev :=
  let tag := d.tagOf a
  let dst := (regDoms p o).headD 0
  let d := (d.count 0 1 tag 1).countHub tag (regSrc a) dst (hubPath (regSrc a) dst) write 4
  if a = agHost then d.countTlp 1 tag (if write then 1 else 2) 4 else d

/-! ### The accesses -/

/-- A read of HWT.QUIESCE by an agent (R412): it answers once every request that was outstanding when it arrived is
complete. -/
def Dev.hostOut (d : Dev) : List Nat :=
  (d.ctxs.filter fun e => e.2.hostReq.isSome || d.fetchesHost e.1).map (·.1) ++
  (d.movers.filter fun e => e.2.cur.any fun x => x.hostReq.isSome).map (fun e => 4096 + e.1) ++
  (d.cores.filter fun e => e.2.pend.any fun q => q.host && !q.arrived).map (fun e => 4200 + e.1)

def Dev.quiesceRead (d : Dev) (a : Nat) : RegAcc :=
  match smFind d.quiesce a with
  | some (n, []) => .ok (w32 (min n 0xFFFF)) { d with quiesce := smErase d.quiesce a }
  | some _ => .wait d
  | none =>
    match d.hostOut with
    | [] => .ok 0 d
    | l => .wait { d with quiesce := smPut d.quiesce a (l.length, l) }

/-- A request of the host window ends: reads of QUIESCE no longer wait for it. -/
def Dev.quiesceDone (d : Dev) (key : Nat) : Dev :=
  { d with quiesce := d.quiesce.map fun e => (e.1, (e.2.1, e.2.2.filter (· ≠ key))) }

/-- One register read by an agent (R7, R532–R534). -/
def Dev.regRead (d : Dev) (a p o : Nat) : RegAcc :=
  if !d.canAccess a ∨ (a = agDebug ∧ !d.debugMay p o) then .none
  else match d.regReach a p o false with
    | (.asleep, d) => .wait d
    | (.fenced, d) => .abort d
    | (.ok, d) =>
      if a = agHost ∧ d.boot.hostPath ∧ !bootPage p then .ok 0 d
      else
        let tag := d.tagOf a
        let d := if p = pgHWT ∧ o = 0x040 ∧ (smFind d.quiesce a).isSome then d else d.countReg a p o false
        if (regRow p o).isNone then .ok 0 (d.badWrite p a o)
        else if p = pgHWT ∧ o = 0x040 then d.quiesceRead a
        else
          let r := d.readReg a tag p o
          .ok r.1 r.2

/-- A block register is written by an agent. -/
def Dev.writeBlock (d : Dev) (a tag p o : Nat) (v : Word) : Option Dev :=
  if p = pgKTL then d.writeKTL a tag o v
  else if p = pgPCR then d.writePCR a o v
  else if p = pgLDG then d.writeLDG a o v
  else if p = pgDRL then d.writeDRL a o v
  else if p = pgPWD then d.writePWD a o v
  else if p = pgFLT then d.writeFLT a o v
  else if p = pgSTR then d.writeSTR a o v
  else if p = pgLCS then d.writeLCS a o v
  else if p = pgFUS then d.writeFUS a o v
  else if p = pgTHM then d.writeTHM a o v
  else if p = pgHIF then d.writeHIF a o v
  else if p = pgHUB then d.writeHUB a o v
  else if p = pgBRG then d.writeBRG a o v
  else if p = pgDBG then d.writeDBG a o v
  else if p = pgDEV ∨ p = pgHWT then some (d.plain a p o v)
  else if p < pgWICU then d.writeCE a (p - pgCE) o v
  else if p < pgWMBX then d.writeWICU a tag (p - pgWICU) o v
  else if p < pgWDM then d.writeWMBX a tag (p - pgWMBX) o v
  else if p < pgWCOR then d.writeWDM a (p - pgWDM) o v
  else if p < pgWARB then d.writeWCOR a (p - pgWCOR) o v
  else if p < pgMEM then d.writeWARB a (p - pgWARB) o v
  else if p = pgCDY then d.writeCDY a o v
  else if p = pgDRC then d.writeDRC a o v
  else if p = pgXAE then d.writeXAE a o v
  else if p = pgXCR then d.writeXCR a o v
  else if p = pgPUP then d.writePUP a o v
  else if pgPDN ≤ p ∧ p < pgPHY then d.writePDN a (p - pgPDN) o v
  else if p = pgPHY then d.writePHY a o v
  else if p = pgNVA then d.writeNVA a o v
  else if p = pgWCH then d.writeWCH a o v
  else if p = pgI3C then d.writeI3C a o v
  else if p = pgSPI then d.writeSPI a o v
  else if p = pgUAR then d.writeUAR a o v
  else if p = pgGPI then d.writeGPI a tag o v
  else if p = pgFIF then d.writeFIF a o v
  else if p = pgECP then d.writeECP a o v
  else some (d.plain a p o v)

/-- Offsets whose RW and RWS fields a page's lock holds (R540). -/
def lockedOff (o : Nat) : Bool := decide (0x040 ≤ o) || [0x008, 0x01C, 0x02C, 0x038].contains o

/-- A register write that has reached its page: the access codes, the lock, the register's own rules (R3–R7, R538, R540). -/
def Dev.writeReg (d : Dev) (a tag p o : Nat) (v : Word) : Dev :=
  match regRow p o with
  | none => d.badWrite p a o
  | some r =>
    let go := fun (v : Word) => if o < 0x040 then d.writeHeader a p o v else d.writeBlock a tag p o v
    if r.rw = 0 ∧ r.w1c = 0 ∧ r.wo = 0 then d.badWrite p a o
    else if d.rb p 0x03C 0 ∧ a ≠ agKettle ∧ r.rw ≠ 0 ∧ lockedOff o then
      if r.w1c = 0 ∧ r.wo = 0 then d.badWrite p a o
      else
        let kept := (v &&& ~~~w32 r.rw) ||| (d.regWord a p o &&& w32 r.rw)
        ((go kept).getD d).badWrite p a o
    else match go v with
      | some d => d
      | none => d.badWrite p a o

/-- A register write that an agent has made finds its way (R532–R534). -/
def Dev.regPut (d : Dev) (a p o : Nat) (v : Word) : RegAcc :=
  match d.regReach a p o true with
  | (.asleep, d) => .wait d
  | (.fenced, d) => .abort d
  | (.ok, d) =>
    if a = agHost ∧ d.boot.hostPath ∧ !bootPage p then .ok 0 d
    else .ok 0 ((d.countReg a p o true).writeReg a (d.tagOf a) p o v)

/-- One register write by an agent. -/
def Dev.regWrite (d : Dev) (a p o : Nat) (v : Word) : RegAcc :=
  if !d.canAccess a ∨ (a = agDebug ∧ !d.debugMay p o) then .none else d.regPut a p o v

end Sys2Proof.Machine
end

