-- ==== Sys2Proof/Machine/CoreIo.lean ====
section
/-!
DEFINITION. The core view of R325: the I/O region of NOW, the interrupt view (R372), mailboxes and locks (R375, R382, R495),
the page window (R328), and loads and stores of one byte or a pair.
-/

namespace Sys2Proof.Machine

/-- Registers of a core. -/
def Core.reg (c : Core) (n : Nat) : Byte := smGet c.g n 0
def Core.setG (c : Core) (n : Nat) (v : Byte) : Core := { c with g := smSet c.g n v 0 }
/-- Pair `n`, its low byte in register 2n. -/
def Core.pair (c : Core) (n : Nat) : BitVec 16 := BitVec.ofNat 16 ((c.reg (2 * n)).toNat + 256 * (c.reg (2 * n + 1)).toNat)
def Core.setPair (c : Core) (n : Nat) (v : BitVec 16) : Core :=
  (c.setG (2 * n) (v.truncate 8)).setG (2 * n + 1) ((v >>> 8).truncate 8)

/-- The device with only what the waking of domains has changed: nothing else of an access that must wait takes place. -/
def Dev.woken (d0 d : Dev) : Dev := { d0 with doms := d.doms }

/-- The device with a request held at the arbiter of what it waits for (R25, R412). -/
def Dev.holds (d0 d : Dev) (q : HeldReq) : Dev := { d0 with doms := d.doms, quiesce := d.quiesce, held := d0.held ++ [q] }

/-- The rows of R325: 0 local RAM, 1 the window, 2 NOW, 4 the interrupt view, 5 mailboxes, 6 locks, 8 the page window; 3 and
7 are reserved. -/
def viewRow (a : Nat) : Nat :=
  if a < 0x8000 then 0 else if a < 0xC000 then 1 else if a < 0xC008 then 2 else if a < 0xC100 then 3 else if a < 0xC400 then 4
  else if a < 0xC600 then 5 else if a < 0xC640 then 6 else if a < 0xF000 then 7 else if a < 0x10000 then 8 else 9

/-- A byte of a word, by its number. -/
def byteOf (w : Word) (j : Nat) : Byte := BitVec.ofNat 8 (fld w (8 * j) 8)

/-! ### The interrupt view (R372) -/

/-- A byte of the interrupt view other than CLAIM; none where reserved. -/
def Dev.wicuByte (d : Dev) (k a : Nat) : Option Byte :=
  let w := k / 8
  let c := k % 8
  let b := a % 4
  if a = 0xC101 then some (byteOf (d.runWord k) 0)
  else if a = 0xC102 then some 0
  else if a = 0xC103 then some (d.core k).completeCnt
  else if a = 0xC104 then some (BitVec.ofNat 8 (d.thresh k))
  else if a = 0xC105 then some (byteOf (d.reqWord k) 0)
  else if 0xC108 ≤ a ∧ a < 0xC114 then some (byteOf (d.privPend w c) b)
  else if 0xC114 ≤ a ∧ a < 0xC120 then some (byteOf (d.privMask w c) b)
  else if 0xC184 ≤ a ∧ a < 0xC200 then some (byteOf (d.srcCfg (privSrc w c ((a - 0xC180) / 4))) b)
  else if 0xC200 ≤ a ∧ a < 0xC260 then some (byteOf (d.sharedPend w ((a - 0xC200) % 32 / 4)) b)
  else if 0xC260 ≤ a ∧ a < 0xC2C0 then some (byteOf (d.sharedMask w ((a - 0xC200) % 32 / 4)) b)
  else none

/-- The offset in page WICU of what a byte of the view shows, for BAD_WRITE. -/
def wicuOff (k a : Nat) : Nat := 0x304 + 0x80 * (k % 8) + (a - 0xC184) / 4 * 4

/-- A byte stored to the interrupt view; none where reserved. -/
def Dev.wicuStore (d : Dev) (k a : Nat) (v : Byte) : Option Dev :=
  let w := k / 8
  let c := k % 8
  let bits : Word := v.zeroExtend 32 <<< (8 * (a % 4))
  let priv := fun j => some (d.eachSrc (bankOp j) (privSrc w c) (bankFirst j) bits)
  let shared := fun j =>
    let word := (a - 0xC200) % 32 / 4
    some (d.eachSrc (bankOp j) (fun b => sharedSrc w (32 * word + b)) (if word = 0 then 32 else 0) bits)
  if (d.wicuByte k a).isNone ∧ a ≠ 0xC100 then none
  else if a = 0xC102 then some (d.complete k v.toNat (d.core k).completeCnt.toNat)
  else if a = 0xC103 then some (d.setCore k { d.core k with completeCnt := v })
  else if a = 0xC104 then
    some (if k < 64 then d.setRf (pgWICU + w) (0x100 + 0x40 * c) 0 4 (v.toNat % 16)
      else d.setCore k { d.core k with kThresh := v.toNat % 16 })
  else if 0xC10C ≤ a ∧ a < 0xC110 then priv 0
  else if 0xC110 ≤ a ∧ a < 0xC114 then priv 1
  else if 0xC118 ≤ a ∧ a < 0xC11C then priv 2
  else if 0xC11C ≤ a ∧ a < 0xC120 then priv 3
  else if 0xC184 ≤ a ∧ a < 0xC200 then
    let key := privSrc w c ((a - 0xC180) / 4)
    let old := d.srcCfg key &&& 0x7FFFFFFF
    let new := (old &&& ~~~((0xFF : Word) <<< (8 * (a % 4)))) ||| bits
    some (match d.srcCfgWrite key new with
      | some d => d
      | none => if k < 64 then d.badWrite (pgWICU + w) (coreAgent k) (wicuOff k a) else d)
  else if 0xC220 ≤ a ∧ a < 0xC240 then shared 0
  else if 0xC240 ≤ a ∧ a < 0xC260 then shared 1
  else if 0xC280 ≤ a ∧ a < 0xC2A0 then shared 2
  else if 0xC2A0 ≤ a ∧ a < 0xC2C0 then shared 3
  else some d

/-! ### Mailboxes and locks in the view -/

/-- The lock that lies at an address: the wheel's, or the global ones of the kettle core (R495). -/
def viewLock (k a : Nat) : Nat := if k < 64 then 16 * (k / 8) + (a - 0xC600) / 4 else 128 + (a - 0xC600) / 4

/-- One byte loaded from the I/O region; none where reserved. `lw`: the lock word that byte 0 of this access has read. -/
def Dev.ioByte (d : Dev) (k a : Nat) (lw : Option Word) : Option (Byte × Option Word × Dev) :=
  match viewRow a with
  | 2 =>
    let d := if a = 0xC000 then
        let t := d.sample (d.coreTag k)
        t.2.setCore k { t.2.core k with nowSample := t.1 }
      else d
    some (BitVec.ofNat 8 (fld (d.core k).nowSample (8 * (a - 0xC000)) 8), none, d)
  | 4 =>
    if a = 0xC100 then
      let r := d.claim k
      some (BitVec.ofNat 8 r.1, none, r.2)
    else (d.wicuByte k a).map fun b => (b, none, d)
  | 5 =>
    if k < 64 then
      some (((d.mboxBytes (16 * (k / 8) + (a - 0xC400) / 32)).drop ((a - 0xC400) % 32)).headD 0, none, d)
    else none
  | 6 =>
    let l := viewLock k a
    if a % 4 = 0 then
      let r := d.lockRead (d.coreTag k) (coreAgent k) l
      some (byteOf r.1 0, some r.1, r.2)
    else if a % 4 = 1 then
      match lw with
      | some w => some (byteOf w 1, lw, d)
      | none => some (byteOf (d.lockShown l) 1, none, d)
    else some (0, none, d)
  | _ => none

/-- Bytes loaded from the I/O region, low address first. -/
def Dev.ioBytes (d : Dev) (k a : Nat) (lw : Option Word) : Nat → Option (List Byte × Dev)
  | 0 => some ([], d)
  | n + 1 =>
    match d.ioByte k a lw with
    | none => none
    | some (b, lw, d) => (d.ioBytes k (a + 1) lw n).map fun r => (b :: r.1, r.2)

/-- A byte stored to a mailbox of the view: REPLY, or CMD. -/
def Dev.mboxStore (d : Dev) (k a : Nat) (v : Byte) : Dev :=
  let m := 16 * (k / 8) + (a - 0xC400) / 32
  let o := (a - 0xC400) % 32
  if 8 ≤ o ∧ o < 12 then d.setMbox m { d.mbox m with reply := withFld (d.mbox m).reply (8 * (o - 8)) 8 v.toNat }
  else if o = 12 then
    if v = 1 then d.mboxRelease m else if v = 2 then d.mboxReply m
    else d.badWrite (pgWMBX + k / 8) (coreAgent k) (0x100 + 32 * (m % 16) + 12)
  else d

/-- Bytes stored to a lock of the view: 0 releases, any other value is reserved (R383). -/
def Dev.lockStore (d : Dev) (k a : Nat) (bs : List Byte) : Dev :=
  if a % 4 ≠ 0 then d
  else if bs.any (· ≠ 0) then
    if k < 64 then d.badWrite (pgWMBX + k / 8) (coreAgent k) (0x300 + (a - 0xC600)) else d.badWrite pgKTL (coreAgent k) (0x300 + (a - 0xC600))
  else d.lockWrite (coreAgent k) (viewLock k a)

/-- Bytes stored to the I/O region one after another; none where an address is reserved. -/
def Dev.ioStores (d : Dev) (k a : Nat) : List Byte → Option Dev
  | [] => some d
  | v :: vs =>
    let r := match viewRow a with
      | 4 => d.wicuStore k a v
      | 5 => if k < 64 then some (d.mboxStore k a v) else none
      | 6 => some (d.lockStore k a [v])
      | _ => none
    r.bind fun d => d.ioStores k (a + 1) vs

/-- What an access of the I/O region finds at its wheel's common unit; the kettle core's view is in domain 0. -/
def Dev.ioGate (d : Dev) (k a : Nat) : Gate × Dev :=
  if k < 64 ∧ 0xC100 ≤ a then
    match d.knock (commonDom (k / 8)) with
    | (.ok, d) => (.ok, d.countWheelOp (k / 8) (d.coreTag k))
    | r => r
  else (.ok, d)

/-- A load from the I/O region. -/
def Dev.ioLoad (d : Dev) (k a n : Nat) : CAcc :=
  match d.ioGate k a with
  | (.fenced, d) => .error beFenced d
  | (.asleep, d) => .wait d
  | (.ok, d1) =>
    match d1.ioBytes k a none n with
    | some (bs, d) => .ok bs d
    | none => .refused beIo d

/-- A store to the I/O region; a pair at COMPLETE carries the source and the count, which COMPLETE_CNT takes (R368, R372). -/
def Dev.ioStore (d : Dev) (k a : Nat) (bs : List Byte) : CAcc :=
  match d.ioGate k a with
  | (.fenced, d) => .error beFenced d
  | (.asleep, d) => .wait d
  | (.ok, d1) =>
    let r :=
      if a = 0xC102 ∧ bs.length = 2 then (d1.wicuStore k 0xC103 ((bs.drop 1).headD 0)).bind fun d => d.wicuStore k 0xC102 (bs.headD 0)
      else if viewRow a = 6 ∧ a % 4 = 0 then some (d1.lockStore k a bs)
      else d1.ioStores k a bs
    match r with
    | some d => .ok [] d
    | none => .refused beIo d

/-! ### The page window (R328) -/

/-- The page that PAGE_SEL names. -/
def Core.pageSel (c : Core) : Nat := (c.csrByte 0x2D).toNat

/-- A load from the page window: byte 0 reads the register, the others come from the read latch. -/
def Dev.pageLoad (d : Dev) (k a n : Nat) : CAcc :=
  let p := (d.core k).pageSel
  let o := (a - 0xF000) / 4 * 4
  let b := a % 4
  let take := fun (bs : List Byte) => (bs.drop b).take n
  if b + n > 4 then .refused beUnmapped d
  else
    match (d.core k).rlatch with
    | some (p', o', bs) =>
      if b ≠ 0 ∧ p' = p ∧ o' = o then .ok (take bs) d
      else match d.regRead (coreAgent k) p o with
        | .ok w d =>
          let bs := leBytes 4 w.toNat
          .ok (take bs) (d.setCore k { d.core k with rlatch := some (p, o, bs) })
        | .wait d => .wait d
        | .abort d => .error beFenced d
        | .none => .wait d
    | none => match d.regRead (coreAgent k) p o with
      | .ok w d =>
        let bs := leBytes 4 w.toNat
        .ok (take bs) (d.setCore k { d.core k with rlatch := some (p, o, bs) })
      | .wait d => .wait d
      | .abort d => .error beFenced d
      | .none => .wait d

/-- Bytes placed in a latch of four. -/
def placed (l : List (Option Byte)) (b : Nat) (bs : List Byte) : List (Option Byte) :=
  l.take b ++ bs.map some ++ l.drop (b + bs.length)

/-! ### Posted stores (R344) -/

/-- An access of core `k` with a number waits behind earlier ones: they take effect in program order (R344). -/
def Dev.behind (d : Dev) (k n : Nat) : Bool :=
  (d.core k).pend.any (fun q => q.unmade && decide (q.order < n)) || d.held.any (HeldReq.storeOf k n)

/-- Every access that core `k` makes now waits behind earlier ones. -/
def Dev.queues (d : Dev) (k : Nat) : Bool := d.behind k (d.core k).order

/-- A posted store reaches its target. -/
def Dev.postTry (d : Dev) (k : Nat) : Posted → CAcc
  | .window a bs => d.windowWrites k a bs
  | .io a bs => d.ioStore k a bs
  | .page p o v =>
    match d.regPut (coreAgent k) p o v with
    | .ok _ d => .ok [] d
    | .wait d => .wait d
    | .abort d => .error beFenced d
    | .none => .wait d

/-- A posted store at a core-view address waits at the arbiter of what it waits for; the store itself is complete (R344). -/
def Dev.postHeld (d : Dev) (k a : Nat) (x : Posted) : Dev :=
  let c := d.core k
  let d := d.setCore k { c with order := c.order + 1 }
  { d with held := d.held ++ [.store k c.order a x true] }

/-- A store leaves its core: what refuses it at the core, refuses it now; else it is made at once, or waits. -/
def Dev.post (d : Dev) (k a : Nat) (x : Posted) : CAcc :=
  let refused := match x with
    | .window b _ => d.windowErr k true b
    | _ => none
  if d.queues k then
    match refused with
    | some e => .refused e (d.noteWindow k e)
    | none => .ok [] (d.postHeld k a x)
  else match d.postTry k x with
    | .wait d' => .ok [] ((d.woken d').postHeld k a x)
    | r => r

/-- A store to the page window: the bytes join the write latch, and byte 3 makes the write. -/
def Dev.pageStore (d : Dev) (k a : Nat) (bs : List Byte) : CAcc :=
  let p := (d.core k).pageSel
  let o := (a - 0xF000) / 4 * 4
  let b := a % 4
  let fresh : List (Option Byte) := [none, none, none, none]
  let old := match (d.core k).wlatch with
    | some (p', o', l) => if p' = p ∧ o' = o then l else fresh
    | none => fresh
  let l := placed old b bs
  if b + bs.length > 4 then .refused beUnmapped d
  else
    let d := d.setCore k { d.core k with wlatch := some (p, o, l) }
    if b + bs.length = 4 then d.post k a (.page p o (w32 (leNat (l.map fun x => x.getD 0)))) else .ok [] d

/-! ### Loads and stores of the view (R325–R327, R344) -/

/-- Device address of a window address. -/
def Core.windowAddr (c : Core) (a : Nat) : Nat := c.wbase.toNat + (a - 0x8000)

/-- A load of `n` bytes at a core-view address. -/
def Dev.viewLoad (d : Dev) (k a n : Nat) : CAcc :=
  if n = 2 ∧ viewRow a ≠ viewRow (a + 1) then .refused beUnmapped d
  else match viewRow a with
    | 0 =>
      let r := d.localRead k a n
      if r.2.1 then .error bePoison r.2.2 else .ok r.1 r.2.2
    | 1 => if d.queues k then .wait d else d.windowReads k ((d.core k).windowAddr a) n
    | 3 => .refused beIo d
    | 7 => .refused beIo d
    | 8 => if d.queues k then .wait d else d.pageLoad k a n
    | _ => if d.queues k then .wait d else d.ioLoad k a n

/-- A store of bytes at a core-view address. -/
def Dev.viewStore (d : Dev) (k a : Nat) (bs : List Byte) : CAcc :=
  if bs.length = 2 ∧ viewRow a ≠ viewRow (a + 1) then .refused beUnmapped d
  else match viewRow a with
    | 0 =>
      let r := d.localWrite k a bs
      if r.1 then .refused bePoison r.2 else .ok [] r.2
    | 1 => d.post k a (.window ((d.core k).windowAddr a) bs)
    | 2 => .refused beIo d
    | 3 => .refused beIo d
    | 7 => .refused beIo d
    | 8 => d.pageStore k a bs
    | _ => d.post k a (.io a bs)

end Sys2Proof.Machine
end

