-- ==== Sys2Proof/Machine/Flags.lean ====
section
/-!
DEFINITION. The flag computations of the Speton-8 core: each operation answers its result and the flags it changes
(R332).
-/

namespace Sys2Proof.Machine

/-- The flags an instruction writes; none where it leaves one unchanged. -/
structure FlagOut where
  c : Option Bool := none
  z : Option Bool := none
  n : Option Bool := none
  v : Option Bool := none
  deriving DecidableEq, Repr

/-- Addition of bytes with a carry in. -/
def addFlags (a b : Byte) (cin : Bool) : Byte × FlagOut :=
  let r := a + b + BitVec.ofNat 8 cin.toNat
  (r, { c := some (decide (a.toNat + b.toNat + cin.toNat ≥ 256)), z := some (r == 0), n := some r.msb,
        v := some (a.msb == b.msb && r.msb != a.msb) })

/-- Subtraction of bytes with a borrow in; `chain` keeps Z only while it was set (SUBC, CMPC, SUBCI). -/
def subFlags (a b : Byte) (cin chain z : Bool) : Byte × FlagOut :=
  let r := a - b - BitVec.ofNat 8 cin.toNat
  (r, { c := some (decide (a.toNat < b.toNat + cin.toNat)), z := some (if chain then z && r == 0 else r == 0),
        n := some r.msb, v := some (a.msb != b.msb && r.msb != a.msb) })

/-- The flags of a logic operation. -/
def logicFlags (r : Byte) : Byte × FlagOut := (r, { z := some (r == 0), n := some r.msb, v := some false })

/-- ADDP: a signed 7-bit immediate added to a pair. -/
def addpFlags (a : BitVec 16) (imm : BitVec 7) : BitVec 16 × FlagOut :=
  let b := imm.signExtend 16
  let r := a + b
  (r, { c := some (if imm.msb then decide (a.toNat < (-b).toNat) else decide (a.toNat + b.toNat ≥ 65536))
        z := some (r == 0), n := some r.msb, v := some (a.msb == b.msb && r.msb != a.msb) })

/-- The shift and rotate operations (R330, major 0x09). -/
inductive ShiftOp where
  | shl | shr | asr | rol | ror | rcl | rcr
  deriving DecidableEq, Repr

/-- One shift or rotate of `k` places, with C before it. -/
def shiftBy (op : ShiftOp) (a : Byte) (c : Bool) (k : Nat) : Byte × Bool :=
  match op with
  | .shl => (a <<< k, a.getLsbD (8 - k))
  | .shr => (a >>> k, a.getLsbD (k - 1))
  | .asr => (a.sshiftRight k, a.getLsbD (k - 1))
  | .rol => (a.rotateLeft k, a.getLsbD (8 - k))
  | .ror => (a.rotateRight k, a.getLsbD (k - 1))
  | .rcl =>
    let w : BitVec 9 := (BitVec.ofBool c ++ a).rotateLeft k
    (w.truncate 8, w.msb)
  | .rcr =>
    let w : BitVec 9 := (BitVec.ofBool c ++ a).rotateRight k
    (w.truncate 8, w.msb)

/-- A shift or rotate with its flags. -/
def shiftFlags (op : ShiftOp) (a : Byte) (c : Bool) (k : Nat) : Byte × FlagOut :=
  let r := shiftBy op a c k
  (r.1, { c := some r.2, z := some (r.1 == 0), n := some r.1.msb, v := some false })

/-- MUL: the 16-bit product and its flags. -/
def mulFlags (a b : Byte) (signed : Bool) : BitVec 16 × FlagOut :=
  let r : BitVec 16 :=
    if signed then a.signExtend 16 * b.signExtend 16 else a.zeroExtend 16 * b.zeroExtend 16
  let lo : Byte := r.truncate 8
  let ext : BitVec 16 := if signed then lo.signExtend 16 else lo.zeroExtend 16
  (r, { c := some (r != ext), z := some (r == 0), n := some r.msb, v := some false })

/-- Whether a branch condition holds (R331); condition 15 is reserved. -/
def condHolds (cc : Nat) (c z n v : Bool) : Bool :=
  match cc with
  | 0 => z
  | 1 => !z
  | 2 => c
  | 3 => !c
  | 4 => n
  | 5 => !n
  | 6 => v
  | 7 => !v
  | 8 => !c && !z
  | 9 => c || z
  | 10 => n == v
  | 11 => n != v
  | 12 => !z && n == v
  | 13 => z || n != v
  | _ => true

end Sys2Proof.Machine
end

