-- ==== Sys2Proof/Machine/Operands.lean ====
section
/-!
DEFINITION. The operand forms of the Speton-8 core: the fields of an instruction word, and the words that each instruction
command spells (R330).
-/

namespace Sys2Proof.Machine

/-! ### Encodings (R330) -/

/-- A field of an instruction word. -/
def bf (w : BitVec 16) (lo n : Nat) : Nat := w.toNat / 2 ^ lo % 2 ^ n

/-- The major opcode. -/
def major (w : BitVec 16) : Nat := bf w 11 5

/-- An extension word follows. -/
def hasExt (w : BitVec 16) : Bool :=
  match major w with
  | 0x06 => true
  | 0x08 => true
  | 0x0F => true
  | 0x12 => bf w 9 1 = 0
  | 0x14 => bf w 10 1 = 0
  | _ => false

/-- Length in bytes. -/
def lengthOf (w : BitVec 16) : Nat := if hasExt w then 4 else 2

/-- A word, with its extension word where it has one, that raises ILLEGAL. -/
def illegalWord (w e : BitVec 16) : Bool :=
  match major w with
  | 0x00 => true
  | 0x06 => decide (8 < bf w 2 4) || bf w 0 2 != 0 || bf e 8 8 != 0
  | 0x08 => bf w 0 7 != 0
  | 0x09 => bf w 3 3 = 7 || bf w 0 3 = 0
  | 0x0A => bf w 0 1 != 0
  | 0x0F => (bf w 4 1 = 1 && bf w 6 1 = 1) || bf w 0 4 != 0
  | 0x11 => bf w 8 3 = 7
  | 0x12 => (bf w 9 1 = 0 && bf w 5 4 != 0) || bf w 0 5 != 0
  | 0x13 => bf w 0 10 != 0
  | 0x14 =>
    if bf w 10 1 = 1 then bf w 0 10 != 0 else bf w 8 2 = 3 || (bf w 7 1 = 1 && bf w 0 3 != 0)
  | 0x15 => bf w 0 10 != 0
  | 0x16 => bf w 0 11 != 0
  | 0x17 => bf w 8 2 != 0 || (bf w 10 1 = 0 && bf w 0 8 != 0)
  | 0x18 => bf w 0 11 != 0
  | m => decide (0x1B ≤ m)

/-- A word from its major opcode and the rest. -/
def op16 (m rest : Nat) : BitVec 16 := BitVec.ofNat 16 (m * 2048 + rest)

/-- Register and register, with the minor bit. -/
def encRR (m b rd rs : Nat) : List (BitVec 16) := [op16 m (rd * 64 + rs * 2 + b)]
/-- Register and 8-bit immediate, by operation. -/
def encImm (op rd : Nat) (imm : Byte) : List (BitVec 16) := [op16 0x06 (rd * 64 + op * 4), imm.zeroExtend 16]
def encShift (op rd count : Nat) : List (BitVec 16) := [op16 0x09 (rd * 64 + op * 8 + count)]
def encMem (m r base off : Nat) : List (BitVec 16) := [op16 m (r * 128 + base * 32 + off)]
def encAbs (store : Nat) (r : Nat) (pair : Bool) (addr : BitVec 16) : List (BitVec 16) :=
  [op16 0x0F (r * 64 + store * 32 + 16 * pair.toNat), addr]
def encBcc (cond : Nat) (off : BitVec 8) : List (BitVec 16) := [op16 (0x10 + cond / 8) (cond % 8 * 256 + off.toNat)]
def encTarget (call : Nat) : CoreTarget → List (BitVec 16)
  | .direct a => [op16 0x12 (call * 1024), a]
  | .pair p => [op16 0x12 (call * 1024 + 512 + p.val * 32)]
def encLoop (level : Nat) (count : LoopCount) (lend : BitVec 16) : List (BitVec 16) :=
  match count with
  | .imm n => [op16 0x14 (level * 256 + n.val), lend]
  | .pair p => [op16 0x14 (level * 256 + 128 + p.val * 8), lend]

/-! ### The words of an instruction command -/

/-- The core that executes an instruction command, and its words. None for a command that is no instruction;
CORE_PACER_ARM and CORE_PACER_CANCEL are uses of CSRW with words of it. -/
def coreWords : Instr → Option (Nat × List (BitVec 16))
  | .coreAdd k rd rs => some (k, encRR 0x01 0 rd rs)
  | .coreAddc k rd rs => some (k, encRR 0x01 1 rd rs)
  | .coreSub k rd rs => some (k, encRR 0x02 0 rd rs)
  | .coreSubc k rd rs => some (k, encRR 0x02 1 rd rs)
  | .coreAnd k rd rs => some (k, encRR 0x03 0 rd rs)
  | .coreOr k rd rs => some (k, encRR 0x03 1 rd rs)
  | .coreXor k rd rs => some (k, encRR 0x04 0 rd rs)
  | .coreMov k rd rs => some (k, encRR 0x04 1 rd rs)
  | .coreCmp k rd rs => some (k, encRR 0x05 0 rd rs)
  | .coreCmpc k rd rs => some (k, encRR 0x05 1 rd rs)
  | .coreAddi k rd imm => some (k, encImm 0 rd imm)
  | .coreAddci k rd imm => some (k, encImm 1 rd imm)
  | .coreSubi k rd imm => some (k, encImm 2 rd imm)
  | .coreSubci k rd imm => some (k, encImm 3 rd imm)
  | .coreAndi k rd imm => some (k, encImm 4 rd imm)
  | .coreOri k rd imm => some (k, encImm 5 rd imm)
  | .coreXori k rd imm => some (k, encImm 6 rd imm)
  | .coreCmpi k rd imm => some (k, encImm 7 rd imm)
  | .coreMovi k rd imm => some (k, encImm 8 rd imm)
  | .coreAddp k pn imm => some (k, [op16 0x07 (pn * 128 + imm.toNat)])
  | .coreMovip k pn imm => some (k, [op16 0x08 (pn * 128), imm])
  | .coreShl k rd count => some (k, encShift 0 rd count)
  | .coreShr k rd count => some (k, encShift 1 rd count)
  | .coreAsr k rd count => some (k, encShift 2 rd count)
  | .coreRol k rd count => some (k, encShift 3 rd count)
  | .coreRor k rd count => some (k, encShift 4 rd count)
  | .coreRcl k rd count => some (k, encShift 5 rd count)
  | .coreRcr k rd count => some (k, encShift 6 rd count)
  | .coreMul k pn rs signed => some (k, [op16 0x0A (pn * 128 + rs * 4 + 2 * signed.toNat)])
  | .coreLdb k rd base off => some (k, encMem 0x0B rd base off)
  | .coreStb k rs base off => some (k, encMem 0x0C rs base off)
  | .coreLdp k pn base off => some (k, encMem 0x0D pn base off)
  | .coreStp k pn base off => some (k, encMem 0x0E pn base off)
  | .coreLda k r pair addr => some (k, encAbs 0 r pair addr)
  | .coreSta k r pair addr => some (k, encAbs 1 r pair addr)
  | .coreBcc k cond off => some (k, encBcc cond off)
  | .coreJmp k t => some (k, encTarget 0 t)
  | .coreCall k t => some (k, encTarget 1 t)
  | .coreRet k => some (k, [op16 0x13 0])
  | .coreReti k => some (k, [op16 0x13 0x400])
  | .coreLoop k level count lend => some (k, encLoop level count lend)
  | .coreLpop k => some (k, [op16 0x14 0x400])
  | .coreEi k => some (k, [op16 0x15 0x400])
  | .coreDi k => some (k, [op16 0x15 0])
  | .coreWait k => some (k, [op16 0x16 0])
  | .coreBreak k => some (k, [op16 0x17 0])
  | .coreTrap k code => some (k, [op16 0x17 (0x400 + code.toNat)])
  | .coreSync k => some (k, [op16 0x18 0])
  | .coreCsrr k rd csr => some (k, [op16 0x19 (rd * 64 + csr)])
  | .coreCsrw k rs csr => some (k, [op16 0x1A (rs * 64 + csr)])
  | _ => none

end Sys2Proof.Machine
end

