-- ==== Sys2Proof/Machine/CoreExec.lean ====
section
/-!
DEFINITION. How a core executes: fetch, loads and their delay (R334–R336), the loop-back (R338),
the branch target buffer (R341, R342), traps and interrupts (R346–R353), and the boundary between instructions.
-/

namespace Sys2Proof.Machine

/-! ### What an instruction does -/

/-- The outcome of an instruction: it goes on to the next address, or skips to one, or transfers control, with the registers
written;
it issues a load; it traps (cause, code, failing address, return address); it waits in WAIT; it halts the core at a
BREAK; or it cannot execute yet. -/
inductive Act where
  | seq (d : Dev) (wrote : List Nat)
  | skip (d : Dev) (next : BitVec 16)
  | jump (d : Dev) (target : BitVec 16) (wrote : List Nat)
  | load (d : Dev) (q : PendLoad)
  | trap (d : Dev) (cause : Nat) (code addr : Option Nat) (ret : BitVec 16)
  | stall (d : Dev)
  | halt (d : Dev)
  | unmet (d : Dev)

/-- BUSERR of the instruction itself. -/
def Act.busErr (d : Dev) (detail addr : Nat) (pc : BitVec 16) : Act := .trap d 2 (some detail) (some addr) pc
/-- ILLEGAL. -/
def Act.illegal (d : Dev) (pc : BitVec 16) : Act := .trap d 1 none none pc

/-! ### Traps and interrupts (R346–R353) -/

/-- An error that a target reports for a posted store is kept until it is raised. -/
def Dev.noteStoreErr (d : Dev) (k detail addr : Nat) : Dev :=
  d.setCore k { d.core k with storeErrs := (d.core k).storeErrs ++ [(detail, addr)] }

/-- A pair pushed below the stack pointer, already lowered, at `a`. A refused store answers false (R353). -/
def Dev.frameStore (d : Dev) (k a : Nat) (bs : List Byte) : Option (Bool × Dev) :=
  match d.viewStore k a bs with
  | .ok _ d => some (true, d)
  | .error e d => some (true, d.noteStoreErr k e a)
  | .refused _ d => some (false, d)
  | .wait _ => none
  | .host _ => none

/-- The core stops in FAULT_STOP with its fault in page WCOR (R353). The kettle core has no WCOR page. -/
def Dev.frameFail (d : Dev) (k : Nat) : Dev :=
  let c := d.core k
  let d := d.setCore k { c with state := .faultStop, pend := [] }
  if k < 64 then
    d.raiseFault { kind := 22, page := corPage k, source := k % 8, info := c.pc.zeroExtend 32, unit := some (coreDomain k) }
  else d

/-- Trap and interrupt entry (R348): the frame, then I is cleared and the PC loaded. None while the frame cannot be
stored yet. -/
def Dev.entry (d : Dev) (k : Nat) (ret vec : BitVec 16) : Option Dev :=
  let c := d.core k
  let sp := c.pair 15 - 4
  let d := d.setCore k (c.setPair 15 sp)
  match d.frameStore k sp.toNat [c.flags, 0] with
  | none => none
  | some (false, d) => some (d.frameFail k)
  | some (true, d) =>
    match d.frameStore k (sp + 2).toNat [ret.truncate 8, (ret >>> 8).truncate 8] with
    | none => none
    | some (false, d) => some (d.frameFail k)
    | some (true, d) => some (d.setCore k { d.core k with i := false, pc := vec, noInt := false })

/-- A trap (R347): the trap CSRs, the frame, the vector 0x0004. -/
def Dev.trapEntry (d : Dev) (k cause : Nat) (code addr : Option Nat) (tpc ret : BitVec 16) : Option Dev :=
  let c := (d.core k).setCsr 2 (BitVec.ofNat 8 cause)
  let c := match code with
    | some v => c.setCsr 3 (BitVec.ofNat 8 v)
    | none => c
  let c := c.setCsrPair 4 tpc.toNat
  let c := match addr with
    | some a => c.setCsrPair 6 a
    | none => c
  ((d.setCore k c).coreCount k 0x18 8 1).entry k ret 4

/-! ### Loads in progress (R334–R336) -/

/-- A load's data reach its destinations, but not those that the instruction after it wrote. -/
def Core.land (c : Core) (q : PendLoad) : Core :=
  (q.dests.zip (q.data.getD [])).foldl (fun c p => if q.over_.contains p.1 then c else c.setG p.1 p.2) c

/-- Every load in a list lands, failing ones aside. -/
def Core.landAll (c : Core) (qs : List PendLoad) : Core := qs.foldl (fun c q => if q.fail.isSome then c else c.land q) c

/-- The loads whose data have come land, oldest first, once the instruction after each has executed. -/
def retireList : List PendLoad → Core → Core
  | [], c => { c with pend := [] }
  | q :: qs, c =>
    if q.nextDone && q.arrived && q.fail.isNone then retireList qs (c.land q) else { c with pend := q :: qs }

def Core.retire (c : Core) : Core := retireList c.pend c

/-- A boundary: loads land, and a failed one raises BUSERR, after the loads behind it have come (R336). None while a frame
cannot be stored yet. -/
def Dev.boundary (d : Dev) (k : Nat) : Option Dev :=
  let c := (d.core k).retire
  let d := d.setCore k c
  match c.pend with
  | [] => some d
  | q :: qs =>
    match q.fail with
    | some e =>
      if q.nextDone && q.arrived && qs.all (·.arrived) then
        (d.setCore k { c.landAll qs with pend := qs.filter fun q => q.fail.isSome }).trapEntry k 2 (some e) (some q.addr) q.pc c.pc
      else some d
    | none => some d

/-- A load issued: its data are there at once in local RAM, or are on their way. -/
def Dev.issue (d : Dev) (k a : Nat) (dests : List Nat) (pc : BitVec 16) : Act :=
  let tgt := if viewRow a = 8 then (d.core k).pageSel else (d.core k).windowAddr a
  let c := d.core k
  let q : PendLoad := { dests := dests, addr := a, pc := pc, target := tgt }
  match d.viewLoad k a dests.length with
  | .ok bs d => .load d { q with data := some bs, arrived := decide (viewRow a = 0) }
  | .wait d' => .load ((d.woken d').setCore k { c with order := c.order + 1 }) { q with order := c.order }
  | .host d => .load d { q with host := true }
  | .refused e d => if viewRow a = 0 then .busErr d e a pc else .load d { q with fail := some e, arrived := true }
  | .error e d => if viewRow a = 0 then .busErr d e a pc else .load d { q with fail := some e }

/-- A store of an instruction (R344, R346). -/
def Dev.storeAct (d : Dev) (k a : Nat) (bs : List Byte) (pc : BitVec 16) : Act :=
  match d.viewStore k a bs with
  | .ok _ d => .seq d []
  | .wait d' => .unmet (d.woken d')
  | .host d => .unmet d
  | .refused e d => .busErr d e a pc
  | .error e d => .seq (d.noteStoreErr k e a) []

/-- The stack read of a return, `n` bytes at p15. -/
def Dev.stackRead (d : Dev) (k n : Nat) (pc : BitVec 16) : Except Act (List Byte × Dev) :=
  let c := d.core k
  let sp := (c.pair 15).toNat
  match c.pend.find? (·.ofReturn) with
  | some q =>
    let d0 := d
    let d := d.setCore k { c with pend := c.pend.filter fun q => !q.ofReturn }
    match q.arrived, q.fail with
    | false, _ => .error (.unmet d0)
    | true, some e => .error (.busErr d e q.addr pc)
    | true, none => .ok (q.data.getD [], d)
  | none =>
    let park := fun (d : Dev) =>
      .error (.unmet (d.setCore k { d.core k with
        pend := (d.core k).pend ++ [{ dests := List.replicate n 0, addr := sp, pc := pc, target := c.windowAddr sp, host := true, ofReturn := true }] }))
    match d.viewLoad k sp 2 with
    | .ok bs d1 =>
      if n = 2 then .ok (bs, d1)
      else match d1.viewLoad k ((c.pair 15) + 2).toNat 2 with
        | .ok cs d => .ok (bs ++ cs, d)
        | .wait d' => .error (.unmet (d.woken d'))
        | .host d => park d
        | .refused e d => .error (.busErr d e ((c.pair 15) + 2).toNat pc)
        | .error e d => .error (.busErr d e ((c.pair 15) + 2).toNat pc)
    | .wait d' => .error (.unmet (d.woken d'))
    | .host d => park d
    | .refused e d => .error (.busErr d e sp pc)
    | .error e d => .error (.busErr d e sp pc)

/-! ### Fetch -/

/-- A fetched word; none where it comes from host memory, whose contents the command names. -/
inductive Fetched where
  | word (w : Option (BitVec 16)) (d : Dev)
  | wait (d : Dev)
  | fail (detail : Nat) (d : Dev)

/-- The 32-byte row of local RAM at an address is in the fetch buffer: it is read once, as one access, when the core goes to it, and
what an instruction fetched from it reads is the row as it stands (R345, R401, log 49). -/
def Dev.fetchRow (d : Dev) (k a : Nat) : Dev :=
  let c := d.core k
  if c.fetchRow = some (a / 32) then d
  else
    let d := (d.checkWords (coreLram k + a / 32 * 32) 32).2
    (d.setCore k { c with fetchRow := some (a / 32) }).countTarget (d.coreTag k) false (coreLram k + a) 2

/-- The word at an address (R325). -/
def Dev.fetchWord (d : Dev) (k : Nat) (a : BitVec 16) : Fetched :=
  let done := fun (bs : List Byte) d => Fetched.word (some (BitVec.ofNat 16 (leNat bs))) d
  if a.toNat % 2 = 1 ∨ 0xC000 ≤ a.toNat then .fail beFetch d
  else if a.toNat < 0x8000 then
    let d := d.fetchRow k a.toNat
    if d.poisoned (coreLram k + a.toNat) then .fail bePoison d else done (d.peek (coreLram k + a.toNat) 2) d
  else match d.windowReads k ((d.core k).windowAddr a.toNat) 2 with
    | .ok bs d => done bs d
    | .wait d => .wait d
    | .host d => .word none d
    | .refused e d => .fail e d
    | .error e d => .fail e d

/-! ### Loop-back (R338) -/

/-- The levels whose LEND is the address of an instruction that has completed, from `l` down. -/
def Core.loopBack (c : Core) (pc next : BitVec 16) : Nat → Core × BitVec 16
  | 0 => (c, next)
  | l + 1 =>
    if !c.loopOn l then c.loopBack pc next l
    else if c.csrPair (lEnd l) ≠ pc.toNat then (c, next)
    else
      let n := c.csrPair (lCount l)
      if 1 < n then (c.setCsrPair (lCount l) (n - 1), BitVec.ofNat 16 (c.csrPair (lStart l)))
      else if n = 1 then ((c.setCsrPair (lCount l) 0).setLoop l false).loopBack pc next l
      else (c, next)

/-! ### Branch target buffer (R341, R342) -/

/-- Prediction is on: BTB_OFF is 0. -/
def Dev.btbOn (d : Dev) (k : Nat) : Bool := !(decide (k < 64) && d.rb (corPage k) (corOff k 0) 30)

/-- The entry that a new branch takes: an invalid one first, lowest number, else the one allocated longest ago. -/
def Core.btbVictim (c : Core) : Nat :=
  match (List.range 16).find? fun e => !c.btb.any fun x => x.1 = e with
  | some e => e
  | none => ((c.btb.foldl (fun m x => match m with
      | some y => if x.2.2.2 < y.2.2.2 then some x else some y
      | none => some x) (none : Option (Nat × Nat × Nat × Nat))).map (·.1)).getD 0

/-- Words fetched on a wrong path are discarded: SQUASHED counts them, a number the spec leaves open; none are fetched
outside local RAM (R343). -/
def Dev.squash (d : Dev) (k path : Nat) : Dev :=
  if path < 0x8000 then
    let r := d.free
    r.2.coreCount k 0x14 0 (fld r.1 0 8)
  else d

/-- A Bcc at `pc` is resolved. -/
def Dev.bccResolve (d : Dev) (k : Nat) (pc next target : BitVec 16) (taken : Bool) : Dev :=
  let c := d.core k
  if !d.btbOn k then (if taken then d.squash k next.toNat else d)
  else match c.btb.find? fun x => x.2.1 = pc.toNat with
    | some x =>
      let stored := x.2.2.1
      if !taken then (d.setCore k { c with btb := smErase c.btb x.1 }).squash k stored
      else if stored = target.toNat then d
      else (d.setCore k { c with btb := smPut c.btb x.1 (x.2.1, target.toNat, x.2.2.2) }).squash k stored
    | none =>
      if taken then
        let s := d.nextSeq
        (s.2.setCore k { c with btb := smPut c.btb c.btbVictim (pc.toNat, target.toNat, s.1) }).squash k next.toNat
      else d

/-! ### Debug (R509) -/

/-- An enabled breakpoint names the PC. -/
def Dev.atBreak (d : Dev) (k : Nat) : Bool :=
  [0x114, 0x118].any fun o =>
    let w := d.reg pgDBG (o + 16 * k)
    bitAt w 31 && fld w 0 16 = (d.core k).pc.toNat

/-- Halt-on-break is armed. -/
def Dev.haltOnBreak (d : Dev) (k : Nat) : Bool := d.rb pgDBG (0x110 + 16 * k) 28

/-- The debug port stops a core at a boundary: HALT_REQ while it runs or waits, or a breakpoint at its PC. -/
def Dev.debugStops (d : Dev) (k : Nat) : Dev :=
  let c := d.core k
  let req := d.rb pgDBG (0x110 + 16 * k) 31
  if c.state = .running ∧ ((req ∧ !c.stepping) ∨ (d.atBreak k ∧ !c.skipBp)) then
    d.setCore k { c with state := .debugHalt, haltedIn := .running, stepping := false }
  else if c.state = .waiting ∧ req then d.setCore k { c with state := .debugHalt, haltedIn := .waiting, stepping := false }
  else d

/-- An instruction has been executed in a step: the core halts again. -/
def Dev.stepDone (d : Dev) (k : Nat) : Dev :=
  let c := d.core k
  let c := { c with skipBp := false }
  if c.stepping ∧ c.state = .running then
    d.setCore k { c with stepping := false, state := .debugHalt, haltedIn := .running }
  else d.setCore k c

/-! ### Execution -/

/-- An interrupt is to be taken at the present boundary (R349). -/
def Dev.intDue (d : Dev) (k : Nat) : Bool :=
  let c := d.core k
  c.i && !c.noInt && d.line k

/-- The core may execute its next instruction: it runs, its unit is awake, no interrupt is due, and no load but the one
immediately before is outstanding (R335). -/
def Dev.mayExec (d : Dev) (k : Nat) : Bool :=
  let c := d.core k
  decide (c.state = .running) && decide (d.gate (coreDomain k) = .ok) && !d.intDue k && !c.pend.any (·.nextDone)

/-- An instruction is counted (R57, R561). -/
def Dev.countInstr (d : Dev) (k : Nat) : Dev := d.count (if k = 64 then 0 else if k < 32 then 5 else 6) 0 (d.coreTag k) 1

/-- The loads before an instruction that has executed and written some registers. -/
def Core.passed (c : Core) (wrote : List Nat) : Core :=
  { c with pend := c.pend.map fun q => if q.nextDone then q else { q with nextDone := true, over_ := wrote } }

/-- An instruction ends, with the PC of the next; an odd one raises BUSERR FETCH (R333). -/
def Dev.finish (d0 d : Dev) (k : Nat) (wrote : List Nat) (next : BitVec 16) : Dev :=
  let d := d.setCore k { (d.core k).passed wrote with pc := next, noInt := false }
  match (d.countInstr k).boundary k with
  | none => d0
  | some d =>
    let c := d.core k
    if next.toNat % 2 = 1 ∧ c.pc = next ∧ c.state = .running then
      if c.pend ≠ [] then d0
      else match d.trapEntry k 2 (some beFetch) (some next.toNat) next next with
        | some d => d.stepDone k
        | none => d0
    else d.stepDone k

/-- A trap of an instruction: the load before it completes first, or its failure is raised in its place (R336). -/
def Dev.finishTrap (d0 d : Dev) (k cause : Nat) (code addr : Option Nat) (pc ret : BitVec 16) : Dev :=
  let c := d.core k
  if c.pend.any (!·.arrived) then d0
  else match c.pend.find? (·.fail.isSome) with
    | some q =>
      match (d0.setCore k { (d0.core k).landAll c.pend with pend := [] }).trapEntry k 2 q.fail (some q.addr) q.pc pc with
      | some d => d.stepDone k
      | none => d0
    | none =>
      match ((d.setCore k { c.landAll c.pend with pend := [] }).countInstr k).trapEntry k cause code addr pc ret with
      | some d => d.stepDone k
      | none => d0

/-- What an instruction at `pc` does is carried out. -/
def Dev.perform (d0 : Dev) (k : Nat) (pc next : BitVec 16) : Act → Dev
  | .seq d wrote =>
    let r := (d.core k).loopBack pc next 3
    d0.finish (d.setCore k r.1) k wrote r.2
  | .skip d next =>
    let r := (d.core k).loopBack pc next 3
    d0.finish (d.setCore k r.1) k [] r.2
  | .jump d target wrote => d0.finish d k wrote target
  | .load d q =>
    let r := (d.core k).loopBack pc next 3
    let c := r.1.passed []
    let d := d.setCore k { c with pc := r.2, pend := c.pend ++ [q], noInt := true }
    match (d.countInstr k).boundary k with
    | some d => d.stepDone k
    | none => d0
  | .trap d cause code addr ret => d0.finishTrap d k cause code addr pc ret
  | .stall d => d.setCore k { d.core k with state := .waiting, pc := next, skipBp := false }
  | .halt d =>
    let r := (d.core k).loopBack pc next 3
    let d := d0.finish (d.setCore k r.1) k [] r.2
    let c := d.core k
    if c.state = .running then d.setCore k { c with state := .debugHalt, haltedIn := .running, stepping := false } else d
  | .unmet d => d

/-- The core's next instruction is executed: it is the one at its PC, whose words are `enc` and whose effect is `act`
of the PC, the address after it and the device (log 8). An illegal word traps whatever it was taken for. -/
def Dev.coreStep (d0 : Dev) (k : Nat) (enc : List (BitVec 16)) (act : BitVec 16 → BitVec 16 → Dev → Act) : Dev :=
  let pc := (d0.core k).pc
  let w0 := enc.headD 0
  if !d0.mayExec k then d0
  else match d0.fetchWord k pc with
    | .wait d => d0.woken d
    | .fail e d => d0.perform k pc pc (.busErr d e pc.toNat pc)
    | .word w d =>
      let w := w.getD w0
      if !hasExt w then
        if illegalWord w 0 then d0.perform k pc (pc + 2) (.illegal d pc)
        else if enc = [w] then d0.perform k pc (pc + 2) (act pc (pc + 2) d)
        else d0
      else match d.fetchWord k (pc + 2) with
        | .wait d => d0.woken d
        | .fail e d => d0.perform k pc pc (.busErr d e (pc + 2).toNat pc)
        | .word e d =>
          let e := e.getD ((enc.drop 1).headD 0)
          if illegalWord w e then d0.perform k pc (pc + 4) (.illegal d pc)
          else if enc = [w, e] then d0.perform k pc (pc + 4) (act pc (pc + 4) d)
          else d0

/-! ### What comes to a core from outside its program -/

/-- The state after a boundary of a running core: loads that have come land, and a failed one raises BUSERR. -/
def Dev.atBoundary (d : Dev) (k : Nat) : Dev :=
  if (d.core k).state = .running then (d.boundary k).getD d else d

/-- INTERRUPT_ENTRY (R348, R349). -/
def Dev.interruptEntry (d : Dev) (k : Nat) : Dev :=
  let c := d.core k
  if c.state = .running ∧ d.gate (coreDomain k) = .ok ∧ d.intDue k ∧ c.pend = [] then (d.entry k c.pc 8).getD d else d

/-- CORE_WAIT_WAKE (R352): the WAIT before the PC completes. -/
def Dev.waitWake (d : Dev) (k : Nat) : Dev :=
  let c := d.core k
  if c.state = .waiting ∧ d.gate (coreDomain k) = .ok ∧ d.line k then
    d.perform k (c.pc - 2) c.pc (.seq (d.setCore k { c with state := .running }) [])
  else d

/-- POSTED_STORE_ERROR (R346). -/
def Dev.postedStoreError (d : Dev) (k : Nat) : Dev :=
  let c := d.core k
  match c.storeErrs with
  | [] => d
  | (e, a) :: rest =>
    if c.state = .running ∧ d.gate (coreDomain k) = .ok ∧ c.pend.all (·.arrived) then
      ((d.setCore k { c.landAll c.pend with storeErrs := rest, pend := c.pend.filter fun q => q.fail.isSome }).trapEntry k 2
        (some (0x80 + e)) (some a) c.pc c.pc).getD d
    else d

/-- The oldest load in progress is replaced. -/
def replaceFirst (f : PendLoad → Bool) (v : PendLoad) : List PendLoad → List PendLoad
  | [] => []
  | q :: qs => if f q then v :: qs else q :: replaceFirst f v qs

/-- A load that is still on its way. -/
def PendLoad.out (q : PendLoad) : Bool := !q.arrived

/-- The oldest load on its way becomes `v`. -/
def Dev.setPend (d : Dev) (k : Nat) (v : PendLoad) : Dev :=
  d.setCore k { d.core k with pend := replaceFirst (·.out) v (d.core k).pend }

/-- The access of a load that had to wait is tried again, behind what the core did before it (R344). -/
def Dev.retryLoad (d : Dev) (k : Nat) (q : PendLoad) : CAcc :=
  let c := d.core k
  let n := q.dests.length
  if d.behind k q.order then .wait d
  else match viewRow q.addr with
    | 1 => d.windowReads k q.target n
    | 8 =>
      let back := fun (d : Dev) => d.setCore k ((d.core k).setCsr 0x2D (c.csrByte 0x2D))
      match (d.setCore k (c.setCsr 0x2D (BitVec.ofNat 8 q.target))).pageLoad k q.addr n with
      | .ok bs d => .ok bs (back d)
      | .wait d => .wait (back d)
      | .host d => .host (back d)
      | .refused e d => .refused e (back d)
      | .error e d => .error e (back d)
    | _ => d.ioLoad k q.addr n

/-- How the host's answer ends a load (R517). -/
def PendLoad.answered (q : PendLoad) (r : HostReply) : PendLoad :=
  match r.status with
  | .ok => { q with data := some r.data, arrived := true }
  | .poisoned => { q with fail := some bePoison, arrived := true }
  | _ => { q with fail := some beHost, arrived := true }

/-- CORE_LOAD_DATA_RETURN (R335): the oldest load on its way is answered. -/
def Dev.loadReturn (d : Dev) (k : Nat) (host : Option HostReply) : Dev :=
  match (d.core k).pend.find? (·.out) with
  | none => d
  | some q =>
    if q.host then
      match host with
      | some r =>
        if r.status = .ok ∧ r.data.length ≠ q.dests.length then d else (d.setPend k (q.answered r)).atBoundary k
      | none => d
    else if host.isSome then d
    else if q.data.isSome ∨ q.fail.isSome then (d.setPend k { q with arrived := true }).atBoundary k
    else match d.retryLoad k q with
      | .ok bs d => (d.setPend k { q with data := some bs, arrived := true }).atBoundary k
      | .wait d' => d.woken d'
      | .host d => d.setPend k { q with host := true }
      | .refused e d => (d.setPend k { q with fail := some e, arrived := true }).atBoundary k
      | .error e d => (d.setPend k { q with fail := some e, arrived := true }).atBoundary k

end Sys2Proof.Machine
end

