-- ==== Sys2Proof/Machine/MemCmd.lean ====
section
/-!
DEFINITION. Requests that come to the device's memory and functions from outside: the host's and downstream devices'
through the switch (R391, R392, R411, R518, R519), configuration requests (R511), and the debug access port (R508).
-/

namespace Sys2Proof.Machine

/-- Bytes as words, low byte first. -/
def bytesWords (bs : List Byte) : Nat → List Word
  | 0 => []
  | n + 1 => if bs.isEmpty then [] else w32 (leNat (bs.take 4)) :: bytesWords (bs.drop 4) n

/-- A request ends, with the bytes it returns. -/
def Dev.answer (d : Dev) (c : Cpl) (bs : List Byte) : Dev := { d with cpl := c, resp := bytesWords bs bs.length }

/-! ### Domains on the way -/

/-- Requests knock at several domains; whether one of them sleeps. -/
def Dev.knockEach (d : Dev) : List Nat → Bool × Dev
  | [] => (false, d)
  | k :: ks =>
    let r := d.knock k
    let q := r.2.knockEach ks
    (q.1 || r.1 = .asleep, q.2)

/-! ### The internal endpoint's memory (R392) -/

/-- Who sends a request: the host, or a downstream device. -/
inductive Sender where
  | host | peer
  deriving DecidableEq, Repr

def Sender.tag : Sender → Nat
  | .host => agentTag agHost
  | .peer => tagOwn

/-- How one block of a read is served. -/
inductive Part where
  | ok (bs : List Byte) (poison : Bool) (d : Dev)
  | wait (d : Dev)
  | refuse (c : Cpl) (d : Dev)

/-- A read within one 32-byte block. -/
def Dev.blockRead (d : Dev) (w : Sender) (src a n : Nat) : Part :=
  let mem := fun (d : Dev) =>
    if d.fencedOn (pathTo src a) then Part.refuse .abort d
    else
      let r := d.memRead a n
      Part.ok r.1 r.2.1 (r.2.2.countAccess w.tag src false a n)
  match plainRange a with
  | .sram _ => mem d
  | .xram _ _ => mem d
  | .dram => if src = 3 ∧ d.dramHas a then mem d else .refuse .unsupported d
  | .hwt => if w = .host then mem d else .refuse .unsupported d
  | .poll =>
    if w = .host then
      let r := d.pollRegion w.tag (a - pollBase) n
      .ok r.1 false r.2
    else .refuse .unsupported d
  | .caddy =>
    if w = .peer then .refuse .unsupported d
    else if d.caddy.wiping then .wait d
    else if !d.caddyGrants agHost then .refuse .abort (d.bump pgCDY 0x05C 1 0x060 1)
    else if a < caddyBase + 4096 then .ok (List.replicate n 0) false d
    else mem d
  | _ => .refuse .unsupported d

/-- A read of blocks one after another; the first that is not served decides. -/
def Dev.blockReads (d : Dev) (w : Sender) (src : Nat) : List (Nat × List Byte) → Part
  | [] => .ok [] false d
  | (a, bs) :: ps =>
    match d.blockRead w src a bs.length with
    | .ok bs p d =>
      match d.blockReads w src ps with
      | .ok cs q d => .ok (bs ++ cs) (p || q) d
      | r => r
    | r => r

/-- One byte of the host window table's entry is written by its writer: commits of R411. -/
def Dev.hwtWrite (d : Dev) (ag o : Nat) (bs : List Byte) : Dev :=
  let key := ag * 65536 + o / 8
  if bs.length = 8 ∧ o % 8 = 0 then d.poke (hwtBase + o) bs
  else if bs.length = 4 ∧ o % 8 = 0 then { d with hwtHeld := smPut d.hwtHeld key (w32 (leNat bs)) }
  else if bs.length = 4 ∧ o % 8 = 4 then
    let d := match smFind d.hwtHeld key with
      | some lo => d.poke (hwtBase + o - 4) (leBytes 4 lo.toNat)
      | none => d
    { d.poke (hwtBase + o) bs with hwtHeld := smErase d.hwtHeld key }
  else d.badWrite pgHWT ag (o % 4096)

/-- A write within one 32-byte block; whether it landed. -/
def Dev.blockWrite (d : Dev) (w : Sender) (src a : Nat) (bs : List Byte) (ep : Bool) : Bool × Dev :=
  let mem := fun (d : Dev) =>
    if d.fencedOn (pathTo src a) then (false, d)
    else
      let d := d.countAccess w.tag src true a bs.length
      if ep then (true, d.memPoisonWrite a bs) else (true, (d.memWrite a bs).2)
  match plainRange a with
  | .sram _ => mem d
  | .xram _ _ => mem d
  | .dram => if src = 3 ∧ d.dramHas a then mem d else (false, d)
  | .poll => (false, if w = .host then d.badWrite pgHIF agHost (a % 4096) else d)
  | .caddy =>
    if w = .peer then (false, d)
    else if !d.caddyGrants agHost then (false, d.bump pgCDY 0x05C 1 0x060 1)
    else mem d
  | _ => (false, d)

/-- Writes of blocks one after another, with the addresses of those that landed. -/
def Dev.blockWrites (d : Dev) (w : Sender) (src : Nat) (ep : Bool) : List (Nat × List Byte) → List (Nat × Nat) × Dev
  | [] => ([], d)
  | (a, bs) :: ps =>
    let r := d.blockWrite w src a bs ep
    let q := r.2.blockWrites w src ep ps
    (if r.1 then (a, bs.length) :: q.1 else q.1, q.2)

/-- A 32-byte-block list of `n` bytes from an address. -/
def blocksOf (a n : Nat) : List (Nat × List Byte) := beatParts a (List.replicate n 0) (n / 32 + 2)

/-! ### The host (R392) -/

/-- The domains that a request to BAR4 meets: the switch, the endpoint, and those of its blocks. -/
def bar4Doms (a n : Nat) : List Nat := 3 :: 4 :: (blocksOf a n).flatMap fun p => pathTo 4 p.1

/-- A host read of BAR4. -/
def Dev.hostRead (d0 : Dev) (o n : Nat) : Dev :=
  let d0 := d0.linkWake 6
  if d0.faults.halted then d0.answer .abort []
  else
    let g := d0.knockEach (bar4Doms o n)
    if g.1 then d0.holds g.2 (.host o (.read n))
    else if g.2.fencedOn [3, 4] then g.2.answer .abort []
    else
      let d := g.2.countTlp 1 (agentTag agHost) 2 n
      match d.blockReads .host 4 (blocksOf o n) with
      | .ok bs p d => d.answer (if p then .poisoned else .success) bs
      | .wait d => d0.holds d (.host o (.read n))
      | .refuse c d => d.answer c []

/-- A host write of BAR4; the table is written under R411. -/
def Dev.hostWrite (d0 : Dev) (o : Nat) (bs : List Byte) (ep : Bool) : Dev :=
  let d0 := d0.linkWake 6
  let inStaging := decide (stagingBase ≤ o ∧ o + bs.length ≤ stagingBase + stagingSize)
  if d0.faults.halted ∨ (d0.boot.hostPath ∧ !inStaging) then d0.answer .success []
  else
    let g := d0.knockEach (bar4Doms o bs.length)
    if g.1 ∨ (d0.caddy.wiping ∧ plainRange o = .caddy) then d0.holds g.2 (.host o (.write bs ep))
    else if g.2.fencedOn [3, 4] then g.2.answer .success []
    else
      let d := g.2.countTlp 1 (agentTag agHost) 1 bs.length
      if plainRange o = .hwt then (if ep then d else d.hwtWrite agHost (o - hwtBase) bs).answer .success []
      else ((d.blockWrites .host 4 ep (beatParts o bs (bs.length / 32 + 2))).2).answer .success []

/-- HWT_ENTRY_WRITE: the host's through BAR4, or the kettle core's (R411); no other agent makes one. -/
def Dev.hwtEntryWrite (d0 : Dev) (a o : Nat) (bs : List Byte) : Dev :=
  if a = agHost then d0.hostWrite (hwtBase + o) bs false
  else if a = agKettle then
    match d0.knock 3 with
    | (.ok, d) => d.hwtWrite a o bs
    | (.asleep, d) => d0.holds d (.table a o bs)
    | (.fenced, _) => d0
  else d0

/-- A host read of the poll page through BAR2 (R246, R518). -/
def Dev.bar2Read (d0 : Dev) (o n : Nat) : Dev :=
  let d0 := d0.linkWake 6
  let sizeOk := n = 4 ∨ ((n = 8 ∨ n = 16) ∧ o + n ≤ 0x20)
  if o % (max n 1) ≠ 0 ∨ ¬ sizeOk then d0.answer (if d0.faults.halted then .abort else .unsupported) []
  else if d0.faults.halted ∧ 0x20 ≤ o then d0.answer .abort []
  else
    let g := if d0.faults.halted then (false, d0) else d0.knockEach [3, 4]
    if g.1 then d0.holds g.2 (.poll o n)
    else if !d0.faults.halted ∧ g.2.fencedOn [3, 4] then g.2.answer .abort []
    else
      let d := g.2.countTlp 1 (agentTag agHost) 2 n
      let r := d.pollRegion (agentTag agHost) o n
      r.2.answer .success r.1

/-! ### The switch (R181, R519) -/

/-- A function answers memory requests: Memory Space Enable (log 26). -/
def Dev.memSpace (d : Dev) (fn : Nat) : Bool := bitAt (d.cfgHeld fn cdCommand) 1

/-- The BARs of the coprocessor function on the bus. -/
def Dev.bar0 (d : Dev) : Nat := (d.cfgHeld cfEp 4).toNat / 2 ^ 19 * 2 ^ 19
def Dev.bar2 (d : Dev) : Nat := (d.cfgHeld cfEp 6).toNat / 2 ^ 16 * 2 ^ 16

/-- A bus address lies in the memory windows of downstream port `p` (log 26). -/
def Dev.inWindow (d : Dev) (p a : Nat) : Bool :=
  let fn := cfDn + p
  let w := d.cfgHeld fn 8
  let v := d.cfgHeld fn 9
  let pb := fld v 4 12 * 2 ^ 20 + (d.cfgHeld fn 10).toNat * 2 ^ 32
  let pl := fld v 20 12 * 2 ^ 20 + (d.cfgHeld fn 11).toNat * 2 ^ 32
  d.memSpace fn && ((decide (fld w 4 12 * 2 ^ 20 ≤ a) && decide (a < (fld w 20 12 + 1) * 2 ^ 20)) ||
    (decide (pb ≤ a) && decide (a < pl + 2 ^ 20)))

/-- Where the switch sends a memory request. -/
inductive Route where
  | bar0 (o : Nat)
  | bar2 (o : Nat)
  | bar4 (o : Nat)
  | aperture (o : Nat)
  | port (p : Nat)
  | other
  deriving DecidableEq, Repr

def Dev.busRoute (d : Dev) (a : Nat) : Route :=
  let ep := d.memSpace cfEp
  if d.apertureOn ∧ d.aperture ≤ a ∧ a < d.aperture + 2 ^ 34 then .aperture (a - d.aperture)
  else if ep ∧ d.bar0 ≤ a ∧ a < d.bar0 + 0x80000 then .bar0 (a - d.bar0)
  else if ep ∧ d.bar2 ≤ a ∧ a < d.bar2 + 0x10000 then .bar2 (a - d.bar2)
  else if ep ∧ d.bar4 ≤ a ∧ a < d.bar4 + 0x4000000 then .bar4 (a - d.bar4)
  else match (List.range 6).find? fun p => d.inWindow p a with
    | some p => .port p
    | none => .other

/-- A request is passed to a downstream port (R473): aborted at a fence, refused where the link is down, else forwarded. -/
def Dev.toPort (d0 : Dev) (p tag n : Nat) : Dev :=
  let g := d0.knockEach [3, 8 + p]
  if d0.faults.halted then d0.answer .abort []
  else if g.1 then d0.holds g.2 (.port p tag n)
  else if g.2.fencedOn [3, 8 + p] then g.2.answer .abort []
  else if !d0.linkActive p then g.2.answer .unsupported []
  else ((g.2.linkWake p).countTlp 2 tag 1 n).answer .forwarded []

/-- The bytes of a request's own data. -/
def reqBytes : MemReq → Nat
  | .read _ => 0
  | .write bs _ => bs.length

/-- HOST_REQUEST_THROUGH_SWITCH: what the address names decides (R518, R519). -/
def Dev.hostRequest (d : Dev) (a : Nat) (r : MemReq) : Dev :=
  match d.busRoute a with
  | .bar4 o =>
    match r with
    | .read n => d.hostRead o n
    | .write bs ep => d.hostWrite o bs ep
  | .bar2 o =>
    match r with
    | .read n => d.bar2Read o n
    | .write _ _ => if d.faults.halted then d else (d.badWrite pgHIF agHost (o % 4096)).answer .success []
  | .bar0 o =>
    match r with
    | .read n =>
      if d.faults.halted ∧ (n ≠ 4 ∨ o % 4 ≠ 0 ∨ 0x60000 ≤ o) then d.answer .abort []
      else if n ≠ 4 ∨ o % 4 ≠ 0 then (d.countTlp 1 (agentTag agHost) 2 0).answer .unsupported []
      else if 0x60000 ≤ o then ((d.badWrite pgDEV agHost (o % 4096)).countTlp 1 (agentTag agHost) 2 4).answer .success [0, 0, 0, 0]
      else match d.regRead agHost (o / 4096) (o % 4096) with
        | .ok w d => d.answer .success (leBytes 4 w.toNat)
        | .wait d' => d.holds d' (.bus a r)
        | .abort d => d.answer .abort []
        | .none => d
    | .write bs ep =>
      if d.faults.halted then d.answer .success []
      else if bs.length ≠ 4 ∨ o % 4 ≠ 0 ∨ ep then (d.countTlp 1 (agentTag agHost) 1 bs.length).answer .success []
      else if 0x60000 ≤ o then ((d.badWrite pgDEV agHost (o % 4096)).countTlp 1 (agentTag agHost) 1 4).answer .success []
      else match d.regWrite agHost (o / 4096) (o % 4096) (w32 (leNat bs)) with
        | .ok _ d => d.answer .success []
        | .wait d' => d.holds d' (.bus a r)
        | .abort d => d.answer .success []
        | .none => d
  | .aperture _ => d.answer .unsupported []
  | .port p => (d.linkWake 6).toPort p (agentTag agHost) (reqBytes r)
  | .other => d.answer (if d.faults.halted then .abort else .unsupported) []

/-- PEER_DENIED counts a request that PEER_CTRL refuses. -/
def Dev.peerDenied (d : Dev) : Dev := (d.bump pgPSW 0x044 1 0x048 0).answer .unsupported []

/-- PSW.PEER_CTRL lets port `p` reach BAR4 and the aperture. -/
def Dev.peerMay (d : Dev) (p : Nat) : Bool := d.rb pgPSW 0x040 p

/-- The ACS controls of port `p` (R520): 0 Source Validation, 1 Translation Blocking, 2 P2P Request Redirect, 3 P2P Completion
Redirect, 4 Upstream Forwarding. -/
def Dev.acs (d : Dev) (p j : Nat) : Bool := bitAt (d.cfgHeld (cfDn + p) 0x55) (16 + j)

/-- A requester's bus number is one of those below port `p`: from its secondary to its subordinate bus (log 45). -/
def Dev.busBelow (d : Dev) (p : Nat) (bus : Byte) : Bool :=
  let w := d.cfgHeld (cfDn + p) 6
  decide (fld w 8 8 ≤ bus.toNat) && decide (bus.toNat ≤ fld w 16 8)

/-- A write that landed makes the occurrences of the watch ranges it touches (R194, R200). -/
def Dev.watchWrite (d : Dev) (p : Nat) (landed : List (Nat × Nat)) : Dev :=
  (List.range 64).foldl (fun d i =>
    let cfg := d.reg pgWCH (0x104 + 8 * i)
    let hit := landed.filter fun x => x.1 < d.watchBase i + d.watchSize i && d.watchBase i < x.1 + x.2
    if !bitAt cfg 31 || !bitAt cfg (16 + p) || hit.isEmpty then d
    else if bitAt cfg 30 then
      (List.range 32).foldl (fun d q =>
        let v := d.lq q
        let inCq := hit.any fun x => x.1 < d.cqBase q + 16 * d.cqSize q && d.cqBase q < x.1 + x.2
        if v.state ≠ .free ∧ d.rf pgNVA (lqOff q 0x20) 0 6 = i ∧ inCq then d.setLq q { v with due := true } else d) d
    else d.raiseEvent i) d

/-- A request of downstream port `p` to memory of the device, at `a` through domain `src`. -/
def Dev.peerAccess (d0 : Dev) (p src a : Nat) (r : MemReq) : Dev :=
  let n := match r with
    | .read n => n
    | .write bs _ => bs.length
  let way := if src = 4 then [8 + p, 3, 4] else [8 + p, 3]
  let g := d0.knockEach (way ++ (blocksOf a n).flatMap fun x => pathTo src x.1)
  if g.1 then d0.holds g.2 (.peer p src a r)
  else if g.2.fencedOn way then g.2.answer (if (reqBytes r) = 0 then .abort else .success) []
  else
    let d := (g.2.countTlp 2 tagOwn 1 (reqBytes r))
    match r with
    | .read n =>
      match d.blockReads .peer src (blocksOf a n) with
      | .ok bs po d => (d.countTlp 2 tagOwn 1 n).answer (if po then .poisoned else .success) bs
      | .wait d => d0.holds d (.peer p src a r)
      | .refuse c d => d.answer c []
    | .write bs ep =>
      let q := d.blockWrites .peer src ep (beatParts a bs (bs.length / 32 + 2))
      let bad := q.1.isEmpty && !bs.isEmpty && (match plainRange a with
        | .sram _ => false
        | .xram _ _ => false
        | .dram => !d.dramHas a
        | _ => true)
      (q.2.watchWrite p q.1).answer (if bad then .unsupported else .success) []

/-- A request that goes upstream. -/
def Dev.toUpstream (d : Dev) (r : MemReq) : Dev := ((d.linkWake 6).countTlp 2 tagOwn 1 (reqBytes r)).answer .forwarded []

/-- A memory request from downstream port `p`, whose link is up (R473, R519, R520). -/
def Dev.peerRequest (d : Dev) (p : Nat) (id : PeerId) (a : Nat) (r : MemReq) : Dev :=
  if !d.linkActive p then d
  else
    let d := d.linkWake p
    if d.faults.halted then d.answer (if (reqBytes r) = 0 then .abort else .success) []
    else if d.acs p 1 ∧ id.addrType ≠ 0 then d.answer .unsupported []
    else if d.acs p 0 ∧ !d.busBelow p id.bus then d.answer (if (reqBytes r) = 0 then .abort else .success) []
    else match d.busRoute a with
      | .bar4 o => if d.peerMay p then d.peerAccess p 4 o r else d.peerDenied
      | .aperture o =>
        if 2 ≤ p then d.toUpstream r
        else if d.peerMay p then d.peerAccess p 3 (dramBase + o) r else d.peerDenied
      | .bar0 _ => d.answer .unsupported []
      | .bar2 _ => d.answer .unsupported []
      | .port q =>
        if q = p then (if d.acs p 4 then d.toUpstream r else d.answer .unsupported [])
        else if d.acs p 2 then d.toUpstream r
        else d.toPort q tagOwn (reqBytes r)
      | .other => d.toUpstream r
/-- DOWNSTREAM_MESSAGE: passed upstream unaltered, with the link in L0 (R521). -/
def Dev.peerMessage (d : Dev) (p : Nat) : Dev :=
  if !d.linkActive p ∨ d.faults.halted then d
  else (((d.linkWake p).linkWake 6).countTlp 2 tagOwn 1 0).answer .forwarded []

/-- DOWNSTREAM_COMPLETION: routed by ID through the switch, to the port of its requester or upstream (R519); P2P Completion
Redirect sends those to another port upstream (R520). -/
def Dev.peerCompletion (d : Dev) (p : Nat) (dest : Option Nat) (n : Nat) : Dev :=
  if !d.linkActive p ∨ d.faults.halted then d
  else
    let out := match dest with
      | some q => if q = p ∨ d.acs p 3 then 6 else q
      | none => 6
    (((d.linkWake p).linkWake out).countTlp 2 tagOwn 1 n).answer .forwarded []

/-! ### Configuration requests (R511) -/

/-- The function number that a configuration request names. -/
def cfgNum : CfgFn → Option Nat
  | .upstream => some cfUp
  | .coprocessor => some cfEp
  | .downstream p => some (cfDn + p.val)
  | .absent => none

/-- A mask of four byte enables. -/
def byteMask (be : BitVec 4) : Nat :=
  (if bitAt be 0 then 0xFF else 0) + (if bitAt be 1 then 0xFF00 else 0) + (if bitAt be 2 then 0xFF0000 else 0) +
    (if bitAt be 3 then 0xFF000000 else 0)

/-- A configuration write: RW bits take the value, W1C bits are cleared. -/
def Dev.cfgWrite (d : Dev) (fn dw : Nat) (v : Word) (be : BitVec 4) : Dev :=
  match cfgRow fn dw with
  | none => d
  | some r =>
    let m := w32 (byteMask be)
    let old := d.cfgHeld fn dw
    let rw := w32 r.rw &&& m
    let new := ((old &&& ~~~rw) ||| (v &&& rw)) &&& ~~~(v &&& w32 r.w1c &&& m)
    let set := fun (w : Word) => bitAt v w.toNat && bitAt m w.toNat
    if fn = cfEp ∧ dw = cdDevCtl then
      let d := d.setCfg fn dw (withFld new 15 1 0)
      if set 15 then d.flr else d
    else if dw = cdLinkCtl ∧ cfDn ≤ fn then
      let d := d.setCfg fn dw (withFld new 5 1 0)
      if bitAt new 4 ∧ !bitAt old 4 then d.linkDrop (fn - cfDn) else d
    else if dw = 15 ∧ cfDn ≤ fn then
      let d := d.setCfg fn dw new
      if bitAt new 22 ∧ !bitAt old 22 then d.linkDrop (fn - cfDn) else d
    else d.setCfg fn dw new

/-- CONFIG_REQUEST: served, or retried before CFG_READY (R490, R511). -/
def Dev.cfgRequest (d : Dev) (fn : CfgFn) (dw : Nat) (wr : Option (Word × BitVec 4)) : Dev :=
  match cfgNum fn with
  | none => d.answer .unsupported []
  | some f =>
    let d := d.linkWake 6
    if f = cfEp ∧ !d.rb pgKTL 0x044 31 then d.answer .retry []
    else match wr with
      | none => d.answer .success (leBytes 4 (d.cfgWord f dw).toNat)
      | some (v, be) => (d.cfgWrite f dw v be).answer .success []

/-! ### The debug access port (R508) -/

abbrev dapOk : Nat := 0
abbrev dapBusy : Nat := 1
abbrev dapRefused : Nat := 2
abbrev dapError : Nat := 3

/-- DAP_ACCESS: one access starts. -/
def Dev.dapStart (d : Dev) (op addr : Nat) (data : Word) : Dev :=
  if d.dap.status = dapBusy then d
  else { d with dap := { op := op, addr := addr, data := if op = 1 then data else d.dap.data, status := dapBusy } }

def Dev.dapEnd (d : Dev) (status : Nat) (data : Word) : Dev := { d with dap := { d.dap with status := status, data := data } }

/-- A debug access to memory; only full access reaches it, and reaches all of it (R508). The key slots read 0 (R407), and the host
window table takes no write of the debug port (R411). -/
def Dev.dapMem (d0 : Dev) (a : Nat) (write : Bool) : Dev :=
  let v := d0.dap.data
  let fail := fun (d : Dev) => d.dapEnd dapError v
  let mem := fun (_ : Unit) =>
    match d0.reach 0 a with
    | (.asleep, d) => d0.woken d
    | (.fenced, d) => fail d
    | (.ok, d) =>
      let d := d.countAccess (agentTag agDebug) 0 write a 4
      if write then
        let r := d.memWrite a (leBytes 4 v.toNat)
        if r.1 then fail r.2 else r.2.dapEnd dapOk v
      else
        let r := d.memRead a 4
        if r.2.1 then fail r.2.2 else r.2.2.dapEnd dapOk (w32 (leNat r.1))
  match rangeOf a with
  | .unmapped => fail d0
  | .hwt =>
    match d0.knock 3 with
    | (.asleep, d) => d0.woken d
    | (.fenced, d) => fail d
    | (.ok, d) =>
      if write then fail d else d.dapEnd dapOk (w32 (leNat (d.peek a 4)))
  | .poll =>
    if write then (d0.badWrite pgHIF agDebug (a % 4096)).dapEnd dapOk v
    else
      let r := d0.pollRegion (agentTag agDebug) (a - pollBase) 4
      r.2.dapEnd dapOk (w32 (leNat r.1))
  | .caddy => if d0.caddy.wiping then d0 else if a < caddyBase + 4096 ∧ !write then d0.dapEnd dapOk 0 else mem ()
  | .dram => if d0.dramHas a then mem () else fail d0
  | .hostwin =>
    match d0.hostXlate write a with
    | .error .asleep => fail d0
    | .error _ => fail (d0.countRefused (agentTag agDebug))
    | .ok hpa =>
      match d0.knock 3 with
      | (.asleep, d) => d0.woken d
      | (.fenced, d) => fail d
      | (.ok, d) =>
        if write then ((d.countAccess (agentTag agDebug) 0 true a 4).hostPoke hpa (leBytes 4 v.toNat)).dapEnd dapOk v else d0
  | .portwin p =>
    match d0.knockEach [3, 8 + p] with
    | (true, d) => d0.woken d
    | (false, d) =>
      if d.fencedOn [3, 8 + p] ∨ !d.linkActive p then fail d
      else
        let d := (d.linkWake p).countTlp 2 (agentTag agDebug) 1 4
        if write then d.dapEnd dapOk v
        else
          let f := d.free
          f.2.dapEnd dapOk (f.1.truncate 32)
  | _ => mem ()

/-- DAP_ACCESS_COMPLETE: the access is checked against the debug access level and made. -/
def Dev.dapComplete (d : Dev) : Dev :=
  let x := d.dap
  if x.status ≠ dapBusy then d
  else if 2 ≤ x.op ∨ x.addr % 4 ≠ 0 then d.dapEnd dapRefused x.data
  else
    let p := (x.addr - pagesBase) / 4096
    let o := x.addr % 4096
    if pagesBase ≤ x.addr ∧ x.addr < pagesBase + numPages * 4096 then
      if !d.debugMay p o then d.dapEnd dapRefused x.data
      else
        let r := if x.op = 1 then d.regWrite agDebug p o x.data else d.regRead agDebug p o
        match r with
        | .ok w e => e.dapEnd dapOk (if x.op = 1 then x.data else w)
        | .wait e => d.woken e
        | .abort e => e.dapEnd dapError x.data
        | .none => d.dapEnd dapRefused x.data
    else if d.dbgAccess ≠ 2 then d.dapEnd dapRefused x.data
    else d.dapMem x.addr (x.op = 1)

/-- The host answers the debug port's read of host memory, whose lookup and TLPs are counted (R57, R410). -/
def Dev.dapHost (d0 : Dev) (r : HostReply) : Dev :=
  let d := d0.countAccess (agentTag agDebug) 0 false d0.dap.addr 4
  if d.dap.status = dapBusy ∧ d.dap.op = 0 ∧ d.dbgAccess = 2 ∧ rangeOf d.dap.addr = .hostwin ∧ r.data.length = 4 then
    d.dapEnd (if r.status = .ok then dapOk else dapError) (if r.status = .ok then w32 (leNat r.data) else d.dap.data)
  else d0

end Sys2Proof.Machine
end

