-- ==== Sys2Proof/Machine/Held.lean ====
section
/-!
DEFINITION. Requests as commands, and the requests that an arbiter holds: what waits for a sleeping unit, for the end of a
wipe or for HWT.QUIESCE is held, and is served, in the order it came, at the end of the command that ends its wait (R25,
R409, R412).
-/

namespace Sys2Proof.Machine

/-- A register write by an agent; one that has to wait is held. -/
def Dev.wr (d : Dev) (a p o : Nat) (v : Word) : Dev :=
  match d.regWrite a p o v with
  | .ok _ d => d
  | .wait d' => d.holds d' (.regWrite a p o v)
  | .abort d => d
  | .none => d

/-- A register read by an agent; what it returns is the response (log 16). -/
def Dev.rd (d : Dev) (a p o : Nat) : Dev :=
  match d.regRead a p o with
  | .ok w d => { d with cpl := .success, resp := [w] }
  | .wait d' => d.holds d' (.regRead a p o)
  | .abort d => { d with cpl := .abort, resp := [] }
  | .none => d

/-- CLAIM read by core `k`: what it returns is the response (R367, R372). -/
def Dev.claimRead (d : Dev) (k : Nat) : Dev :=
  if (d.core k).state ≠ .running ∨ d.gate (coreDomain k) ≠ .ok then d
  else match d.viewLoad k 0xC100 1 with
    | .ok bs d => d.respond [w32 (leNat bs)]
    | .wait d' => d.holds d' (.claim k)
    | .host d => d
    | .refused _ d => d
    | .error _ d => d

/-- A pair stored at COMPLETE by core `k`: the source and the count handled (R368, R372). -/
def Dev.completeStore (d : Dev) (k : Nat) (src n : Byte) : Dev :=
  if (d.core k).state ≠ .running ∨ d.gate (coreDomain k) ≠ .ok then d
  else match d.viewStore k 0xC102 [src, n] with
    | .ok _ d => d
    | .wait d' => d.holds d' (.complete k src n)
    | .host d => d
    | .refused _ d => d
    | .error _ d => d

/-- I3C_DAA: CTRL is written with DAA, and the assignment that it starts is made. -/
def Dev.daaRun (d : Dev) (a c : Nat) (acked : BitVec 11) (answers : Nat) : Dev :=
  let o := i3cOff c 0
  match d.regWrite a pgI3C o (withBit (d.reg pgI3C o) 28 true) with
  | .ok _ d => d.i3cDaa c acked answers
  | .wait d' => d.holds d' (.daa a c acked answers)
  | .abort d => d
  | .none => d

/-- A posted store that waits is tried again, behind what the core did before it; an error is reported to the core (R346). -/
def Dev.retryStore (d : Dev) (k n a : Nat) (x : Posted) (live : Bool) : Dev :=
  let again := fun (d : Dev) => { d with held := d.held ++ [.store k n a x live] }
  let err := fun (d : Dev) (e : Nat) => if live then d.noteStoreErr k e a else d
  if live ∧ d.behind k n then again d
  else match d.postTry k x with
    | .ok _ d => d
    | .wait d' => again (d.woken d')
    | .host d => d
    | .refused e d => err d e
    | .error e d => err d e

/-- A held request is made again: it is served, ends in error at a fence (R26), or is held once more. -/
def Dev.retry (d : Dev) : HeldReq → Dev
  | .regRead a p o => d.rd a p o
  | .regWrite a p o v => d.wr a p o v
  | .host o (.read n) => d.hostRead o n
  | .host o (.write bs ep) => d.hostWrite o bs ep
  | .poll o n => d.bar2Read o n
  | .bus a r => d.hostRequest a r
  | .table a o bs => d.hwtEntryWrite a o bs
  | .peer p src a r => if d.linkActive p then d.peerAccess p src a r else d
  | .port p tag n => d.toPort p tag n
  | .daa a c acked answers => d.daaRun a c acked answers
  | .claim k => d.claimRead k
  | .complete k src n => d.completeStore k src n
  | .store k n a x live => d.retryStore k n a x live
  | .trace a bs => d.traceStore a bs
  | .mirror r target => d.mirrorAgain r target
  | .lend q => d.lend q
  | .occur k => d.srcArrive k true

/-- Every held request is made again, in the order they came. -/
def Dev.retryHeld (d : Dev) : Dev := d.held.foldl Dev.retry { d with held := [] }

end Sys2Proof.Machine
end

