-- ==== Sys2Proof/Machine/Settle.lean ====
section
/-!
DEFINITION. What the device's own logic does at the end of every command (log 19): it collects fault events, moves waiting records, follows levels, and applies conditions that have come to hold; and how a command is run.
-/

namespace Sys2Proof.Machine

/-- A function applied for each key of a map. -/
def Dev.forKeys {α : Type} (d : Dev) (m : SMap α) (f : Dev → Nat → Dev) : Dev := m.foldl (fun d e => f d e.1) d

/-- Logic parity under injection (R461, R483): the checker of an awake unit's page makes one check a command. -/
def Dev.injectLogic (d : Dev) : Dev :=
  (d.regs.filter fun e => e.1 % 1024 = 0x02C / 4 && fld e.2 4 2 ≠ 0 && parityPage (e.1 / 1024)).foldl (fun d e =>
    let p := e.1 / 1024
    let unit := (pageDoms p).head?
    if (unit.map fun k => decide (d.gate k = .asleep)).getD false then d
    else
      let d := if fld e.2 4 2 = 1 then d.setRf p 0x02C 4 2 0 else d
      let f := d.free
      match unit with
      | some k =>
        f.2.raiseFault { kind := 21, page := p, source := k, info := f.1.truncate 32, unit := some k, injected := true }
      | none => f.2.raiseFault { kind := 28, page := pgKTL, source := fld f.1 32 16, info := f.1.truncate 32, unit := none, injected := true }) d

/-- A mover whose page is disabled ends its run once no descriptor is in progress (R272). -/
def Dev.moverDrains (d : Dev) (n : Nat) : Dev :=
  let v := d.mover n
  if d.pageEn (pgWDM + n / 2) ∨ !v.running ∨ v.cur.isSome then d
  else match d.mvStops n with
    | some st => d.mvRunEnd n st
    | none => d

/-- Pages whose EN was written 1 while they drained are enabled once draining has ended (R168). -/
def Dev.lateEnables (d : Dev) : Dev :=
  d.enPend.foldl (fun d p =>
    if d.draining p then d
    else { d.setRf p 0x008 0 1 1 with enPend := d.enPend.filter (· ≠ p) }) d

/-- A domain that sleeps deeper than its floor now allows begins its exit, and an entry goes no deeper (R439). -/
def Dev.floorHolds (d : Dev) (k : Nat) : Dev :=
  let u := d.dom k
  if d.isFenced k ∨ d.floorEff k ≥ max 1 u.state.code ∧ u.trans = .none then d
  else match u.trans with
    | .exiting _ _ => d
    | .entering g =>
      let f := d.floorEff k
      if g.code ≤ f then d
      else if max 1 u.state.code < f then d.setDom k { u with trans := .entering (PState.ofCode f) }
      else d.startExit k false none
    | .none => d.startExit k false none

/-- The channels of an absent LPDDR5X are taken to OFF (R416). -/
def Dev.dramRests (d : Dev) (k : Nat) : Dev :=
  let u := d.dom k
  if d.dramAbsent k ∧ u.state ≠ .off ∧ u.trans = .none ∧ d.isIdle k then d.setDom k { u with trans := .entering .off } else d

/-- The core of a domain, if it has one. -/
def domCore (k : Nat) : Option Nat :=
  if k = 1 then some 64
  else if 28 ≤ k ∧ k < 124 ∧ (k - 28) % 12 < 8 then some ((k - 28) / 12 * 8 + (k - 28) % 12) else none

/-- A request line that is asserted wakes its core's domain from any state (R374). -/
def Dev.coreCalls (d : Dev) (k : Nat) : Dev :=
  match domCore k with
  | some c => if d.gate k = .asleep ∧ (d.dom k).trans = .none ∧ d.line c then d.startExit k false none else d
  | none => d

/-- Reads of HWT.QUIESCE wait only for requests that are still outstanding (R412). -/
def Dev.quiesceDrop (d : Dev) : Dev :=
  if d.quiesce.isEmpty then d
  else
    let out := d.hostOut
    { d with quiesce := d.quiesce.map fun e => (e.1, (e.2.1, e.2.2.filter fun k => out.contains k)) }

/-- The urgent byte follows its conditions, and a rise under IBI_MASK asks for an in-band interrupt (R250, R251). -/
def Dev.syncUrgent (d : Dev) : Dev :=
  let now := d.urgentByte
  let rises := now &&& ~~~d.ecp.urgPrev &&& BitVec.ofNat 8 (d.rf pgHIF 0x058 8 8)
  { d with ecp := { d.ecp with urgPrev := now, ibiPend := d.ecp.ibiPend || rises != 0,
                               tries := if rises != 0 then 0 else d.ecp.tries } }

/-- Steps enough for the reactions of one command, and for the records that wait. -/
abbrev settleFuel : Nat := 64
abbrev drainFuel : Nat := 4096

/-- The end of a command. -/
def settle (old d : Dev) : Dev :=
  let d := d.srcFalls.quiesceDrop.retryHeld.gpioFollow
  let d := d.forKeys d.fifos Dev.fifoFollow
  let d := d.injectLogic.collect settleFuel
  let d := (d.forKeys d.scbs (Dev.foldTest old)).drainRings drainFuel
  let d := d.forKeys d.movers Dev.moverDrains
  let d := d.lateEnables
  let d := d.forKeys d.doms Dev.floorHolds
  let d := (d.dramRests 26).dramRests 27
  let d := d.forKeys d.doms Dev.coreCalls
  let d := d.voltages
  let d := (d.syncLinks).sendLtr
  let d := d.forKeys d.cores fun d k => (d.atBoundary k).debugStops k
  let d := { d with portA := if d.portA = old.portA then none else d.portA, portB := [], sent := d.sent.drop old.sent.length }
  (d.quiesceDrop.collect settleFuel).srcFalls.syncUrgent

/-! ### Commands -/

/-- The counts of a command are taken (log 1). -/
def Dev.atCounts (d : Dev) (c : Counts) : Dev := { d with pacer := d.pacer.setCounts c }

/-- A command runs: its effect, then the end of the command. -/
def State.run (s : State) (f : Dev → Dev) : Host.Outcome State Fault Refusal := .next { s with dev := settle s.dev (f s.dev) }

/-- A command whose list operand must have a length. -/
def State.runIf (s : State) (ok : Bool) (f : Dev → Dev) : Host.Outcome State Fault Refusal :=
  if ok then s.run f else .fault .badOperand

end Sys2Proof.Machine
end

