-- ==== Sys2Proof/Machine/CmdBoot.lean ====
section
/-!
DEFINITION. Commands of start-up, reset, the life-cycle and debug (chapter 16).
-/

namespace Sys2Proof.Machine

/-- FUS offset of key word `i`: KEYHASH 0 to 3, then DBGKEYHASH (R507). -/
def keyOff (i : Nat) : Nat := if i < 32 then 0x080 + 4 * i else 0x100 + 4 * (i - 32)

/-- DBG.CORE_CTL of core `k`, whose agent ID is `k + 1`. -/
def coreCtlOff (k : Nat) : Nat := 0x100 + 16 * (k + 1)

/-- CORE_CTL is written with RESUME or STEP, keeping HOB and, for STEP, HALT_REQ (R509). -/
def Dev.coreCtl (d : Dev) (a k : Nat) (keep bits : Word) : Dev :=
  d.wr a pgDBG (coreCtlOff k) ((d.reg pgDBG (coreCtlOff k) &&& keep) ||| bits)

/-- REG_DATA is read or written (R509). -/
def Dev.debugReg (d : Dev) (a : Nat) : Option Byte → Dev
  | some v => d.wr a pgDBG 0x604 (w32 v.toNat)
  | none => d.rd a pgDBG 0x604

def execColdReset (board : ColdBoard) (s : State) : Host.Outcome State Fault Refusal := s.run fun d => d.coldReset board
def execUpstreamPerst (s : State) : Host.Outcome State Fault Refusal := s.run Dev.upstreamPerst
def execUpstreamPerstRelease (s : State) : Host.Outcome State Fault Refusal := s.run Dev.perstRelease
def execUpstreamLinkLoss (s : State) : Host.Outcome State Fault Refusal := s.run Dev.linkLoss
def execFunctionLevelReset (s : State) : Host.Outcome State Fault Refusal := s.run Dev.flr
def execConfigRequest (fn : CfgFn) (reg : Fin 1024) (wr : Option (Word × BitVec 4)) (s : State) :
    Host.Outcome State Fault Refusal :=
  s.run fun d => d.cfgRequest fn reg wr
def execCfgReadySet (a : Agent) (s : State) : Host.Outcome State Fault Refusal := s.run fun d => d.wr a pgKTL 0x044 0x80000000
def execHostBoot (a : Agent) (len : Word) (s : State) : Host.Outcome State Fault Refusal := s.run fun d => d.wr a pgKTL 0x048 len
def execRomExit (s : State) : Host.Outcome State Fault Refusal := s.run Dev.romExit
def execLifeCycleAdvance (a : Agent) (v : Word) (s : State) : Host.Outcome State Fault Refusal := s.run fun d => d.wr a pgLCS 0x044 v
def execSvnAdvance (a : Agent) (s : State) : Host.Outcome State Fault Refusal := s.run fun d => d.wr a pgLCS 0x048 0x80000000
def execKeyFuseWrite (a : Agent) (i : Fin 40) (v : Word) (s : State) : Host.Outcome State Fault Refusal :=
  s.run fun d => d.wr a pgFUS (keyOff i) v
def execKettleTimerArm (a : Agent) (k : Fin 8) (hi : Word) (s : State) : Host.Outcome State Fault Refusal :=
  s.run fun d => d.wr a pgKTL (0x104 + 16 * k) hi
def execKettleTimerCancel (a : Agent) (k : Fin 8) (s : State) : Host.Outcome State Fault Refusal :=
  s.run fun d => d.wr a pgKTL (0x108 + 16 * k) 0x80
def execQspiTransfer (a : Agent) (v : Word) (s : State) : Host.Outcome State Fault Refusal := s.run fun d => d.wr a pgKTL 0x070 v
def execQspiTransferComplete (data : List Byte) (s : State) : Host.Outcome State Fault Refusal := s.run fun d => d.qspiDone data
def execDapAccess (op : Fin 4) (addr : BitVec 48) (data : Word) (s : State) : Host.Outcome State Fault Refusal :=
  s.run fun d => d.dapStart op addr.toNat data
def execDapAccessComplete (s : State) : Host.Outcome State Fault Refusal := s.run Dev.dapComplete
def execUnlockChallenge (a : Agent) (s : State) : Host.Outcome State Fault Refusal := s.run fun d => d.wr a pgDBG 0x040 1
def execUnlockCheck (a : Agent) (s : State) : Host.Outcome State Fault Refusal := s.run fun d => d.wr a pgDBG 0x040 2
def execUnlockCheckResult (s : State) : Host.Outcome State Fault Refusal := s.run Dev.unlockResult
def execHaltReq (a : Agent) (k : Fin 65) (s : State) : Host.Outcome State Fault Refusal :=
  s.run fun d => d.coreCtl a k 0x10000000 0x80000000
def execDebugResume (a : Agent) (k : Fin 65) (s : State) : Host.Outcome State Fault Refusal :=
  s.run fun d => d.coreCtl a k 0x10000000 0x40000000
def execDebugStep (a : Agent) (k : Fin 65) (s : State) : Host.Outcome State Fault Refusal :=
  s.run fun d => d.coreCtl a k 0x90000000 0x20000000
def execDebugRegAccess (a : Agent) (wr : Option Byte) (s : State) : Host.Outcome State Fault Refusal :=
  s.run fun d => d.debugReg a wr

end Sys2Proof.Machine
end

