-- ==== Sys2Proof/Machine/CmdChannel.lean ====
section
/-!
DEFINITION. Commands of the channel engines and their subchannels (chapters 03 and 04).
-/

namespace Sys2Proof.Machine

/-! ### Operation requests (R135) and the SCB window (R133) -/

/-- A word of CE.OP. -/
def opWord (opc sub : Nat) : Word := w32 (fput 28 4 opc + sub)

def execStart (a : Agent) (n : Fin 16) (sub : Fin 256) (s : State) : Host.Outcome State Fault Refusal :=
  s.run fun d => d.wr a (pgCE + n) 0x040 (opWord 1 sub)
def execResume (a : Agent) (n : Fin 16) (sub : Fin 256) (s : State) : Host.Outcome State Fault Refusal :=
  s.run fun d => d.wr a (pgCE + n) 0x040 (opWord 2 sub)
def execHalt (a : Agent) (n : Fin 16) (sub : Fin 256) (s : State) : Host.Outcome State Fault Refusal :=
  s.run fun d => d.wr a (pgCE + n) 0x040 (opWord 3 sub)
def execSuspendReq (a : Agent) (n : Fin 16) (sub : Fin 256) (s : State) : Host.Outcome State Fault Refusal :=
  s.run fun d => d.wr a (pgCE + n) 0x040 (opWord 4 sub)
def execClear (a : Agent) (n : Fin 16) (sub : Fin 256) (s : State) : Host.Outcome State Fault Refusal :=
  s.run fun d => d.wr a (pgCE + n) 0x040 (opWord 5 sub)
def execScbWindowWrite (a : Agent) (n i : Fin 16) (v : Word) (s : State) : Host.Outcome State Fault Refusal :=
  s.run fun d => d.wr a (pgCE + n) (0x080 + 4 * i) v

/-! ### The sequencer (R140, R145) -/

/-- A command of engine `n`, unless its unit is fenced or asleep. -/
def Dev.onEngine (d : Dev) (n : Nat) (f : Dev → Dev) : Dev := if d.gate (ceDom n) = .ok then f d else d

/-- The reply that a command carries is the one its subchannel waits for: it ends the request, and a failure is an event of
the upstream port (R412, R517). -/
def Dev.hostEnds (d : Dev) (i : Nat) (r : HostReply) : Dev := (d.quiesceDone i).replyError r

/-- CCW_FETCH_COMPLETE; a reply of the host is used only where the CCW lies in the host window. -/
def Dev.ccwFetched (d : Dev) (n : Nat) (host : Option HostReply) : Dev :=
  match host, d.activeSub n with
  | some r, some i =>
    if (d.ctx i).phase = .fetching ∧ rangeOf (d.scb i).ccwAddr.toNat = .hostwin ∧ (r.status ≠ .ok ∨ r.data.length = 32) then
      (d.hostEnds i r).fetchComplete n host
    else d
  | some _, none => d
  | none, _ => d.fetchComplete n none

/-- TIC_IF and SKIP_IF, with the host's reply to the read of a condition word in the host window. -/
def Dev.conditionStep (d : Dev) (i : Nat) (host : Option HostReply) : Dev :=
  match host with
  | some r =>
    let x := d.condition i
    if (x.ctx i).hostReq.isSome ∧ (r.status ≠ .ok ∨ r.data.length = 8) then (d.hostEnds i r).conditionHost i host else x
  | none => d.condition i

/-- TIC (R100). -/
def Dev.ticStep (d : Dev) (i : Nat) : Dev := d.transferTo i (d.ctx i).ccw.addr.toNat true

/-- WAIT_UNTIL and WAIT_FOR (R106). -/
def Dev.waitUntilStep (d : Dev) (i : Nat) : Dev := d.waitTime i (d.ctx i).ccw.param .time fun d => d.opDone i
def Dev.waitForStep (d : Dev) (i : Nat) : Dev :=
  let x := d.ctx i
  d.waitTime i (dsTarget x.started (lo32 x.ccw.param)) .time fun d => d.opDone i

/-- A device command begins, or goes on with its operations (R173–R177). -/
def Dev.onDevice (d : Dev) (n : Nat) (op : Byte) : Dev :=
  match d.activeSub n with
  | some i =>
    let x := d.ctx i
    if x.ccw.op = op ∧ (x.phase = .ready ∨ x.phase = .running) then d.deviceOp i else d
  | none => d

/-- CCW_COMPLETE: step 8 of R145 for the CCW that has been executed. -/
def Dev.ccwComplete (d : Dev) (n : Nat) : Dev :=
  match d.activeSub n with
  | some i => if (d.ctx i).phase = .done then (d.ccwCompletion i).go i else d
  | none => d

def execSubchannelDispatch (n : Fin 16) (s : State) : Host.Outcome State Fault Refusal :=
  s.run fun d => d.onEngine n fun d => d.dispatch n
def execCcwFetchComplete (n : Fin 16) (host : Option HostReply) (s : State) : Host.Outcome State Fault Refusal :=
  s.run fun d => d.onEngine n fun d => d.ccwFetched n host
def execTicIf (n : Fin 16) (host : Option HostReply) (s : State) : Host.Outcome State Fault Refusal :=
  s.run fun d => d.onOp n 0x09 fun d i => d.conditionStep i host
def execSkipIf (n : Fin 16) (host : Option HostReply) (s : State) : Host.Outcome State Fault Refusal :=
  s.run fun d => d.onOp n 0x0A fun d i => d.conditionStep i host
def execTic (n : Fin 16) (s : State) : Host.Outcome State Fault Refusal := s.run fun d => d.onOp n 0x0B Dev.ticStep
def execWaitUntil (n : Fin 16) (s : State) : Host.Outcome State Fault Refusal := s.run fun d => d.onOp n 0x10 Dev.waitUntilStep
def execWaitEvent (n : Fin 16) (s : State) : Host.Outcome State Fault Refusal := s.run fun d => d.onOp n 0x11 Dev.waitEvent
def execWaitFor (n : Fin 16) (s : State) : Host.Outcome State Fault Refusal := s.run fun d => d.onOp n 0x12 Dev.waitForStep
def execPost (n : Fin 16) (s : State) : Host.Outcome State Fault Refusal := s.run fun d => d.onOp n 0x18 Dev.postOp
def execSignal (n : Fin 16) (s : State) : Host.Outcome State Fault Refusal := s.run fun d => d.onOp n 0x19 Dev.signalOp
def execStoreTime (n : Fin 16) (s : State) : Host.Outcome State Fault Refusal := s.run fun d => d.onOp n 0x1A Dev.storeTimeOp
def execMove (n : Fin 16) (s : State) : Host.Outcome State Fault Refusal := s.run fun d => d.onOp n 0x20 Dev.moveStart
def execDigest (n : Fin 16) (s : State) : Host.Outcome State Fault Refusal := s.run fun d => d.onOp n 0x21 Dev.moveStart
def execCallSpoke (n : Fin 16) (s : State) : Host.Outcome State Fault Refusal := s.run fun d => d.onOp n 0x28 Dev.callSpokeOp
def execNop (n : Fin 16) (s : State) : Host.Outcome State Fault Refusal := s.run fun d => d.onOp n 0x30 Dev.opDone
def execEndProgram (n : Fin 16) (s : State) : Host.Outcome State Fault Refusal := s.run fun d => d.onOp n 0x3F Dev.opDone
def execRead (n : Fin 16) (s : State) : Host.Outcome State Fault Refusal :=
  s.run fun d => d.onEngine n fun d => d.onDevice n 0x40
def execWrite (n : Fin 16) (s : State) : Host.Outcome State Fault Refusal :=
  s.run fun d => d.onEngine n fun d => d.onDevice n 0x41
def execControl (n : Fin 16) (s : State) : Host.Outcome State Fault Refusal :=
  s.run fun d => d.onEngine n fun d => d.onDevice n 0x42
def execSense (n : Fin 16) (s : State) : Host.Outcome State Fault Refusal :=
  s.run fun d => d.onEngine n fun d => d.onDevice n 0x43
def execDeviceOperationComplete (n : Fin 16) (sub : Fin 256) (r : DevResult) (s : State) : Host.Outcome State Fault Refusal :=
  s.run fun d => d.opComplete n sub r
def execCcwComplete (n : Fin 16) (s : State) : Host.Outcome State Fault Refusal :=
  s.run fun d => d.onEngine n fun d => d.ccwComplete n

end Sys2Proof.Machine
end

