-- ==== Sys2Proof/Machine/CmdCore.lean ====
section
/-!
DEFINITION. Instructions and other commands of the spoke cores and the kettle core (chapter 10). Every instruction is its
encoding (R330) and its effect, carried out by `Dev.coreStep`.
-/

namespace Sys2Proof.Machine

/-- An instruction of core `k`. -/
def State.core (s : State) (k : Fin 65) (enc : List (BitVec 16)) (act : BitVec 16 → BitVec 16 → Dev → Act) :
    Host.Outcome State Fault Refusal := s.run fun d => d.coreStep k enc act

/-! ### Register operations (R330, R332) -/

/-- The core with the flags that an operation writes. -/
def Core.putFlags (c : Core) (f : FlagOut) : Core :=
  { c with c := f.c.getD c.c, z := f.z.getD c.z, n := f.n.getD c.n, v := f.v.getD c.v }

/-- A result goes to a register, with its flags; without `keep` the register is left unchanged (CMP). -/
def Dev.aluAct (d : Dev) (k rd : Nat) (r : Byte × FlagOut) (keep : Bool) : Act :=
  let c := (d.core k).putFlags r.2
  if keep then .seq (d.setCore k (c.setG rd r.1)) [rd] else .seq (d.setCore k c) []

/-- A 16-bit result goes to a pair, with its flags. -/
def Dev.pairAct (d : Dev) (k pn : Nat) (r : BitVec 16 × FlagOut) : Act :=
  .seq (d.setCore k (((d.core k).putFlags r.2).setPair pn r.1)) [2 * pn, 2 * pn + 1]

/-- The operations of two bytes. -/
inductive AluOp where
  | add | addc | sub | subc | and | or | xor
  deriving DecidableEq, Repr

/-- An operation's result and flags on a core with its flags before. -/
def Core.alu (c : Core) (op : AluOp) (a b : Byte) : Byte × FlagOut :=
  match op with
  | .add => addFlags a b false
  | .addc => addFlags a b c.c
  | .sub => subFlags a b false false c.z
  | .subc => subFlags a b c.c true c.z
  | .and => logicFlags (a &&& b)
  | .or => logicFlags (a ||| b)
  | .xor => logicFlags (a ^^^ b)

/-- rd and rs. -/
def Dev.aluReg (d : Dev) (k rd rs : Nat) (op : AluOp) (keep : Bool) : Act :=
  let c := d.core k
  d.aluAct k rd (c.alu op (c.reg rd) (c.reg rs)) keep

/-- rd and an immediate. -/
def Dev.aluImm (d : Dev) (k rd : Nat) (imm : Byte) (op : AluOp) (keep : Bool) : Act :=
  let c := d.core k
  d.aluAct k rd (c.alu op (c.reg rd) imm) keep

/-- MOV and MOVI. -/
def Dev.movAct (d : Dev) (k rd : Nat) (v : Byte) : Act := d.aluAct k rd (v, {}) true

/-- Shifts and rotates. -/
def Dev.shiftAct (d : Dev) (k rd count : Nat) (op : ShiftOp) : Act :=
  let c := d.core k
  d.aluAct k rd (shiftFlags op (c.reg rd) c.c count) true

def execCoreAdd (k : Fin 65) (rd rs : Fin 32) (s : State) : Host.Outcome State Fault Refusal :=
  s.core k (encRR 0x01 0 rd rs) fun _ _ d => d.aluReg k rd rs .add true
def execCoreAddc (k : Fin 65) (rd rs : Fin 32) (s : State) : Host.Outcome State Fault Refusal :=
  s.core k (encRR 0x01 1 rd rs) fun _ _ d => d.aluReg k rd rs .addc true
def execCoreSub (k : Fin 65) (rd rs : Fin 32) (s : State) : Host.Outcome State Fault Refusal :=
  s.core k (encRR 0x02 0 rd rs) fun _ _ d => d.aluReg k rd rs .sub true
def execCoreSubc (k : Fin 65) (rd rs : Fin 32) (s : State) : Host.Outcome State Fault Refusal :=
  s.core k (encRR 0x02 1 rd rs) fun _ _ d => d.aluReg k rd rs .subc true
def execCoreAnd (k : Fin 65) (rd rs : Fin 32) (s : State) : Host.Outcome State Fault Refusal :=
  s.core k (encRR 0x03 0 rd rs) fun _ _ d => d.aluReg k rd rs .and true
def execCoreOr (k : Fin 65) (rd rs : Fin 32) (s : State) : Host.Outcome State Fault Refusal :=
  s.core k (encRR 0x03 1 rd rs) fun _ _ d => d.aluReg k rd rs .or true
def execCoreXor (k : Fin 65) (rd rs : Fin 32) (s : State) : Host.Outcome State Fault Refusal :=
  s.core k (encRR 0x04 0 rd rs) fun _ _ d => d.aluReg k rd rs .xor true
def execCoreCmp (k : Fin 65) (rd rs : Fin 32) (s : State) : Host.Outcome State Fault Refusal :=
  s.core k (encRR 0x05 0 rd rs) fun _ _ d => d.aluReg k rd rs .sub false
def execCoreCmpc (k : Fin 65) (rd rs : Fin 32) (s : State) : Host.Outcome State Fault Refusal :=
  s.core k (encRR 0x05 1 rd rs) fun _ _ d => d.aluReg k rd rs .subc false
def execCoreMov (k : Fin 65) (rd rs : Fin 32) (s : State) : Host.Outcome State Fault Refusal :=
  s.core k (encRR 0x04 1 rd rs) fun _ _ d => d.movAct k rd ((d.core k).reg rs)
def execCoreAddi (k : Fin 65) (rd : Fin 32) (imm : Byte) (s : State) : Host.Outcome State Fault Refusal :=
  s.core k (encImm 0 rd imm) fun _ _ d => d.aluImm k rd imm .add true
def execCoreAddci (k : Fin 65) (rd : Fin 32) (imm : Byte) (s : State) : Host.Outcome State Fault Refusal :=
  s.core k (encImm 1 rd imm) fun _ _ d => d.aluImm k rd imm .addc true
def execCoreSubi (k : Fin 65) (rd : Fin 32) (imm : Byte) (s : State) : Host.Outcome State Fault Refusal :=
  s.core k (encImm 2 rd imm) fun _ _ d => d.aluImm k rd imm .sub true
def execCoreSubci (k : Fin 65) (rd : Fin 32) (imm : Byte) (s : State) : Host.Outcome State Fault Refusal :=
  s.core k (encImm 3 rd imm) fun _ _ d => d.aluImm k rd imm .subc true
def execCoreAndi (k : Fin 65) (rd : Fin 32) (imm : Byte) (s : State) : Host.Outcome State Fault Refusal :=
  s.core k (encImm 4 rd imm) fun _ _ d => d.aluImm k rd imm .and true
def execCoreOri (k : Fin 65) (rd : Fin 32) (imm : Byte) (s : State) : Host.Outcome State Fault Refusal :=
  s.core k (encImm 5 rd imm) fun _ _ d => d.aluImm k rd imm .or true
def execCoreXori (k : Fin 65) (rd : Fin 32) (imm : Byte) (s : State) : Host.Outcome State Fault Refusal :=
  s.core k (encImm 6 rd imm) fun _ _ d => d.aluImm k rd imm .xor true
def execCoreCmpi (k : Fin 65) (rd : Fin 32) (imm : Byte) (s : State) : Host.Outcome State Fault Refusal :=
  s.core k (encImm 7 rd imm) fun _ _ d => d.aluImm k rd imm .sub false
def execCoreMovi (k : Fin 65) (rd : Fin 32) (imm : Byte) (s : State) : Host.Outcome State Fault Refusal :=
  s.core k (encImm 8 rd imm) fun _ _ d => d.movAct k rd imm
def execCoreAddp (k : Fin 65) (pn : Fin 16) (imm : BitVec 7) (s : State) : Host.Outcome State Fault Refusal :=
  s.core k [op16 0x07 (pn * 128 + imm.toNat)] fun _ _ d => d.pairAct k pn (addpFlags ((d.core k).pair pn) imm)
def execCoreMovip (k : Fin 65) (pn : Fin 16) (imm : BitVec 16) (s : State) : Host.Outcome State Fault Refusal :=
  s.core k [op16 0x08 (pn * 128), imm] fun _ _ d => d.pairAct k pn (imm, {})
def execCoreShl (k : Fin 65) (rd : Fin 32) (count : Fin 8) (s : State) : Host.Outcome State Fault Refusal :=
  s.core k (encShift 0 rd count) fun _ _ d => d.shiftAct k rd count .shl
def execCoreShr (k : Fin 65) (rd : Fin 32) (count : Fin 8) (s : State) : Host.Outcome State Fault Refusal :=
  s.core k (encShift 1 rd count) fun _ _ d => d.shiftAct k rd count .shr
def execCoreAsr (k : Fin 65) (rd : Fin 32) (count : Fin 8) (s : State) : Host.Outcome State Fault Refusal :=
  s.core k (encShift 2 rd count) fun _ _ d => d.shiftAct k rd count .asr
def execCoreRol (k : Fin 65) (rd : Fin 32) (count : Fin 8) (s : State) : Host.Outcome State Fault Refusal :=
  s.core k (encShift 3 rd count) fun _ _ d => d.shiftAct k rd count .rol
def execCoreRor (k : Fin 65) (rd : Fin 32) (count : Fin 8) (s : State) : Host.Outcome State Fault Refusal :=
  s.core k (encShift 4 rd count) fun _ _ d => d.shiftAct k rd count .ror
def execCoreRcl (k : Fin 65) (rd : Fin 32) (count : Fin 8) (s : State) : Host.Outcome State Fault Refusal :=
  s.core k (encShift 5 rd count) fun _ _ d => d.shiftAct k rd count .rcl
def execCoreRcr (k : Fin 65) (rd : Fin 32) (count : Fin 8) (s : State) : Host.Outcome State Fault Refusal :=
  s.core k (encShift 6 rd count) fun _ _ d => d.shiftAct k rd count .rcr
def execCoreMul (k : Fin 65) (pn : Fin 16) (rs : Fin 32) (signed : Bool) (s : State) : Host.Outcome State Fault Refusal :=
  s.core k [op16 0x0A (pn * 128 + rs * 4 + 2 * signed.toNat)] fun _ _ d =>
    d.pairAct k pn (mulFlags ((d.core k).reg (2 * pn)) ((d.core k).reg rs) signed)

/-! ### Loads and stores (R330, R334, R335) -/

/-- The address of a base and an offset: p12 to p15. -/
def Core.baseAddr (c : Core) (base off : Nat) : Nat := (c.pair (12 + base) + BitVec.ofNat 16 off).toNat

/-- The bytes of a register, or of the pair that an even register names. -/
def Core.bytesOf (c : Core) (r : Nat) (pair : Bool) : List Byte := if pair then [c.reg r, c.reg (r + 1)] else [c.reg r]

/-- The registers a load writes. -/
def destsOf (r : Nat) (pair : Bool) : List Nat := if pair then [r, r + 1] else [r]

def execCoreLdb (k : Fin 65) (rd : Fin 16) (base : Fin 4) (off : Fin 32) (s : State) : Host.Outcome State Fault Refusal :=
  s.core k (encMem 0x0B rd base off) fun pc _ d => d.issue k ((d.core k).baseAddr base off) (destsOf rd false) pc
def execCoreStb (k : Fin 65) (rd : Fin 16) (base : Fin 4) (off : Fin 32) (s : State) : Host.Outcome State Fault Refusal :=
  s.core k (encMem 0x0C rd base off) fun pc _ d =>
    d.storeAct k ((d.core k).baseAddr base off) ((d.core k).bytesOf rd false) pc
def execCoreLdp (k : Fin 65) (pn : Fin 16) (base : Fin 4) (off : Fin 32) (s : State) : Host.Outcome State Fault Refusal :=
  s.core k (encMem 0x0D pn base off) fun pc _ d => d.issue k ((d.core k).baseAddr base off) (destsOf (2 * pn) true) pc
def execCoreStp (k : Fin 65) (pn : Fin 16) (base : Fin 4) (off : Fin 32) (s : State) : Host.Outcome State Fault Refusal :=
  s.core k (encMem 0x0E pn base off) fun pc _ d =>
    d.storeAct k ((d.core k).baseAddr base off) ((d.core k).bytesOf (2 * pn) true) pc
def execCoreLda (k : Fin 65) (r : Fin 32) (pair : Bool) (addr : BitVec 16) (s : State) : Host.Outcome State Fault Refusal :=
  s.core k (encAbs 0 r pair addr) fun pc _ d => d.issue k addr.toNat (destsOf r pair) pc
def execCoreSta (k : Fin 65) (r : Fin 32) (pair : Bool) (addr : BitVec 16) (s : State) : Host.Outcome State Fault Refusal :=
  s.core k (encAbs 1 r pair addr) fun pc _ d => d.storeAct k addr.toNat ((d.core k).bytesOf r pair) pc

/-! ### Transfers of control (R331, R333, R341, R351) -/

/-- Bcc: the buffer learns of the branch, and a taken one jumps. -/
def Dev.bccAct (d : Dev) (k cond : Nat) (off : BitVec 8) (pc next : BitVec 16) : Act :=
  let c := d.core k
  let target := next + 2 * off.signExtend 16
  let taken := condHolds cond c.c c.z c.n c.v
  let d := d.bccResolve k pc next target taken
  if taken then .jump d target [] else .seq d []

/-- The target of a JMP or CALL. -/
def Core.target (c : Core) : CoreTarget → BitVec 16
  | .direct a => a
  | .pair p => c.pair p

/-- CALL: the return address is pushed. -/
def Dev.callAct (d : Dev) (k : Nat) (t : CoreTarget) (pc next : BitVec 16) : Act :=
  let c := d.core k
  let sp := c.pair 15 - 2
  match d.storeAct k sp.toNat [next.truncate 8, (next >>> 8).truncate 8] pc with
  | .seq d _ => .jump (d.setCore k ((d.core k).setPair 15 sp)) (c.target t) [30, 31]
  | r => r

/-- RET: the PC is the pair at p15. -/
def Dev.retAct (d : Dev) (k : Nat) (pc : BitVec 16) : Act :=
  match d.stackRead k 2 pc with
  | .error r => r
  | .ok (bs, d) =>
    let c := d.core k
    .jump (d.setCore k (c.setPair 15 (c.pair 15 + 2))) (BitVec.ofNat 16 (leNat bs)) [30, 31]

/-- RETI: the frame is restored, or left in place where an interrupt is due at once (R351). -/
def Dev.retiAct (d : Dev) (k : Nat) (pc : BitVec 16) : Act :=
  match d.stackRead k 4 pc with
  | .error r => r
  | .ok (bs, d) =>
    let c := d.core k
    let f := bs.headD 0
    if bitAt f 4 ∧ d.line k then .jump (d.setCore k { c with i := false }) 8 []
    else .jump (d.setCore k ((c.setFlags f).setPair 15 (c.pair 15 + 4))) (BitVec.ofNat 16 (leNat (bs.drop 2))) [30, 31]

def execCoreBcc (k : Fin 65) (cond : Fin 16) (off : BitVec 8) (s : State) : Host.Outcome State Fault Refusal :=
  s.core k (encBcc cond off) fun pc next d => d.bccAct k cond off pc next
def execCoreJmp (k : Fin 65) (target : CoreTarget) (s : State) : Host.Outcome State Fault Refusal :=
  s.core k (encTarget 0 target) fun _ _ d => .jump d ((d.core k).target target) []
def execCoreCall (k : Fin 65) (target : CoreTarget) (s : State) : Host.Outcome State Fault Refusal :=
  s.core k (encTarget 1 target) fun pc next d => d.callAct k target pc next
def execCoreRet (k : Fin 65) (s : State) : Host.Outcome State Fault Refusal :=
  s.core k [op16 0x13 0] fun pc _ d => d.retAct k pc
def execCoreReti (k : Fin 65) (s : State) : Host.Outcome State Fault Refusal :=
  s.core k [op16 0x13 0x400] fun pc _ d => d.retiAct k pc

/-! ### Hardware loops (R337, R339) -/

/-- LOOP. A level that is active, or one above it, raises LOOP_OVF; bounds that R337 forbids raise ILLEGAL; with a count
of 0 the body is skipped, by the length of the instruction at LEND. -/
def Dev.loopAct (d : Dev) (k level : Nat) (count : LoopCount) (lend pc next : BitVec 16) : Act :=
  let c := d.core k
  let n := match count with
    | .imm n => n.val
    | .pair p => (c.pair p).toNat
  if [0, 1, 2].any fun l => level ≤ l && c.loopOn l then .trap d 3 none none pc
  else if !loopOk next.toNat lend.toNat then .illegal d pc
  else
    let c := ((c.setCsrPair (lStart level) next.toNat).setCsrPair (lEnd level) lend.toNat).setCsrPair (lCount level) n
    if n ≠ 0 then .seq (d.setCore k (c.setLoop level true)) []
    else match d.fetchWord k lend with
      | .word w d => .skip (d.setCore k c) (lend + BitVec.ofNat 16 (lengthOf (w.getD 0)))
      | .wait d' => .unmet (d.woken d')
      | .fail e d => .busErr d e lend.toNat pc

/-- LPOP. -/
def Dev.lpopAct (d : Dev) (k : Nat) : Act :=
  let c := d.core k
  .seq (d.setCore k (match c.loopTop with
    | some l => c.setLoop l false
    | none => c)) []

def execCoreLoop (k : Fin 65) (level : Fin 4) (count : LoopCount) (lend : BitVec 16) (s : State) :
    Host.Outcome State Fault Refusal :=
  s.core k (encLoop level count lend) fun pc next d => d.loopAct k level count lend pc next
def execCoreLpop (k : Fin 65) (s : State) : Host.Outcome State Fault Refusal :=
  s.core k [op16 0x14 0x400] fun _ _ d => d.lpopAct k

/-! ### Interrupts, traps and CSRs (R321, R345–R352) -/

/-- BREAK: the debug port halts the core where HOB is 1. -/
def Dev.breakAct (d : Dev) (k : Nat) (next : BitVec 16) : Act :=
  if d.haltOnBreak k then .halt d else .trap d 4 none none next

/-- SYNC: every earlier load has returned and every earlier store has been acknowledged. -/
def Dev.syncAct (d : Dev) (k : Nat) : Act :=
  let c := d.core k
  if c.pend.all (·.arrived) ∧ !d.posting k ∧ c.storeErrs = [] then .seq d [] else .unmet d

/-- WAIT: complete at once where the request line is asserted. -/
def Dev.waitAct (d : Dev) (k : Nat) : Act := if d.line k then .seq d [] else .stall d

/-- CSRR and CSRW; what they may not name or write raises ILLEGAL. -/
def Dev.csrrAct (d : Dev) (k rd csr : Nat) (pc : BitVec 16) : Act :=
  match d.csrRead k csr with
  | some v => d.movAct k rd v
  | none => .illegal d pc
def Dev.csrwAct (d : Dev) (k csr : Nat) (v : Byte) (pc : BitVec 16) : Act :=
  match d.csrWrite k csr v with
  | some d => .seq d []
  | none => .illegal d pc

def execCoreEi (k : Fin 65) (s : State) : Host.Outcome State Fault Refusal :=
  s.core k [op16 0x15 0x400] fun _ _ d => .seq (d.setCore k { d.core k with i := true }) []
def execCoreDi (k : Fin 65) (s : State) : Host.Outcome State Fault Refusal :=
  s.core k [op16 0x15 0] fun _ _ d => .seq (d.setCore k { d.core k with i := false }) []
def execCoreWait (k : Fin 65) (s : State) : Host.Outcome State Fault Refusal := s.core k [op16 0x16 0] fun _ _ d => d.waitAct k
def execCoreWaitWake (k : Fin 65) (s : State) : Host.Outcome State Fault Refusal := s.run fun d => d.waitWake k
def execCoreBreak (k : Fin 65) (s : State) : Host.Outcome State Fault Refusal :=
  s.core k [op16 0x17 0] fun _ next d => d.breakAct k next
def execCoreTrap (k : Fin 65) (code : Byte) (s : State) : Host.Outcome State Fault Refusal :=
  s.core k [op16 0x17 (0x400 + code.toNat)] fun _ next d => .trap d 5 (some code.toNat) none next
def execCoreSync (k : Fin 65) (s : State) : Host.Outcome State Fault Refusal := s.core k [op16 0x18 0] fun _ _ d => d.syncAct k
def execCoreCsrr (k : Fin 65) (rd : Fin 32) (csr : Fin 64) (s : State) : Host.Outcome State Fault Refusal :=
  s.core k [op16 0x19 (rd * 64 + csr)] fun pc _ d => d.csrrAct k rd csr pc
def execCoreCsrw (k : Fin 65) (rs : Fin 32) (csr : Fin 64) (s : State) : Host.Outcome State Fault Refusal :=
  s.core k [op16 0x1A (rs * 64 + csr)] fun pc _ d => d.csrwAct k csr ((d.core k).reg rs) pc

/-- CORE_PACER_ARM: the CSRW of PCMP7 (R324). -/
def execCorePacerArm (k : Fin 65) (rs : Fin 32) (s : State) : Host.Outcome State Fault Refusal :=
  s.core k [op16 0x1A (rs * 64 + 0x37)] fun pc _ d => d.csrwAct k 0x37 ((d.core k).reg rs) pc

/-- CORE_PACER_CANCEL: a CSRW of PCTL whose CANCEL bit is 1 (R324). -/
def Dev.cancelAct (d : Dev) (k : Nat) (v : Byte) (pc : BitVec 16) : Act :=
  if bitAt v 7 then d.csrwAct k 0x38 v pc else .unmet d

def execCorePacerCancel (k : Fin 65) (rs : Fin 32) (s : State) : Host.Outcome State Fault Refusal :=
  s.core k [op16 0x1A (rs * 64 + 0x38)] fun pc _ d => d.cancelAct k ((d.core k).reg rs) pc

/-! ### Boundaries, returns and resets (R335, R346, R349, R354, R355) -/

def execInterruptEntry (k : Fin 65) (s : State) : Host.Outcome State Fault Refusal := s.run fun d => d.interruptEntry k

/-- CORE_LOAD_DATA_RETURN; a failed reply of the host is an event of the upstream port as well (R517). -/
def Dev.loadArrives (d : Dev) (k : Nat) (host : Option HostReply) : Dev :=
  if d.gate (coreDomain k) ≠ .ok then d
  else match host, (d.core k).pend.find? (·.out) with
    | some r, some q =>
      if q.host ∧ (r.status ≠ .ok ∨ r.data.length = q.dests.length) then
        ((d.quiesceDone (4200 + k)).replyError r).loadReturn k host
      else d
    | _, _ => d.loadReturn k host

def execCoreLoadDataReturn (k : Fin 65) (host : Option HostReply) (s : State) : Host.Outcome State Fault Refusal :=
  s.run fun d => d.loadArrives k host
def execPostedStoreError (k : Fin 65) (s : State) : Host.Outcome State Fault Refusal := s.run fun d => d.postedStoreError k

/-- CORE_CTRL with one bit changed. -/
def Dev.coreCtrlBit (d : Dev) (a k bit : Nat) (b : Bool) : Dev :=
  d.wr a (corPage k) (corOff k 0) (withBit (d.reg (corPage k) (corOff k 0)) bit b)

def execCoreResetHold (a : Agent) (k : Fin 64) (s : State) : Host.Outcome State Fault Refusal :=
  s.run fun d => d.coreCtrlBit a k 31 true
def execCoreResetRelease (a : Agent) (k : Fin 64) (s : State) : Host.Outcome State Fault Refusal :=
  s.run fun d => d.coreCtrlBit a k 31 false
def execCoreBootCopyComplete (k : Fin 64) (s : State) : Host.Outcome State Fault Refusal := s.run fun d => d.bootComplete k
def execCoreBtbDisable (a : Agent) (k : Fin 64) (s : State) : Host.Outcome State Fault Refusal :=
  s.run fun d => d.coreCtrlBit a k 30 true

end Sys2Proof.Machine
end

