-- ==== Sys2Proof/Machine/CmdMem.lean ====
section
/-!
DEFINITION. Commands of the memories and the hub (chapters 12 and 13).
-/

namespace Sys2Proof.Machine

/-- Training of a channel of LPDDR5X is complete (R416): it has to be enabled, present and untrained. -/
def Dev.trained (d : Dev) (c : Nat) : Dev :=
  if d.dramState c = 1 then { d with links := { d.links with trained := d.links.trained ++ [c] } } else d

/-! ### Hub responses (R26, R395, R419, R434, R461) -/

/-- An access in progress of a requester ends without its data: with the fenced error, or poisoned (R26, R395, R472). -/
def Dev.accessFails (d : Dev) (a sub : Nat) (fenced : Bool) : Dev :=
  if 0x50 ≤ a ∧ a < 0x60 then
    let i := (a - 0x50) * 256 + sub
    if (d.ctx i).phase ≠ .running then d
    else if fenced then d.failAccess i xENGINE 3 else d.failAccess i xDATA 0
  else if 0x60 ≤ a ∧ a < 0x70 then
    match (d.mover (a - 0x60)).cur with
    | some x => if x.err = 0 then d.mvFail (a - 0x60) x (if fenced then 9 else 8) else d
    | none => d
  else if 1 ≤ a ∧ a ≤ 0x41 then
    match (d.core (a - 1)).pend.find? (·.out) with
    | some q =>
      if q.host then d
      else (d.setPend (a - 1) { q with fail := some (if fenced then beFenced else bePoison), arrived := true }).atBoundary (a - 1)
    | none => d
  else d

/-- A response goes on with the work of its requester: `n` beats of an engine or a mover, the oldest load of a core. -/
def Dev.accessGoesOn (d : Dev) (a sub n : Nat) : Dev :=
  if 0x50 ≤ a ∧ a < 0x60 then d.engineBeats ((a - 0x50) * 256 + sub) n
  else if 0x60 ≤ a ∧ a < 0x70 then d.mvBeats (a - 0x60) n
  else if 1 ≤ a ∧ a ≤ 0x41 ∧ 0 < n then d.loadArrives (a - 1) none
  else d

/-- An error that a checker finds in a word (R461). -/
def Dev.wordError (d : Dev) (c : Checker) (unc : Bool) : Dev :=
  (d.eccCount c.page (if unc then c.unc else c.corr)).raiseFault
    { kind := if unc then c.ue else c.ce, page := c.page, source := c.source, info := w32 c.info, unit := c.unit }

/-- An effect at port B of an exchange RAM in the step of the store just made at port A (R400): it meets the word as that store found
it, the store completes after it, and a byte that both wrote and left different is a collision. -/
def Dev.inSameStep (d : Dev) (f : Dev → Dev) : Dev :=
  match d.portA with
  | none => f d
  | some q =>
    let e := f ({ d with portB := [] }.poke (q.addr / 8 * 8) q.old)
    let both := fun j => e.portB.any fun b =>
      decide (plainAddr b.1 ≤ plainAddr q.addr + j ∧ plainAddr q.addr + j < plainAddr b.1 + b.2)
    let collides := (List.range q.bytes.length).any fun j => both j && e.peek (q.addr + j) 1 ≠ [q.bytes.getD j 0]
    let e := e.poke q.addr q.bytes
    match rangeOf q.addr with
    | .xram w _ => if collides then e.bump pgMEM (0x060 + 4 * w) 1 0x080 w else e
    | _ => e

/-- What a response meets on its way. -/
def Dev.responseError (d : Dev) (a sub n : Nat) : HubErr → Dev
  | .sameStep => d.inSameStep fun d => d.accessGoesOn a sub n
  | .bridge lane => (d.bridgeError lane).accessFails a sub true
  | .memory w unc =>
    match checkerOf w.toNat with
    | none => d.accessGoesOn a sub n
    | some c =>
      let d := d.wordError c unc
      if !unc then d.accessGoesOn a sub n
      else if c.keeps then (d.setPoison (w.toNat / 8 * 8) true).accessGoesOn a sub n
      else d.accessFails a sub false
  | .logic dom st =>
    let k := dom.val
    (d.raiseFault (if k = 0 then { kind := 28, page := pgKTL, source := st.toNat, info := 0, unit := none }
      else { kind := 21, page := unitPage k, source := k, info := w32 st.toNat, unit := some k })).accessGoesOn a sub n
  | .protocol port detail =>
    (d.raiseFault { kind := 30, page := pgHUB, source := port, info := detail, unit := none }).accessGoesOn a sub n

/-- HUB_RESPONSE. -/
def Dev.hubResponse (d : Dev) (a sub n : Nat) (err : Option HubErr) : Dev :=
  match err with
  | none => d.accessGoesOn a sub n
  | some e => d.responseError a sub n e

/-! ### The commands -/

def execHostMemoryRead (o : BitVec 26) (n : Nat) (s : State) : Host.Outcome State Fault Refusal :=
  s.runIf (decide (n ≤ 4096)) fun d => d.hostRead o.toNat n
def execHostMemoryWrite (o : BitVec 26) (data : List Byte) (ep : Bool) (s : State) : Host.Outcome State Fault Refusal :=
  s.run fun d => d.hostWrite o.toNat data ep
def execDownstreamMemoryRead (p : Fin 6) (id : PeerId) (addr : BitVec 64) (n : Nat) (s : State) :
    Host.Outcome State Fault Refusal :=
  s.runIf (decide (n ≤ 4096)) fun d => d.peerRequest p id addr.toNat (.read n)
def execDownstreamMemoryWrite (p : Fin 6) (id : PeerId) (addr : BitVec 64) (data : List Byte) (ep : Bool) (s : State) :
    Host.Outcome State Fault Refusal :=
  s.run fun d => d.peerRequest p id addr.toNat (.write data ep)
def execDownstreamMessage (p : Fin 6) (s : State) : Host.Outcome State Fault Refusal := s.run fun d => d.peerMessage p
def execHwtEntryWrite (a : Agent) (o : BitVec 19) (data : List Byte) (s : State) : Host.Outcome State Fault Refusal :=
  s.run fun d => d.hwtEntryWrite a o.toNat data
def execHwtQuiesceRead (a : Agent) (s : State) : Host.Outcome State Fault Refusal := s.run fun d => d.rd a pgHWT 0x040
def execDramTrainingComplete (c : Fin 2) (s : State) : Host.Outcome State Fault Refusal := s.run fun d => d.trained c
def execHubResponse (a : Agent) (sub : Fin 256) (beats : Nat) (err : Option HubErr) (s : State) :
    Host.Outcome State Fault Refusal :=
  s.run fun d => d.hubResponse a sub beats err
def execArbiterGrant (arb : ArbName) (present : BitVec 16) (s : State) : Host.Outcome State Fault Refusal :=
  s.run fun d => d.grant arb present

end Sys2Proof.Machine
end

