-- ==== Sys2Proof/Machine/CmdMove.lean ====
section
/-!
DEFINITION. Commands of the data movers, the port FIFOs and the transform engines (chapters 07 to 09).
-/

namespace Sys2Proof.Machine

/-! ### Movers (R254–R276) -/

/-- Page of channel `k` of 128. -/
def chPage (k : Nat) : Nat := pgWDM + k / 16

/-- CH_CFG of a channel is written with one of its bits changed. -/
def Dev.chCfg (d : Dev) (a k bit : Nat) (b : Bool) : Dev := d.wr a (chPage k) (mvOff k 0x08) (withBit (d.mvCfg k) bit b)

/-- A command of mover `m`, unless its unit is fenced or asleep. -/
def Dev.onMover (d : Dev) (m : Nat) (f : Dev → Dev) : Dev := if d.gate (moverDom (m / 2)) = .ok then f d else d

def execMoverChannelEnable (a : Agent) (k : Fin 128) (v : Word) (s : State) : Host.Outcome State Fault Refusal :=
  s.run fun d => d.wr a (chPage k) (mvOff k 0x08) (withBit v 31 true)
def execMoverChannelDisable (a : Agent) (k : Fin 128) (s : State) : Host.Outcome State Fault Refusal :=
  s.run fun d => d.chCfg a k 31 false
def execMoverBrakeSet (a : Agent) (k : Fin 128) (s : State) : Host.Outcome State Fault Refusal := s.run fun d => d.chCfg a k 30 true
def execMoverBrakeRelease (a : Agent) (k : Fin 128) (s : State) : Host.Outcome State Fault Refusal :=
  s.run fun d => d.chCfg a k 30 false
def execMoverTailWrite (a : Agent) (k : Fin 128) (v : Word) (s : State) : Host.Outcome State Fault Refusal :=
  s.run fun d => d.wr a (chPage k) (mvOff k 0x0C) v
def execMoverRunStart (m : Fin 16) (s : State) : Host.Outcome State Fault Refusal :=
  s.run fun d => d.onMover m fun d => d.mvRunStart m
def execMoverDescriptorFetch (m : Fin 16) (s : State) : Host.Outcome State Fault Refusal :=
  s.run fun d => d.onMover m fun d => d.mvFetch m
def execMoverHalfNotice (m : Fin 16) (s : State) : Host.Outcome State Fault Refusal :=
  s.run fun d => d.onMover m fun d => d.mvHalf m
def execMoverDescriptorComplete (m : Fin 16) (s : State) : Host.Outcome State Fault Refusal :=
  s.run fun d => d.onMover m fun d => d.mvComplete m

/-! ### Port FIFOs (R284–R291) -/

/-- Registers of FIFO `f`. -/
def fifOff (f o : Nat) : Nat := 0x100 + 64 * f + o

def execFifoFlush (a : Agent) (f : Fin 32) (s : State) : Host.Outcome State Fault Refusal :=
  s.run fun d => d.wr a pgFIF (fifOff f 0x08) 1
def execFifoDrop (a : Agent) (f : Fin 32) (s : State) : Host.Outcome State Fault Refusal :=
  s.run fun d => d.wr a pgFIF (fifOff f 0x08) 2
def execFifoReadStage (a : Agent) (f : Fin 32) (s : State) : Host.Outcome State Fault Refusal :=
  s.run fun d => d.rd a pgFIF (fifOff f 0x18)
def execFifoEnable (a : Agent) (f : Fin 32) (v : Word) (s : State) : Host.Outcome State Fault Refusal :=
  s.run fun d => d.wr a pgFIF (fifOff f 0x00) (withBit v 31 true)
def execFifoDisable (a : Agent) (f : Fin 32) (s : State) : Host.Outcome State Fault Refusal :=
  s.run fun d => d.wr a pgFIF (fifOff f 0x00) (withBit (d.reg pgFIF (fifOff f 0x00)) 31 false)

/-! ### Transform engines (R297, R313, R319, R409) -/

/-- TRANSFORM_STREAM_ALLOCATE: waiting streams are granted in their order while one can be. -/
def Dev.streamGrants (d : Dev) : Dev := d.allocStreams (d.streamWait.length + 1)

def execTransformStreamAllocate (s : State) : Host.Outcome State Fault Refusal := s.run Dev.streamGrants
def execXdtLoad (a : Agent) (s : State) : Host.Outcome State Fault Refusal := s.run fun d => d.wr a pgXCR 0x044 2
def execXdtStore (a : Agent) (s : State) : Host.Outcome State Fault Refusal := s.run fun d => d.wr a pgXCR 0x044 1
def execKslotWrite (a : Agent) (k : Fin 64) (v : Word) (s : State) : Host.Outcome State Fault Refusal :=
  s.run fun d => d.wr a pgXAE (0x100 + 4 * k) v
def execCaddyWipe (a : Agent) (s : State) : Host.Outcome State Fault Refusal := s.run fun d => d.wr a pgCDY 0x054 1
def execCaddyWipeComplete (s : State) : Host.Outcome State Fault Refusal := s.run Dev.wipeDone

end Sys2Proof.Machine
end

