-- ==== Sys2Proof/Machine/CmdPcie.lean ====
section
/-!
DEFINITION. Commands of the PCIe host link and switch (chapter 17).
-/

namespace Sys2Proof.Machine

/-! ### Completions of upstream reads (R517, R559) -/

/-- A reply of the length asked for, or a failure. -/
def replyFits (r : HostReply) (n : Nat) : Bool := r.status ≠ .ok || r.data.length = n

/-- The reply reaches a channel engine's subchannel: a CCW fetch, a condition word, or data (R145, R102, R419). -/
def Dev.subReply (d : Dev) (i : Nat) (r : HostReply) : Dev :=
  let x := d.ctx i
  if d.fetchesHost i then
    if replyFits r 32 ∧ d.activeSub (i / 256) = some i then (d.hostEnds i r).fetchComplete (i / 256) (some r) else d
  else match x.hostReq with
    | none => d
    | some (_, n) =>
      if !(x.phase = .flush) ∧ !replyFits r n then d
      else if x.phase ≠ .flush ∧ (x.ccw.op = 0x09 ∨ x.ccw.op = 0x0A) then (d.hostEnds i r).conditionHost i (some r)
      else (d.hostEnds i r).engineHost i r

/-- The reply reaches a mover: data, or the read that flushes its writes (R269). -/
def Dev.moverReply (d : Dev) (m : Nat) (r : HostReply) : Dev :=
  match (d.mover m).cur with
  | none => d
  | some x =>
    match x.hostReq with
    | none => d
    | some (_, n) => if x.flushTo.isSome ∨ replyFits r n then (d.hostEnds (4096 + m) r).mvHost m r else d

/-- HOST_COMPLETION_RECEIVED for an agent, and the subchannel of an engine. -/
def Dev.hostCompletion (d : Dev) (a sub : Nat) (r : HostReply) : Dev :=
  if 0x50 ≤ a ∧ a < 0x60 then
    if d.gate (ceDom (a - 0x50)) = .ok then d.subReply ((a - 0x50) * 256 + sub) r else d
  else if 0x60 ≤ a ∧ a < 0x70 then
    if d.gate (moverDom ((a - 0x60) / 2)) = .ok then d.moverReply (a - 0x60) r else d
  else if 1 ≤ a ∧ a ≤ 0x41 then d.loadArrives (a - 1) (some r)
  else if a = agDebug then d.dapHost r
  else d

/-- The completion that a timed-out read is taken for (R559). -/
def timedOut : HostReply := { status := .timeout, data := [] }

/-! ### Links (R522–R524) -/

/-- A downstream link comes up: its port's reset is released. -/
def Dev.downLinkUp (d : Dev) (p width speed : Nat) : Dev :=
  if d.rb (pgPDN + p) 0x040 31 then d.linkUp p width speed else d

/-- The upstream link reaches L0; it does not train while PERST_N is asserted (R497). -/
def Dev.upLinkUp (d : Dev) (width speed : Nat) : Dev := if d.links.perst then d else d.linkUp 6 width speed

/-- A downstream link that is up goes down. -/
def Dev.downLinkDown (d : Dev) (p : Nat) : Dev := if d.linkActive p then d.linkDrop p else d

/-- WAKE_N of a port. -/
def Dev.wakePin (d : Dev) (p : Nat) (low : Bool) : Dev := (d.setRf (pgPDN + p) 0x044 16 1 (b2n low)).syncLinks

/-- CLKREQ_N as the far end of a port drives it; its assertion brings the link back to L0. -/
def Dev.clkreqPin (d : Dev) (p : Nat) (low : Bool) : Dev :=
  let d := d.setRf (pgPDN + p) 0x044 17 1 (b2n low)
  if low then d.linkWake p else d

def execHostCompletionReceived (a : Agent) (sub : Fin 256) (reply_ : HostReply) (s : State) : Host.Outcome State Fault Refusal :=
  s.run fun d => d.hostCompletion a sub reply_
def execUpstreamCompletionTimeout (a : Agent) (sub : Fin 256) (s : State) : Host.Outcome State Fault Refusal :=
  s.run fun d => d.hostCompletion a sub timedOut
def execHostRequestThroughSwitch (addr : BitVec 64) (req : MemReq) (s : State) : Host.Outcome State Fault Refusal :=
  s.run fun d => d.hostRequest addr.toNat req
def execDownstreamCompletion (p : Fin 6) (dest : Option (Fin 6)) (n : Nat) (s : State) : Host.Outcome State Fault Refusal :=
  s.run fun d => d.peerCompletion p (dest.map (·.val)) n
def execDownstreamLinkUp (p : Fin 6) (width speed : Fin 16) (s : State) : Host.Outcome State Fault Refusal :=
  s.run fun d => d.downLinkUp p width speed
def execDownstreamLinkDown (p : Fin 6) (s : State) : Host.Outcome State Fault Refusal := s.run fun d => d.downLinkDown p
def execDownstreamWake (p : Fin 6) (s : State) : Host.Outcome State Fault Refusal := s.run fun d => d.wakePin p true
def execDownstreamWakeRelease (p : Fin 6) (s : State) : Host.Outcome State Fault Refusal := s.run fun d => d.wakePin p false
def execDownstreamClkreq (p : Fin 6) (low : Bool) (s : State) : Host.Outcome State Fault Refusal := s.run fun d => d.clkreqPin p low
def execUpstreamLinkL0 (width speed : Fin 16) (s : State) : Host.Outcome State Fault Refusal := s.run fun d => d.upLinkUp width speed
def execLinkL1Entry (port : Fin 7) (state : Fin 3) (s : State) : Host.Outcome State Fault Refusal := s.run fun d => d.linkL1 port state
def execLaneMarginRun (a : Agent) (l : Fin 16) (v : Word) (s : State) : Host.Outcome State Fault Refusal :=
  s.run fun d => d.wr a pgPHY (lmargOff l) v
def execLaneMarginDone (l : Fin 16) (steps errors : Fin 256) (s : State) : Host.Outcome State Fault Refusal :=
  s.run fun d => d.marginDone l steps errors
def execPhyRecalibrate (a : Agent) (q : Fin 4) (s : State) : Host.Outcome State Fault Refusal :=
  s.run fun d => d.wr a pgPHY (0x100 + 32 * q) 1
def execPcieErrorDetected (port : Fin 7) (err : PcieError) (s : State) : Host.Outcome State Fault Refusal :=
  s.run fun d => d.pcieError port err

end Sys2Proof.Machine
end

