-- ==== Sys2Proof/Machine/CmdPort.lean ====
section
/-!
DEFINITION. Commands of the device adapters and the ports (chapter 05).
-/

namespace Sys2Proof.Machine

/-! ### Lent queues (R184–R198) and the PCIe memory adapter (R203) -/

def execLend (a : Agent) (q : Fin 32) (s : State) : Host.Outcome State Fault Refusal :=
  s.run fun d => d.wr a pgNVA (lqOff q 0x00) 1
def execRevoke (a : Agent) (q : Fin 32) (s : State) : Host.Outcome State Fault Refusal :=
  s.run fun d => d.wr a pgNVA (lqOff q 0x00) 2
def execNvmeCqScan (q : Fin 32) (s : State) : Host.Outcome State Fault Refusal := s.run fun d => d.nvmeScan q
def execNvmeCommandTimeout (c : Counts) (q : Fin 32) (s : State) : Host.Outcome State Fault Refusal :=
  s.run fun d => (d.atCounts c).nvmeTimeout q
def execPciememCompletionTimeout (n : Fin 16) (sub : Fin 256) (idx : Nat) (s : State) : Host.Outcome State Fault Refusal :=
  s.run fun d => d.pcieTimeout n sub idx
def execPortDataRequest (n : Fin 16) (sub : Fin 256) (take : Fin 257) (data : List Byte) (s : State) :
    Host.Outcome State Fault Refusal :=
  s.run fun d => d.portRequest (256 * n + sub) take data

/-! ### UARTs (R208–R214), SPI in target role (R216), I3C (R217, R218) -/

def execUartCharacterReceived (u : Fin 4) (b : Byte) (framing parity : Bool) (s : State) : Host.Outcome State Fault Refusal :=
  s.run fun d => d.uartChar u b framing parity
def execUartBreak (u : Fin 4) (s : State) : Host.Outcome State Fault Refusal := s.run fun d => d.uartBreak u
def execUartBreakEnd (u : Fin 4) (s : State) : Host.Outcome State Fault Refusal := s.run fun d => d.uartBreakEnd u
def execUartIdleGap (u : Fin 4) (s : State) : Host.Outcome State Fault Refusal := s.run fun d => d.uartIdleGap u
def execUartPacketGap (u : Fin 4) (s : State) : Host.Outcome State Fault Refusal := s.run fun d => d.uartPacketGap u
def execSpiTargetSelect (p : Fin 4) (s : State) : Host.Outcome State Fault Refusal := s.run fun d => d.spiSelect p
def execSpiTargetItem (p : Fin 4) (v : Word) (s : State) : Host.Outcome State Fault Refusal := s.run fun d => d.spiItem p v
def execSpiTargetDeselect (p : Fin 4) (partialItem : Bool) (s : State) : Host.Outcome State Fault Refusal :=
  s.run fun d => d.spiDeselect p partialItem

def execI3cDaa (a : Agent) (c : Fin 6) (acked : BitVec 11) (answers : Fin 12) (s : State) : Host.Outcome State Fault Refusal :=
  s.run fun d => d.daaRun a c acked answers
def execI3cIbi (c : Fin 6) (addr : BitVec 7) (payload : List Byte) (s : State) : Host.Outcome State Fault Refusal :=
  s.run fun d => d.i3cIbi c addr.toNat payload
def execReadI3cIbiHi (a : Agent) (c : Fin 6) (s : State) : Host.Outcome State Fault Refusal :=
  s.run fun d => d.rd a pgI3C (i3cOff c 0x1C)
def execI3cBusError (c : Fin 6) (s : State) : Host.Outcome State Fault Refusal := s.run fun d => d.i3cBusError c

/-! ### GPIO (R220, R221) -/

def execGpioLevelChange (k : Fin 32) (v : Bool) (s : State) : Host.Outcome State Fault Refusal := s.run fun d => d.gpioChange k v
def execGpioDebounceExpiry (c : Counts) (k : Fin 32) (s : State) : Host.Outcome State Fault Refusal :=
  s.run fun d => (d.atCounts c).gpioDebounce k
def execGpioOutSet (a : Agent) (v : Word) (s : State) : Host.Outcome State Fault Refusal := s.run fun d => d.wr a pgGPI 0x04C v
def execGpioOutClr (a : Agent) (v : Word) (s : State) : Host.Outcome State Fault Refusal := s.run fun d => d.wr a pgGPI 0x050 v

/-! ### The EC target port (R222, R223, R251) -/

def execEcPrivateRead (n : Fin 34) (s : State) : Host.Outcome State Fault Refusal := s.run fun d => d.ecRead n
def execEcPrivateWrite (bs : List Byte) (s : State) : Host.Outcome State Fault Refusal := s.run fun d => d.ecWrite bs

/-- SETDASA and ENTDAA give an address to a port that has none; a supported CCC. -/
def Dev.ecAssign (d : Dev) (code : Nat) (addr : BitVec 7) : Dev :=
  d.ecpCcc code fun d => if d.ecpDyn = 0 then d.ecpAddr addr.toNat else d

/-- A direct CCC is one to the port's dynamic address. -/
def Dev.ecDirect (d : Dev) (code : Nat) (f : Dev → Dev) : Dev := if d.ecpDyn = 0 then d else d.ecpCcc code f

/-- What a GET CCC returns, one byte a word, most significant byte first (log 16). -/
def Dev.ecGet (d : Dev) (code : Nat) (bs : Dev → List Nat) : Dev := d.ecDirect code fun d => d.respond ((bs d).map w32)

/-- RSTDAA drops the dynamic address. -/
def Dev.ecReset (d : Dev) : Dev := d.ecpCcc 0x06 fun d => if d.ecpDyn = 0 then d else d.ecpAddr 0

/-- ENEC and DISEC: bit 0 names in-band interrupts; `code` is that of the broadcast form. -/
def Dev.ecEvents (d : Dev) (code : Nat) (direct off : Bool) (bits : Byte) : Dev :=
  let f := fun (d : Dev) => if bitAt bits 0 then { d with ecp := { d.ecp with disec := off } } else d
  if direct then d.ecDirect (code + 0x80) f else d.ecpCcc code f

/-- The bytes of PID, most significant first. -/
def Dev.ecPid (d : Dev) : List Nat :=
  let lo := d.reg pgECP 0x048
  let hi := d.reg pgECP 0x04C
  [fld hi 8 8, fld hi 0 8, fld lo 24 8, fld lo 16 8, fld lo 8 8, fld lo 0 8]

/-- Any other CCC is answered with NACK and counted in ERRORS. -/
def Dev.ecUnsupported (d : Dev) (code : Nat) : Dev := d.ecpCcc code fun d => d.ecpCount 0x068 4

def execSetdasa (addr : BitVec 7) (s : State) : Host.Outcome State Fault Refusal := s.run fun d => d.ecAssign 0x87 addr
def execEntdaa (addr : BitVec 7) (s : State) : Host.Outcome State Fault Refusal := s.run fun d => d.ecAssign 0x07 addr
def execRstdaa (s : State) : Host.Outcome State Fault Refusal := s.run Dev.ecReset
def execEnec (direct : Bool) (bits : Byte) (s : State) : Host.Outcome State Fault Refusal :=
  s.run fun d => d.ecEvents 0x00 direct false bits
def execDisec (direct : Bool) (bits : Byte) (s : State) : Host.Outcome State Fault Refusal :=
  s.run fun d => d.ecEvents 0x01 direct true bits
def execGetpid (s : State) : Host.Outcome State Fault Refusal := s.run fun d => d.ecGet 0x8D Dev.ecPid
def execGetbcr (s : State) : Host.Outcome State Fault Refusal := s.run fun d => d.ecGet 0x8E fun d => [d.rf pgECP 0x050 8 8]
def execGetdcr (s : State) : Host.Outcome State Fault Refusal := s.run fun d => d.ecGet 0x8F fun d => [d.rf pgECP 0x050 0 8]
def execGetmrl (s : State) : Host.Outcome State Fault Refusal :=
  s.run fun d => d.ecGet 0x8C fun d => [d.rf pgECP 0x078 8 8, d.rf pgECP 0x078 0 8]
def execEcUnsupportedCcc (code : Byte) (s : State) : Host.Outcome State Fault Refusal := s.run fun d => d.ecUnsupported code.toNat
def execEcIbiRaise (ack : Bool) (s : State) : Host.Outcome State Fault Refusal := s.run fun d => d.ecIbi ack

/-! ### CALL_SPOKE's timeout (R118) -/

/-- The wake list entry of a subchannel that waits for a spoke core's reply is reached. -/
def Dev.callTimeout (d : Dev) (i : Nat) : Dev :=
  match d.wl.find? fun e => wlMine .subch i e && reached d.now e.target with
  | some e => if (d.scb i).state = .waiting ∧ (d.scb i).cause = .spoke then d.wlExpire e else d
  | none => d

def execCallSpokeTimeout (c : Counts) (n : Fin 16) (sub : Fin 256) (s : State) : Host.Outcome State Fault Refusal :=
  s.run fun d => (d.atCounts c).callTimeout (256 * n + sub)

end Sys2Proof.Machine
end

