-- ==== Sys2Proof/Machine/CmdPost.lean ====
section
/-!
DEFINITION. Commands of status posting and polling (chapter 06).
-/

namespace Sys2Proof.Machine

/-- Registers of ring `i` in page HIF. -/
def rcfgOff (i : Nat) : Nat := 0x600 + 4 * i
def rconsOff (i : Nat) : Nat := 0xE00 + 4 * i

/-- MODERATION_TIME_EXPIRY: a batch starts where the oldest record has waited MOD_TIME (R235). -/
def Dev.modExpiry (d : Dev) (i : Nat) : Dev := if d.mirrorReady i ∧ d.modTimeDue i then d.mirrorBatch i else d

/-- MIRROR_BATCH: a batch that some condition of R235 calls for. -/
def Dev.batchDue (d : Dev) (i : Nat) : Dev := if d.mirrorDue i then d.mirrorBatch i else d

/-- NEXT_POLL_REACHED: the declared time lapses as a known event (R243). -/
def Dev.pollLapse (d : Dev) : Dev :=
  if d.hif.nextPoll ≠ 0 ∧ reached d.now d.hif.nextPoll then { d with hif := { d.hif with pollReached := true } } else d

/-- MIRROR_FLUSH: with the upstream link in L0, a ring at a time (R240). -/
def Dev.flushRing (d : Dev) : Dev := if d.linkActive 6 ∧ d.pmState 6 = 0 then d.flushStep else d

def execRingEnable (a : Agent) (i : Fin 128) (v : Word) (s : State) : Host.Outcome State Fault Refusal :=
  s.run fun d => d.wr a pgHIF (rcfgOff i) (withBit v 31 true)
def execRingDisable (a : Agent) (i : Fin 128) (s : State) : Host.Outcome State Fault Refusal :=
  s.run fun d => d.wr a pgHIF (rcfgOff i) (withBit (d.reg pgHIF (rcfgOff i)) 31 false)
def execRingConsumerWrite (a : Agent) (i : Fin 128) (v : Word) (s : State) : Host.Outcome State Fault Refusal :=
  s.run fun d => d.wr a pgHIF (rconsOff i) v
def execModerationTimeExpiry (c : Counts) (i : Fin 128) (s : State) : Host.Outcome State Fault Refusal :=
  s.run fun d => (d.atCounts c).modExpiry i
def execMirrorBatch (i : Fin 128) (s : State) : Host.Outcome State Fault Refusal := s.run fun d => d.batchDue i
def execMerrClear (a : Agent) (j : Fin 4) (bits : Word) (s : State) : Host.Outcome State Fault Refusal :=
  s.run fun d => d.wr a pgHIF (0x070 + 4 * j) bits
def execHostAsleep (a : Agent) (s : State) : Host.Outcome State Fault Refusal := s.run fun d => d.wr a pgHIF 0x040 0
def execHostAwake (a : Agent) (s : State) : Host.Outcome State Fault Refusal := s.run fun d => d.wr a pgHIF 0x040 1
def execMirrorFlush (s : State) : Host.Outcome State Fault Refusal := s.run Dev.flushRing
def execNextPollDeclare (a : Agent) (hi : Word) (s : State) : Host.Outcome State Fault Refusal := s.run fun d => d.wr a pgHIF 0x04C hi
def execNextPollReached (c : Counts) (s : State) : Host.Outcome State Fault Refusal := s.run fun d => (d.atCounts c).pollLapse
def execPollPageRead (c : Counts) (o : BitVec 16) (n : Fin 33) (s : State) : Host.Outcome State Fault Refusal :=
  s.run fun d => (d.atCounts c).bar2Read o.toNat n

end Sys2Proof.Machine
end

