-- ==== Sys2Proof/Machine/CmdPower.lean ====
section
/-!
DEFINITION. Commands of the power domains and of fault handling (chapters 14 and 15).
-/

namespace Sys2Proof.Machine

/-- PWD.CTRL of a domain. -/
def ctrlOff (k : Nat) : Nat := 0x100 + 16 * k

/-- A bit of PWD.CTRL is written 1 with the floor in force (R458). -/
def Dev.pwdCtrl (d : Dev) (a k bit : Nat) : Dev := d.wr a pgPWD (ctrlOff k) (withBit (d.reg pgPWD (ctrlOff k)) bit true)

/-- PG_CTRL with one of its two bits changed; an EN = 1 that waits for draining to end stays asked for (R168, R536). -/
def Dev.pgCtrlBit (d : Dev) (a p bit : Nat) (b : Bool) : Dev :=
  d.wr a p 0x008 (withBit (withBit (d.reg p 0x008) 0 (d.rb p 0x008 0 || d.enPend.contains p)) bit b)

/-- WFLT_CTRL.RECOVER is written 1 with the limit in force (R480). -/
def Dev.wheelRecover (d : Dev) (a w : Nat) : Dev := d.wr a (pgWARB + w) 0x400 (withBit (d.reg (pgWARB + w) 0x400) 31 true)

def execIdleHoldExpiry (k : Fin 152) (s : State) : Host.Outcome State Fault Refusal := s.run fun d => d.idleHold k
def execDerailleurEvaluation (c : Counts) (k : Fin 152) (s : State) : Host.Outcome State Fault Refusal :=
  s.run fun d => (d.atCounts c).evaluate k
def execScheduledWake (c : Counts) (k : Fin 152) (s : State) : Host.Outcome State Fault Refusal :=
  s.run fun d => (d.atCounts c).scheduledWake k
def execScheduleSlotReached (c : Counts) (slot : Fin 32) (s : State) : Host.Outcome State Fault Refusal :=
  s.run fun d => (d.atCounts c).slotReached slot
def execDomainEntryStepComplete (k : Fin 152) (pj : Option Nat) (s : State) : Host.Outcome State Fault Refusal :=
  s.run fun d => d.entryStep k pj
def execDomainExitComplete (c : Counts) (k : Fin 152) (lat : Nat) (pj : List (Option Nat)) (s : State) :
    Host.Outcome State Fault Refusal :=
  s.run fun d => (d.atCounts c).exitComplete k lat pj
def execDomainCycle (a : Agent) (k : Fin 152) (s : State) : Host.Outcome State Fault Refusal := s.run fun d => d.pwdCtrl a k 31
def execDomainReset (a : Agent) (k : Fin 152) (s : State) : Host.Outcome State Fault Refusal := s.run fun d => d.pwdCtrl a k 30
def execEstLatWrite (a : Agent) (v : Word) (s : State) : Host.Outcome State Fault Refusal := s.run fun d => d.wr a pgPWD 0x044 v
def execEstEinWrite (a : Agent) (v : Word) (s : State) : Host.Outcome State Fault Refusal := s.run fun d => d.wr a pgPWD 0x048 v
def execEstEoutWrite (a : Agent) (v : Word) (s : State) : Host.Outcome State Fault Refusal := s.run fun d => d.wr a pgPWD 0x04C v
def execPmicWrite (s : State) : Host.Outcome State Fault Refusal := s.run Dev.pmicWrite
def execPmicWriteComplete (ack : Bool) (s : State) : Host.Outcome State Fault Refusal := s.run fun d => d.pmicDone ack
def execPmicSettleExpiry (s : State) : Host.Outcome State Fault Refusal := s.run Dev.pmicSettled

/-- THERMAL_SAMPLE; four raw readings for each of the nine regions. -/
def execThermalSample (raw : List (BitVec 16)) (s : State) : Host.Outcome State Fault Refusal :=
  s.runIf (raw.length = 36) fun d => d.thermalSample raw
def execHandshakeTimeout (k : Fin 152) (stage : Word) (s : State) : Host.Outcome State Fault Refusal :=
  s.run fun d => d.handshakeTimeout k stage
def execLdoRegulationFault (r : Fin 9) (mv : Nat) (s : State) : Host.Outcome State Fault Refusal :=
  s.run fun d => d.ldoFault r mv

def execPageDrain (a : Agent) (p : Fin 96) (s : State) : Host.Outcome State Fault Refusal := s.run fun d => d.pgCtrlBit a p 0 false
def execPageEnable (a : Agent) (p : Fin 96) (s : State) : Host.Outcome State Fault Refusal := s.run fun d => d.pgCtrlBit a p 0 true
def execFenceRequest (a : Agent) (p : Fin 96) (s : State) : Host.Outcome State Fault Refusal :=
  s.run fun d => d.pgCtrlBit a p 1 true
def execFenceRequestRelease (a : Agent) (p : Fin 96) (s : State) : Host.Outcome State Fault Refusal :=
  s.run fun d => d.pgCtrlBit a p 1 false
def execCaptureClear (a : Agent) (p : Fin 96) (s : State) : Host.Outcome State Fault Refusal :=
  s.run fun d => d.wr a p 0x020 0x80000000
def execFaultLogConsume (a : Agent) (v : Word) (s : State) : Host.Outcome State Fault Refusal := s.run fun d => d.wr a pgFLT 0x04C v
def execErrorInject (a : Agent) (p : Fin 96) (v : Word) (s : State) : Host.Outcome State Fault Refusal :=
  s.run fun d => d.wr a p 0x02C v
def execWheelSteepExpiry (c : Counts) (w : Fin 8) (s : State) : Host.Outcome State Fault Refusal :=
  s.run fun d => (d.atCounts c).steepExpiry w
def execWheelRecover (a : Agent) (w : Fin 8) (s : State) : Host.Outcome State Fault Refusal := s.run fun d => d.wheelRecover a w
def execWheelRecoveryComplete (w : Fin 8) (s : State) : Host.Outcome State Fault Refusal := s.run fun d => d.recoverDone w

/-- RAIL_FAULT; the rails are numbered from 1 (R545). -/
def execRailFault (rail : Fin 5) (s : State) : Host.Outcome State Fault Refusal := s.run fun d => d.railFault (rail + 1)
def execTamperEvent (bit_ : Fin 5) (s : State) : Host.Outcome State Fault Refusal := s.run fun d => d.tamper bit_

end Sys2Proof.Machine
end

