-- ==== Sys2Proof/Machine/CmdReg.lean ====
section
/-!
DEFINITION. Commands of the register pages (chapter 18).
-/

namespace Sys2Proof.Machine

def execPageCommit (a : Agent) (p : Fin 96) (v : Word) (s : State) : Host.Outcome State Fault Refusal :=
  s.run fun d => d.wr a p 0x034 v
def execPgEvtSet (a : Agent) (p : Fin 96) (v : Word) (s : State) : Host.Outcome State Fault Refusal :=
  s.run fun d => d.wr a p 0x014 v
def execPgEvtClr (a : Agent) (p : Fin 96) (v : Word) (s : State) : Host.Outcome State Fault Refusal :=
  s.run fun d => d.wr a p 0x018 v
def execPageLock (a : Agent) (p : Fin 96) (v : Word) (s : State) : Host.Outcome State Fault Refusal :=
  s.run fun d => d.wr a p 0x03C v
def execRegisterWrite (a : Agent) (p : Fin 96) (i : Fin 1024) (v : Word) (s : State) : Host.Outcome State Fault Refusal :=
  s.run fun d => d.wr a p (4 * i) v
def execRegisterRead (a : Agent) (p : Fin 96) (i : Fin 1024) (s : State) : Host.Outcome State Fault Refusal :=
  s.run fun d => d.rd a p (4 * i)
def execReadUartRxBytesLo (a : Agent) (u : Fin 4) (s : State) : Host.Outcome State Fault Refusal :=
  s.run fun d => d.rd a pgUAR (uarOff u 0x20)
def execReadUartTxBytesLo (a : Agent) (u : Fin 4) (s : State) : Host.Outcome State Fault Refusal :=
  s.run fun d => d.rd a pgUAR (uarOff u 0x28)
def execReadSpiTxBytesLo (a : Agent) (s_ : Fin 4) (s : State) : Host.Outcome State Fault Refusal :=
  s.run fun d => d.rd a pgSPI (spiOff s_ 0x20)
def execReadSpiRxBytesLo (a : Agent) (s_ : Fin 4) (s : State) : Host.Outcome State Fault Refusal :=
  s.run fun d => d.rd a pgSPI (spiOff s_ 0x28)
def execReadChBytesLo (a : Agent) (k : Fin 128) (s : State) : Host.Outcome State Fault Refusal :=
  s.run fun d => d.rd a (chPage k) (mvOff k 0x18)
def execReadXupLo (a : Agent) (s : State) : Host.Outcome State Fault Refusal := s.run fun d => d.rd a pgBRG 0x04C
def execReadXdnLo (a : Agent) (s : State) : Host.Outcome State Fault Refusal := s.run fun d => d.rd a pgBRG 0x054

end Sys2Proof.Machine
end

