-- ==== Sys2Proof/Machine/CmdTime.lean ====
section
/-!
DEFINITION. Commands of time, energy and device arithmetic (chapter 02).
-/

namespace Sys2Proof.Machine

/-! ### The pacer (R39–R56) -/

def execCrystalEdge (c : Counts) (s : State) : Host.Outcome State Fault Refusal := s.run fun d => d.crystalEdge c
def execCrystalMissing (c : Counts) (s : State) : Host.Outcome State Fault Refusal := s.run fun d => d.crystalMissing c
def execSyntheticBoundary (c : Counts) (s : State) : Host.Outcome State Fault Refusal := s.run fun d => d.syntheticBoundary c
def execHoldoverExpiry (c : Counts) (s : State) : Host.Outcome State Fault Refusal := s.run fun d => d.holdoverExpiry c
def execReadDtLo (a : Agent) (c : Counts) (s : State) : Host.Outcome State Fault Refusal :=
  s.run fun d => (d.atCounts c).rd a pgPCR 0x048
def execReadHostOfsLo (a : Agent) (s : State) : Host.Outcome State Fault Refusal := s.run fun d => d.rd a pgPCR 0x058
def execReadWlHeadLo (a : Agent) (s : State) : Host.Outcome State Fault Refusal := s.run fun d => d.rd a pgPCR 0x068

/-- A PTM dialogue starts under the conditions of R48 and R527; it brings the upstream link to L0 (R524). -/
def Dev.ptmStart (d : Dev) : Dev :=
  if d.src_ = 3 ∧ d.rb pgPCR 0x040 2 ∧ bitAt (d.cfgHeld cfEp 0x56) 0 ∧ d.awakeHost ∧ d.linkActive 6 ∧ !d.pacer.ptmBusy then
    let d := d.linkWake 6
    { d with pacer := { d.pacer with ptmBusy := true } }
  else d

/-- PTM_VALID lapses (R527); the next pair is a first one (R49). -/
def Dev.ptmLapse (d : Dev) : Dev :=
  if d.pacer.ptmValid then { d with pacer := { d.pacer with ptmValid := false, ptmFirst := true } } else d

def execPtmDialogueStart (s : State) : Host.Outcome State Fault Refusal := s.run Dev.ptmStart
def execPtmDialogueComplete (ns : BitVec 64) (dd rtt : DT) (s : State) : Host.Outcome State Fault Refusal :=
  s.run fun d => d.ptmComplete ns dd rtt
def execPtmValidLapse (s : State) : Host.Outcome State Fault Refusal := s.run Dev.ptmLapse
def execWakeListExpiry (c : Counts) (s : State) : Host.Outcome State Fault Refusal := s.run fun d => d.wakeListExpiry c

/-! ### Ledger and governor (R57–R74) -/

/-- The events that only time makes (R57, R416): of a trained link its lane-ns in L0 or its lane-µs in L1, of a channel of LPDDR5X that is
on its ns active and its refresh commands. How many passed since the last fold is a free value each (log 11, log 24). -/
def Dev.timedEvents (d : Dev) : List (Nat × Nat) :=
  (List.range 7).flatMap (fun p => if d.linkActive p then [(if p = 6 then 1 else 2, if d.pmState p = 0 then 0 else 1)] else []) ++
    [26, 27].flatMap fun k => if d.gate k = .ok then [(4, 2), (4, 3)] else []

/-- What time alone counts goes to its region's unattributed tag. -/
def Dev.countTimed (d : Dev) : Dev :=
  d.timedEvents.foldl (fun d e => let f := d.free; f.2.count e.1 e.2 tagOwn (fld f.1 0 32)) d

/-- LEDGER_FOLD: every region folds (R60, R61). -/
def Dev.ledgerFold (d : Dev) : Dev := d.countTimed.regionFold

/-- CALIBRATION_SECOND: a gain outside its range is a class C fault (R67). -/
def Dev.calibrate (d : Dev) : Dev :=
  match d.calSecond with
  | (d, some g) => d.raiseFault { kind := 14, page := pgLDG, source := 0, info := w32 g, unit := none }
  | (d, none) => d

def execLedgerFold (s : State) : Host.Outcome State Fault Refusal := s.run Dev.ledgerFold
def execReadTagLo (a : Agent) (s : State) : Host.Outcome State Fault Refusal := s.run fun d => d.rd a pgLDG 0x048
def execReadPkgLo (a : Agent) (s : State) : Host.Outcome State Fault Refusal := s.run fun d => d.rd a pgLDG 0x054
def execShuntSample (code : BitVec 12) (s : State) : Host.Outcome State Fault Refusal := s.run fun d => d.shuntSample code
def execCalibrationSecond (s : State) : Host.Outcome State Fault Refusal := s.run Dev.calibrate
def execGovernorTick (s : State) : Host.Outcome State Fault Refusal := s.run Dev.governorTick

end Sys2Proof.Machine
end

