-- ==== Sys2Proof/Machine/CmdWheel.lean ====
section
/-!
DEFINITION. Commands of the wheel interrupts, mailboxes and locks (chapter 11).
-/

namespace Sys2Proof.Machine

/-- Register `j` of a source word of page WICU (0 PEND_SET, 1 PEND_CLR, 2 MASK_SET, 3 MASK_CLR). -/
def bankOff (j : Nat) : SrcBank → Nat
  | .priv c => 0x100 + 0x40 * c + (match j with | 0 => 0x10 | 1 => 0x14 | 2 => 0x1C | _ => 0x20)
  | .shared i => 0xF00 + (match j with | 0 => 0x20 | 1 => 0x40 | 2 => 0x80 | _ => 0xA0) + 4 * i

/-- SRC_CFG of a source. -/
def srcOff : SrcName → Nat
  | .priv c i => 0x300 + 0x80 * c + 4 * i
  | .shared i => 0x700 + 4 * i

/-- Page and offset of a lock (R382, R386). -/
def lockPage : LockName → Nat × Nat
  | .wheel w k => (pgWMBX + w, 0x300 + 4 * k)
  | .global k => (pgKTL, 0x300 + 4 * k)

/-- EVENT_ARRIVAL: an occurrence of an event (R361). -/
def execEventArrival (e : Fin 1024) (s : State) : Host.Outcome State Fault Refusal := s.run fun d => d.raiseEvent e
def execWicuClaim (k : Fin 65) (s : State) : Host.Outcome State Fault Refusal := s.run fun d => d.claimRead k
def execWicuComplete (k : Fin 65) (src n : Byte) (s : State) : Host.Outcome State Fault Refusal :=
  s.run fun d => d.completeStore k src n
def execPendSet (a : Agent) (w : Fin 8) (bank : SrcBank) (bits : Word) (s : State) : Host.Outcome State Fault Refusal :=
  s.run fun d => d.wr a (pgWICU + w) (bankOff 0 bank) bits
def execPendClr (a : Agent) (w : Fin 8) (bank : SrcBank) (bits : Word) (s : State) : Host.Outcome State Fault Refusal :=
  s.run fun d => d.wr a (pgWICU + w) (bankOff 1 bank) bits
def execMaskSet (a : Agent) (w : Fin 8) (bank : SrcBank) (bits : Word) (s : State) : Host.Outcome State Fault Refusal :=
  s.run fun d => d.wr a (pgWICU + w) (bankOff 2 bank) bits
def execMaskClr (a : Agent) (w : Fin 8) (bank : SrcBank) (bits : Word) (s : State) : Host.Outcome State Fault Refusal :=
  s.run fun d => d.wr a (pgWICU + w) (bankOff 3 bank) bits
def execSrcCfgWrite (a : Agent) (w : Fin 8) (src : SrcName) (v : Word) (s : State) : Host.Outcome State Fault Refusal :=
  s.run fun d => d.wr a (pgWICU + w) (srcOff src) v
def execMailboxPost (a : Agent) (w : Fin 8) (m : Fin 16) (c : Fin 8) (s : State) : Host.Outcome State Fault Refusal :=
  s.run fun d => d.wr a (pgWMBX + w) 0x040 (w32 (fput 8 3 c + m))
def execRelease (a : Agent) (w : Fin 8) (m : Fin 16) (s : State) : Host.Outcome State Fault Refusal :=
  s.run fun d => d.wr a (pgWMBX + w) (0x10C + 32 * m) 1
def execReply (a : Agent) (w : Fin 8) (m : Fin 16) (s : State) : Host.Outcome State Fault Refusal :=
  s.run fun d => d.wr a (pgWMBX + w) (0x10C + 32 * m) 2
def execLockAcquireRead (a : Agent) (lock : LockName) (s : State) : Host.Outcome State Fault Refusal :=
  s.run fun d => d.rd a (lockPage lock).1 (lockPage lock).2
def execLockRelease (a : Agent) (lock : LockName) (v : Word) (s : State) : Host.Outcome State Fault Refusal :=
  s.run fun d => d.wr a (lockPage lock).1 (lockPage lock).2 v

end Sys2Proof.Machine
end

