-- ==== Sys2Proof/Machine/Dispatch.lean ====
section
/-!
DEFINITION. The meaning of each command: one arm per constructor.
-/

namespace Sys2Proof.Machine

def exec (i : Instr) (s : State) : Host.Outcome State Fault Refusal :=
  match i with
  | .crystalEdge c => Sys2Proof.Machine.execCrystalEdge c s
  | .crystalMissing c => Sys2Proof.Machine.execCrystalMissing c s
  | .syntheticBoundary c => Sys2Proof.Machine.execSyntheticBoundary c s
  | .holdoverExpiry c => Sys2Proof.Machine.execHoldoverExpiry c s
  | .readDtLo a c => Sys2Proof.Machine.execReadDtLo a c s
  | .readHostOfsLo a => Sys2Proof.Machine.execReadHostOfsLo a s
  | .readWlHeadLo a => Sys2Proof.Machine.execReadWlHeadLo a s
  | .ptmDialogueStart => Sys2Proof.Machine.execPtmDialogueStart s
  | .ptmDialogueComplete ns d rtt => Sys2Proof.Machine.execPtmDialogueComplete ns d rtt s
  | .ptmValidLapse => Sys2Proof.Machine.execPtmValidLapse s
  | .wakeListExpiry c => Sys2Proof.Machine.execWakeListExpiry c s
  | .ledgerFold => Sys2Proof.Machine.execLedgerFold s
  | .readTagLo a => Sys2Proof.Machine.execReadTagLo a s
  | .readPkgLo a => Sys2Proof.Machine.execReadPkgLo a s
  | .shuntSample code => Sys2Proof.Machine.execShuntSample code s
  | .calibrationSecond => Sys2Proof.Machine.execCalibrationSecond s
  | .governorTick => Sys2Proof.Machine.execGovernorTick s
  | .start a n sub => Sys2Proof.Machine.execStart a n sub s
  | .resume a n sub => Sys2Proof.Machine.execResume a n sub s
  | .halt a n sub => Sys2Proof.Machine.execHalt a n sub s
  | .suspendReq a n sub => Sys2Proof.Machine.execSuspendReq a n sub s
  | .clear a n sub => Sys2Proof.Machine.execClear a n sub s
  | .scbWindowWrite a n k v => Sys2Proof.Machine.execScbWindowWrite a n k v s
  | .subchannelDispatch n => Sys2Proof.Machine.execSubchannelDispatch n s
  | .ccwFetchComplete n host => Sys2Proof.Machine.execCcwFetchComplete n host s
  | .ticIf n host => Sys2Proof.Machine.execTicIf n host s
  | .skipIf n host => Sys2Proof.Machine.execSkipIf n host s
  | .tic n => Sys2Proof.Machine.execTic n s
  | .waitUntil n => Sys2Proof.Machine.execWaitUntil n s
  | .waitEvent n => Sys2Proof.Machine.execWaitEvent n s
  | .waitFor n => Sys2Proof.Machine.execWaitFor n s
  | .post n => Sys2Proof.Machine.execPost n s
  | .signal n => Sys2Proof.Machine.execSignal n s
  | .storeTime n => Sys2Proof.Machine.execStoreTime n s
  | .move n => Sys2Proof.Machine.execMove n s
  | .digest n => Sys2Proof.Machine.execDigest n s
  | .callSpoke n => Sys2Proof.Machine.execCallSpoke n s
  | .nop n => Sys2Proof.Machine.execNop n s
  | .endProgram n => Sys2Proof.Machine.execEndProgram n s
  | .read n => Sys2Proof.Machine.execRead n s
  | .write n => Sys2Proof.Machine.execWrite n s
  | .control n => Sys2Proof.Machine.execControl n s
  | .sense n => Sys2Proof.Machine.execSense n s
  | .deviceOperationComplete n sub r => Sys2Proof.Machine.execDeviceOperationComplete n sub r s
  | .ccwComplete n => Sys2Proof.Machine.execCcwComplete n s
  | .lend a q => Sys2Proof.Machine.execLend a q s
  | .revoke a q => Sys2Proof.Machine.execRevoke a q s
  | .nvmeCqScan q => Sys2Proof.Machine.execNvmeCqScan q s
  | .nvmeCommandTimeout c q => Sys2Proof.Machine.execNvmeCommandTimeout c q s
  | .pciememCompletionTimeout n sub idx => Sys2Proof.Machine.execPciememCompletionTimeout n sub idx s
  | .portDataRequest n sub take data => Sys2Proof.Machine.execPortDataRequest n sub take data s
  | .uartCharacterReceived u b framing parity => Sys2Proof.Machine.execUartCharacterReceived u b framing parity s
  | .uartBreak u => Sys2Proof.Machine.execUartBreak u s
  | .uartBreakEnd u => Sys2Proof.Machine.execUartBreakEnd u s
  | .uartIdleGap u => Sys2Proof.Machine.execUartIdleGap u s
  | .uartPacketGap u => Sys2Proof.Machine.execUartPacketGap u s
  | .spiTargetSelect s_ => Sys2Proof.Machine.execSpiTargetSelect s_ s
  | .spiTargetItem s_ v => Sys2Proof.Machine.execSpiTargetItem s_ v s
  | .spiTargetDeselect s_ partialItem => Sys2Proof.Machine.execSpiTargetDeselect s_ partialItem s
  | .i3cDaa a c acked answers => Sys2Proof.Machine.execI3cDaa a c acked answers s
  | .i3cIbi c addr payload => Sys2Proof.Machine.execI3cIbi c addr payload s
  | .readI3cIbiHi a c => Sys2Proof.Machine.execReadI3cIbiHi a c s
  | .i3cBusError c => Sys2Proof.Machine.execI3cBusError c s
  | .gpioLevelChange k v => Sys2Proof.Machine.execGpioLevelChange k v s
  | .gpioDebounceExpiry c k => Sys2Proof.Machine.execGpioDebounceExpiry c k s
  | .gpioOutSet a v => Sys2Proof.Machine.execGpioOutSet a v s
  | .gpioOutClr a v => Sys2Proof.Machine.execGpioOutClr a v s
  | .ecPrivateRead n => Sys2Proof.Machine.execEcPrivateRead n s
  | .ecPrivateWrite bs => Sys2Proof.Machine.execEcPrivateWrite bs s
  | .setdasa addr => Sys2Proof.Machine.execSetdasa addr s
  | .entdaa addr => Sys2Proof.Machine.execEntdaa addr s
  | .rstdaa => Sys2Proof.Machine.execRstdaa s
  | .enec direct bits => Sys2Proof.Machine.execEnec direct bits s
  | .disec direct bits => Sys2Proof.Machine.execDisec direct bits s
  | .getpid => Sys2Proof.Machine.execGetpid s
  | .getbcr => Sys2Proof.Machine.execGetbcr s
  | .getdcr => Sys2Proof.Machine.execGetdcr s
  | .getmrl => Sys2Proof.Machine.execGetmrl s
  | .ecUnsupportedCcc code => Sys2Proof.Machine.execEcUnsupportedCcc code s
  | .ecIbiRaise ack => Sys2Proof.Machine.execEcIbiRaise ack s
  | .callSpokeTimeout c n sub => Sys2Proof.Machine.execCallSpokeTimeout c n sub s
  | .ringEnable a r v => Sys2Proof.Machine.execRingEnable a r v s
  | .ringDisable a r => Sys2Proof.Machine.execRingDisable a r s
  | .ringConsumerWrite a r v => Sys2Proof.Machine.execRingConsumerWrite a r v s
  | .moderationTimeExpiry c r => Sys2Proof.Machine.execModerationTimeExpiry c r s
  | .mirrorBatch r => Sys2Proof.Machine.execMirrorBatch r s
  | .merrClear a j bits => Sys2Proof.Machine.execMerrClear a j bits s
  | .hostAsleep a => Sys2Proof.Machine.execHostAsleep a s
  | .hostAwake a => Sys2Proof.Machine.execHostAwake a s
  | .mirrorFlush => Sys2Proof.Machine.execMirrorFlush s
  | .nextPollDeclare a hi => Sys2Proof.Machine.execNextPollDeclare a hi s
  | .nextPollReached c => Sys2Proof.Machine.execNextPollReached c s
  | .pollPageRead c o n => Sys2Proof.Machine.execPollPageRead c o n s
  | .moverChannelEnable a k v => Sys2Proof.Machine.execMoverChannelEnable a k v s
  | .moverChannelDisable a k => Sys2Proof.Machine.execMoverChannelDisable a k s
  | .moverBrakeSet a k => Sys2Proof.Machine.execMoverBrakeSet a k s
  | .moverBrakeRelease a k => Sys2Proof.Machine.execMoverBrakeRelease a k s
  | .moverTailWrite a k v => Sys2Proof.Machine.execMoverTailWrite a k v s
  | .moverRunStart m => Sys2Proof.Machine.execMoverRunStart m s
  | .moverDescriptorFetch m => Sys2Proof.Machine.execMoverDescriptorFetch m s
  | .moverHalfNotice m => Sys2Proof.Machine.execMoverHalfNotice m s
  | .moverDescriptorComplete m => Sys2Proof.Machine.execMoverDescriptorComplete m s
  | .fifoFlush a f => Sys2Proof.Machine.execFifoFlush a f s
  | .fifoDrop a f => Sys2Proof.Machine.execFifoDrop a f s
  | .fifoReadStage a f => Sys2Proof.Machine.execFifoReadStage a f s
  | .fifoEnable a f v => Sys2Proof.Machine.execFifoEnable a f v s
  | .fifoDisable a f => Sys2Proof.Machine.execFifoDisable a f s
  | .transformStreamAllocate => Sys2Proof.Machine.execTransformStreamAllocate s
  | .xdtLoad a => Sys2Proof.Machine.execXdtLoad a s
  | .xdtStore a => Sys2Proof.Machine.execXdtStore a s
  | .kslotWrite a k v => Sys2Proof.Machine.execKslotWrite a k v s
  | .caddyWipe a => Sys2Proof.Machine.execCaddyWipe a s
  | .caddyWipeComplete => Sys2Proof.Machine.execCaddyWipeComplete s
  | .coreAdd k rd rs => Sys2Proof.Machine.execCoreAdd k rd rs s
  | .coreAddc k rd rs => Sys2Proof.Machine.execCoreAddc k rd rs s
  | .coreSub k rd rs => Sys2Proof.Machine.execCoreSub k rd rs s
  | .coreSubc k rd rs => Sys2Proof.Machine.execCoreSubc k rd rs s
  | .coreAnd k rd rs => Sys2Proof.Machine.execCoreAnd k rd rs s
  | .coreOr k rd rs => Sys2Proof.Machine.execCoreOr k rd rs s
  | .coreXor k rd rs => Sys2Proof.Machine.execCoreXor k rd rs s
  | .coreMov k rd rs => Sys2Proof.Machine.execCoreMov k rd rs s
  | .coreCmp k rd rs => Sys2Proof.Machine.execCoreCmp k rd rs s
  | .coreCmpc k rd rs => Sys2Proof.Machine.execCoreCmpc k rd rs s
  | .coreAddi k rd imm => Sys2Proof.Machine.execCoreAddi k rd imm s
  | .coreAddci k rd imm => Sys2Proof.Machine.execCoreAddci k rd imm s
  | .coreSubi k rd imm => Sys2Proof.Machine.execCoreSubi k rd imm s
  | .coreSubci k rd imm => Sys2Proof.Machine.execCoreSubci k rd imm s
  | .coreAndi k rd imm => Sys2Proof.Machine.execCoreAndi k rd imm s
  | .coreOri k rd imm => Sys2Proof.Machine.execCoreOri k rd imm s
  | .coreXori k rd imm => Sys2Proof.Machine.execCoreXori k rd imm s
  | .coreCmpi k rd imm => Sys2Proof.Machine.execCoreCmpi k rd imm s
  | .coreMovi k rd imm => Sys2Proof.Machine.execCoreMovi k rd imm s
  | .coreAddp k pn imm => Sys2Proof.Machine.execCoreAddp k pn imm s
  | .coreMovip k pn imm => Sys2Proof.Machine.execCoreMovip k pn imm s
  | .coreShl k rd count => Sys2Proof.Machine.execCoreShl k rd count s
  | .coreShr k rd count => Sys2Proof.Machine.execCoreShr k rd count s
  | .coreAsr k rd count => Sys2Proof.Machine.execCoreAsr k rd count s
  | .coreRol k rd count => Sys2Proof.Machine.execCoreRol k rd count s
  | .coreRor k rd count => Sys2Proof.Machine.execCoreRor k rd count s
  | .coreRcl k rd count => Sys2Proof.Machine.execCoreRcl k rd count s
  | .coreRcr k rd count => Sys2Proof.Machine.execCoreRcr k rd count s
  | .coreMul k pn rs signed => Sys2Proof.Machine.execCoreMul k pn rs signed s
  | .coreLdb k rd base off => Sys2Proof.Machine.execCoreLdb k rd base off s
  | .coreStb k rd base off => Sys2Proof.Machine.execCoreStb k rd base off s
  | .coreLdp k pn base off => Sys2Proof.Machine.execCoreLdp k pn base off s
  | .coreStp k pn base off => Sys2Proof.Machine.execCoreStp k pn base off s
  | .coreLda k r pair addr => Sys2Proof.Machine.execCoreLda k r pair addr s
  | .coreSta k r pair addr => Sys2Proof.Machine.execCoreSta k r pair addr s
  | .coreBcc k cond off => Sys2Proof.Machine.execCoreBcc k cond off s
  | .coreJmp k target => Sys2Proof.Machine.execCoreJmp k target s
  | .coreCall k target => Sys2Proof.Machine.execCoreCall k target s
  | .coreRet k => Sys2Proof.Machine.execCoreRet k s
  | .coreReti k => Sys2Proof.Machine.execCoreReti k s
  | .coreLoop k level count lend => Sys2Proof.Machine.execCoreLoop k level count lend s
  | .coreLpop k => Sys2Proof.Machine.execCoreLpop k s
  | .coreEi k => Sys2Proof.Machine.execCoreEi k s
  | .coreDi k => Sys2Proof.Machine.execCoreDi k s
  | .coreWait k => Sys2Proof.Machine.execCoreWait k s
  | .coreWaitWake k => Sys2Proof.Machine.execCoreWaitWake k s
  | .coreBreak k => Sys2Proof.Machine.execCoreBreak k s
  | .coreTrap k code => Sys2Proof.Machine.execCoreTrap k code s
  | .coreSync k => Sys2Proof.Machine.execCoreSync k s
  | .coreCsrr k rd csr => Sys2Proof.Machine.execCoreCsrr k rd csr s
  | .coreCsrw k rs csr => Sys2Proof.Machine.execCoreCsrw k rs csr s
  | .corePacerArm k rs => Sys2Proof.Machine.execCorePacerArm k rs s
  | .corePacerCancel k rs => Sys2Proof.Machine.execCorePacerCancel k rs s
  | .interruptEntry k => Sys2Proof.Machine.execInterruptEntry k s
  | .coreLoadDataReturn k host => Sys2Proof.Machine.execCoreLoadDataReturn k host s
  | .postedStoreError k => Sys2Proof.Machine.execPostedStoreError k s
  | .coreResetHold a k => Sys2Proof.Machine.execCoreResetHold a k s
  | .coreResetRelease a k => Sys2Proof.Machine.execCoreResetRelease a k s
  | .coreBootCopyComplete k => Sys2Proof.Machine.execCoreBootCopyComplete k s
  | .coreBtbDisable a k => Sys2Proof.Machine.execCoreBtbDisable a k s
  | .eventArrival e => Sys2Proof.Machine.execEventArrival e s
  | .wicuClaim k => Sys2Proof.Machine.execWicuClaim k s
  | .wicuComplete k src n => Sys2Proof.Machine.execWicuComplete k src n s
  | .pendSet a w bank bits => Sys2Proof.Machine.execPendSet a w bank bits s
  | .pendClr a w bank bits => Sys2Proof.Machine.execPendClr a w bank bits s
  | .maskSet a w bank bits => Sys2Proof.Machine.execMaskSet a w bank bits s
  | .maskClr a w bank bits => Sys2Proof.Machine.execMaskClr a w bank bits s
  | .srcCfgWrite a w src v => Sys2Proof.Machine.execSrcCfgWrite a w src v s
  | .mailboxPost a w m c => Sys2Proof.Machine.execMailboxPost a w m c s
  | .release a w m => Sys2Proof.Machine.execRelease a w m s
  | .reply a w m => Sys2Proof.Machine.execReply a w m s
  | .lockAcquireRead a lock => Sys2Proof.Machine.execLockAcquireRead a lock s
  | .lockRelease a lock v => Sys2Proof.Machine.execLockRelease a lock v s
  | .hostMemoryRead o n => Sys2Proof.Machine.execHostMemoryRead o n s
  | .hostMemoryWrite o data ep => Sys2Proof.Machine.execHostMemoryWrite o data ep s
  | .downstreamMemoryRead p id addr n => Sys2Proof.Machine.execDownstreamMemoryRead p id addr n s
  | .downstreamMemoryWrite p id addr data ep => Sys2Proof.Machine.execDownstreamMemoryWrite p id addr data ep s
  | .downstreamMessage p => Sys2Proof.Machine.execDownstreamMessage p s
  | .hwtEntryWrite a o data => Sys2Proof.Machine.execHwtEntryWrite a o data s
  | .hwtQuiesceRead a => Sys2Proof.Machine.execHwtQuiesceRead a s
  | .dramTrainingComplete c => Sys2Proof.Machine.execDramTrainingComplete c s
  | .hubResponse a sub beats err => Sys2Proof.Machine.execHubResponse a sub beats err s
  | .arbiterGrant arb present => Sys2Proof.Machine.execArbiterGrant arb present s
  | .idleHoldExpiry k => Sys2Proof.Machine.execIdleHoldExpiry k s
  | .derailleurEvaluation c k => Sys2Proof.Machine.execDerailleurEvaluation c k s
  | .scheduledWake c k => Sys2Proof.Machine.execScheduledWake c k s
  | .scheduleSlotReached c slot => Sys2Proof.Machine.execScheduleSlotReached c slot s
  | .domainEntryStepComplete k pj => Sys2Proof.Machine.execDomainEntryStepComplete k pj s
  | .domainExitComplete c k lat pj => Sys2Proof.Machine.execDomainExitComplete c k lat pj s
  | .domainCycle a k => Sys2Proof.Machine.execDomainCycle a k s
  | .domainReset a k => Sys2Proof.Machine.execDomainReset a k s
  | .estLatWrite a v => Sys2Proof.Machine.execEstLatWrite a v s
  | .estEinWrite a v => Sys2Proof.Machine.execEstEinWrite a v s
  | .estEoutWrite a v => Sys2Proof.Machine.execEstEoutWrite a v s
  | .pmicWrite => Sys2Proof.Machine.execPmicWrite s
  | .pmicWriteComplete ack => Sys2Proof.Machine.execPmicWriteComplete ack s
  | .pmicSettleExpiry => Sys2Proof.Machine.execPmicSettleExpiry s
  | .thermalSample raw => Sys2Proof.Machine.execThermalSample raw s
  | .handshakeTimeout k stage => Sys2Proof.Machine.execHandshakeTimeout k stage s
  | .ldoRegulationFault r mv => Sys2Proof.Machine.execLdoRegulationFault r mv s
  | .pageDrain a p => Sys2Proof.Machine.execPageDrain a p s
  | .pageEnable a p => Sys2Proof.Machine.execPageEnable a p s
  | .fenceRequest a p => Sys2Proof.Machine.execFenceRequest a p s
  | .fenceRequestRelease a p => Sys2Proof.Machine.execFenceRequestRelease a p s
  | .captureClear a p => Sys2Proof.Machine.execCaptureClear a p s
  | .faultLogConsume a v => Sys2Proof.Machine.execFaultLogConsume a v s
  | .errorInject a p v => Sys2Proof.Machine.execErrorInject a p v s
  | .wheelSteepExpiry c w => Sys2Proof.Machine.execWheelSteepExpiry c w s
  | .wheelRecover a w => Sys2Proof.Machine.execWheelRecover a w s
  | .wheelRecoveryComplete w => Sys2Proof.Machine.execWheelRecoveryComplete w s
  | .railFault rail => Sys2Proof.Machine.execRailFault rail s
  | .tamperEvent bit_ => Sys2Proof.Machine.execTamperEvent bit_ s
  | .coldReset board => Sys2Proof.Machine.execColdReset board s
  | .upstreamPerst => Sys2Proof.Machine.execUpstreamPerst s
  | .upstreamPerstRelease => Sys2Proof.Machine.execUpstreamPerstRelease s
  | .upstreamLinkLoss => Sys2Proof.Machine.execUpstreamLinkLoss s
  | .functionLevelReset => Sys2Proof.Machine.execFunctionLevelReset s
  | .configRequest fn reg wr => Sys2Proof.Machine.execConfigRequest fn reg wr s
  | .cfgReadySet a => Sys2Proof.Machine.execCfgReadySet a s
  | .hostBoot a len => Sys2Proof.Machine.execHostBoot a len s
  | .romExit => Sys2Proof.Machine.execRomExit s
  | .lifeCycleAdvance a v => Sys2Proof.Machine.execLifeCycleAdvance a v s
  | .svnAdvance a => Sys2Proof.Machine.execSvnAdvance a s
  | .keyFuseWrite a k v => Sys2Proof.Machine.execKeyFuseWrite a k v s
  | .kettleTimerArm a k hi => Sys2Proof.Machine.execKettleTimerArm a k hi s
  | .kettleTimerCancel a k => Sys2Proof.Machine.execKettleTimerCancel a k s
  | .qspiTransfer a v => Sys2Proof.Machine.execQspiTransfer a v s
  | .qspiTransferComplete data => Sys2Proof.Machine.execQspiTransferComplete data s
  | .dapAccess op addr data => Sys2Proof.Machine.execDapAccess op addr data s
  | .dapAccessComplete => Sys2Proof.Machine.execDapAccessComplete s
  | .unlockChallenge a => Sys2Proof.Machine.execUnlockChallenge a s
  | .unlockCheck a => Sys2Proof.Machine.execUnlockCheck a s
  | .unlockCheckResult => Sys2Proof.Machine.execUnlockCheckResult s
  | .haltReq a k => Sys2Proof.Machine.execHaltReq a k s
  | .debugResume a k => Sys2Proof.Machine.execDebugResume a k s
  | .debugStep a k => Sys2Proof.Machine.execDebugStep a k s
  | .debugRegAccess a wr => Sys2Proof.Machine.execDebugRegAccess a wr s
  | .hostCompletionReceived a sub reply_ => Sys2Proof.Machine.execHostCompletionReceived a sub reply_ s
  | .upstreamCompletionTimeout a sub => Sys2Proof.Machine.execUpstreamCompletionTimeout a sub s
  | .hostRequestThroughSwitch addr req => Sys2Proof.Machine.execHostRequestThroughSwitch addr req s
  | .downstreamCompletion p dest n => Sys2Proof.Machine.execDownstreamCompletion p dest n s
  | .downstreamLinkUp p width speed => Sys2Proof.Machine.execDownstreamLinkUp p width speed s
  | .downstreamLinkDown p => Sys2Proof.Machine.execDownstreamLinkDown p s
  | .downstreamWake p => Sys2Proof.Machine.execDownstreamWake p s
  | .downstreamWakeRelease p => Sys2Proof.Machine.execDownstreamWakeRelease p s
  | .downstreamClkreq p low => Sys2Proof.Machine.execDownstreamClkreq p low s
  | .upstreamLinkL0 width speed => Sys2Proof.Machine.execUpstreamLinkL0 width speed s
  | .linkL1Entry port state => Sys2Proof.Machine.execLinkL1Entry port state s
  | .laneMarginRun a l v => Sys2Proof.Machine.execLaneMarginRun a l v s
  | .laneMarginDone l steps errors => Sys2Proof.Machine.execLaneMarginDone l steps errors s
  | .phyRecalibrate a q => Sys2Proof.Machine.execPhyRecalibrate a q s
  | .pcieErrorDetected port err => Sys2Proof.Machine.execPcieErrorDetected port err s
  | .pageCommit a p v => Sys2Proof.Machine.execPageCommit a p v s
  | .pgEvtSet a p v => Sys2Proof.Machine.execPgEvtSet a p v s
  | .pgEvtClr a p v => Sys2Proof.Machine.execPgEvtClr a p v s
  | .pageLock a p v => Sys2Proof.Machine.execPageLock a p v s
  | .registerWrite a p k v => Sys2Proof.Machine.execRegisterWrite a p k v s
  | .registerRead a p k => Sys2Proof.Machine.execRegisterRead a p k s
  | .readUartRxBytesLo a u => Sys2Proof.Machine.execReadUartRxBytesLo a u s
  | .readUartTxBytesLo a u => Sys2Proof.Machine.execReadUartTxBytesLo a u s
  | .readSpiTxBytesLo a s_ => Sys2Proof.Machine.execReadSpiTxBytesLo a s_ s
  | .readSpiRxBytesLo a s_ => Sys2Proof.Machine.execReadSpiRxBytesLo a s_ s
  | .readChBytesLo a k => Sys2Proof.Machine.execReadChBytesLo a k s
  | .readXupLo a => Sys2Proof.Machine.execReadXupLo a s
  | .readXdnLo a => Sys2Proof.Machine.execReadXdnLo a s

end Sys2Proof.Machine
end

