-- ==== Sys2Proof/WellFormed.lean ====
section
/-!
DEFINITION. Which commands are well formed. The operands' types carry every range the spec gives an operand; what is left is
the length of a list or of a read (log 3).
-/

namespace Sys2Proof

/-- A command whose list operand, or whose length of a read, is one that exists: a read request asks for at most 4,096
bytes, and THERMAL_SAMPLE brings four readings for each of the nine regions (R456). -/
def Instr.wellFormed : Instr → Bool
  | .hostMemoryRead _ n => decide (n ≤ 4096)
  | .downstreamMemoryRead _ _ _ n => decide (n ≤ 4096)
  | .thermalSample raw => decide (raw.length = 36)
  | _ => true

end Sys2Proof
end

