-- ==== Sys2Proof/Safety.lean ====
section
/-!
DEFINITION. The terms that claims are stated in: commands that complete, and with what effect; accesses that arrive at their
register; a core that is about to execute an instruction; and the queue of a safe run.
-/

namespace Sys2Proof.Machine

/-! ### Completion -/

/-- A command completes with an effect: the device's own reactions follow it, and the queue is as it was. -/
def Runs (c : Instr) (s : State) (e : Dev) : Prop := exec c s = .next { s with dev := settle s.dev e }

/-- A command is answered with a next state. -/
def Completes (c : Instr) (s : State) : Prop := ∃ t, exec c s = .next t

/-- A queue of well-formed commands: a run over it meets no fault and no refusal. -/
def Safe (s : State) : Prop := ∀ c ∈ s.pending, c.wellFormed = true

/-- The urgent byte that the EC port compares with is the one that its conditions give (R250, R251). -/
def UrgentHeld (s : State) : Prop := s.dev.ecp.urgPrev = s.dev.urgentByte

/-! ### Register accesses -/

/-- A register access by an agent arrives (R25, R26, R532): the device at which the register's own rules are applied, with the
access counted (R57, R561). None where the agent makes no such access, a domain has to wake first, or
a fence or the halt stands in the way. -/
def Dev.arrives (d : Dev) (a p o : Nat) (write : Bool) : Option Dev :=
  if !d.canAccess a ∨ (a = agDebug ∧ !d.debugMay p o) then none
  else match d.regReach a p o write with
    | (.ok, e) => if a = agHost ∧ e.boot.hostPath ∧ !bootPage p then none else some (e.countReg a p o write)
    | _ => none

/-- A read command completes: with what the access itself did, and a word as its response. -/
def Answers (c : Instr) (s : State) (e : Dev) (w : Word) : Prop := Runs c s { e with cpl := .success, resp := [w] }

/-- A page's lock does not hold an agent's writes (R540). -/
def Dev.unlocked (d : Dev) (p a : Nat) : Prop := d.rb p 0x03C 0 = false ∨ a = agKettle

/-! ### Core instructions -/

/-- Core `k` is about to execute the instruction with the words `enc` (R330, R333): the words at its PC are those, and are legal; host
memory is taken to hold them (log 8). The answer is the address after the instruction, and the device once it is fetched. -/
def Dev.executes (d : Dev) (k : Nat) (enc : List (BitVec 16)) : Option (BitVec 16 × Dev) :=
  if !d.mayExec k then none
  else match d.fetchWord k (d.core k).pc with
    | .word w d1 =>
      let w := w.getD (enc.headD 0)
      if !hasExt w then if illegalWord w 0 = false ∧ enc = [w] then some ((d.core k).pc + 2, d1) else none
      else match d1.fetchWord k ((d.core k).pc + 2) with
        | .word x d2 =>
          let x := x.getD ((enc.drop 1).headD 0)
          if illegalWord w x = false ∧ enc = [w, x] then some ((d.core k).pc + 4, d2) else none
        | _ => none
    | _ => none

/-- Nothing stands in the way of an instruction's end: the core runs, and no load in progress has failed. -/
def Core.smooth (c : Core) : Prop := c.state = .running ∧ ∀ q ∈ c.pend, q.fail = none

/-- The same, and the instruction after the one at `pc` is at an even address, be it the start of a loop. -/
def Core.smoothAt (c : Core) (pc next : BitVec 16) : Prop := c.smooth ∧ (c.loopBack pc next 3).2.toNat % 2 = 0

/-- An instruction is done, having written some registers, and the core goes to an address: the instruction is counted (R57), and
loads that have come reach their registers once the instruction after them is done (R334, R335). -/
def Dev.goesTo (d : Dev) (k : Nat) (next : BitVec 16) (wrote : List Nat) : Dev :=
  let d := (d.setCore k { (d.core k).passed wrote with pc := next, noInt := false }).countInstr k
  (d.setCore k (d.core k).retire).stepDone k

/-- An instruction at `pc` is done and the core goes on, to the start of a loop where R338 says so. -/
def Dev.goesOn (d : Dev) (k : Nat) (pc next : BitVec 16) (wrote : List Nat) : Dev :=
  let r := (d.core k).loopBack pc next 3
  (d.setCore k r.1).goesTo k r.2 wrote

/-- A load at `pc` has been issued as `q`, and the core goes on; no interrupt is taken at once after it (R336). -/
def Dev.loads (d : Dev) (k : Nat) (pc next : BitVec 16) (q : PendLoad) : Dev :=
  let r := (d.core k).loopBack pc next 3
  let c := r.1.passed []
  let d := (d.setCore k { c with pc := r.2, pend := c.pend ++ [q], noInt := true }).countInstr k
  (d.setCore k (d.core k).retire).stepDone k

/-- The core with its four arithmetic flags. -/
def Core.flagged (c : Core) (cf zf nf vf : Bool) : Core := { c with c := cf, z := zf, n := nf, v := vf }

end Sys2Proof.Machine
end

