-- ==== Sys2Proof/Certificates/Slice0/Obligations.lean ====
section
/-!
DEFINITION. The statements for the provers. `Runs c s e` (Sys2Proof/Safety.lean) says that a command is answered with the next state whose
device is `e`, settled; so what a statement does not name in `e` is as it was. `d.arrives a p o w = some e` says that a register access by an
agent gets through, and `e` is the device it gets through to.
-/

open Sys2Proof Sys2Proof.Machine

/-- The step takes the command at the front of the queue and executes it on the state with the rest of the queue. -/
def Obligations.StepRunsTheFrontCommand : Prop :=
  ∀ (s : State) (c : Instr) (cs : List Instr), s.pending = c :: cs → step s = exec c { s with pending := cs }

/-- An empty queue leaves the block idle, and no word of the table's bits puts a command into it: the table gives no row any
bits (log 1 names the idling as the model's choice). -/
def Obligations.EmptyQueueIdles : Prop :=
  (∀ s : State, s.pending = [] → step s = .next s) ∧
  (∀ (s : State) (nbits w : Nat), decodeTableWord nbits w = none ∧ s.withFetchWord nbits w = s)

/-- Every well-formed command is answered with a next state that has the queue it was given, from every state; a command that
is not well formed is a fault, and no command is refused. -/
def Obligations.WellFormedCommandsComplete : Prop :=
  ∀ (c : Instr) (s : State),
    (c.wellFormed = true → ∃ d, exec c s = .next { s with dev := d }) ∧
    (c.wellFormed = false → exec c s = .fault .badOperand)

/-- A queue of well-formed commands is worked off: as many steps as it has commands lead to an empty queue, and no fault or
refusal comes between. -/
def Obligations.SafeQueuesAreWorkedOff : Prop :=
  ∀ s : State, Safe s → ∃ t, core.run s.pending.length s = .next t ∧ State.pending t = []

/-- The urgent byte that the EC port compares with is the urgent byte of R250, and every step keeps it so: a rise is seen
against the byte as the last command left it (R251). -/
def Obligations.StepKeepsUrgentByte : Prop :=
  ∀ s t : State, UrgentHeld s → step s = .next t → UrgentHeld t

/-- After reset the urgent byte held is the one its conditions give. -/
def Obligations.ResetHoldsUrgentByte : Prop := UrgentHeld State.reset

/-- The commands of the crystal move the pacer as R39, R41, R44, R45 and R46 give, and nothing else but what is named. `p` is the
pacer with the command's counts taken (log 1). In a loss the counts of an accepted edge are those since the last synthetic boundary
(the model's choice, log 52). -/
def Obligations.CrystalMovesThePacer : Prop :=
  ∀ (s : State) (c : Counts) (p : Pacer), p = s.dev.pacer.setCounts c →
    -- an accepted edge
    (3906 ≤ p.ring - p.synth * p.ringRef → ∃ q : Pacer, Runs (.crystalEdge c) s { s.dev with pacer := q } ∧
      q.base = (if p.missing then p.value else p.base + p.inc.zeroExtend 64) ∧
      q.inc = BitVec.ofInt 18 (0x20000 + (p.frac.toNat + 2 * s.dev.rateAdj) / 2 ^ 24) ∧
      q.frac = BitVec.ofInt 24 (p.frac.toNat + 2 * s.dev.rateAdj) ∧
      q.interp = interpFor s.dev.src_ p.refOk ∧ q.refOk = decide (2900 ≤ p.ref - p.refMark ∧ p.ref - p.refMark ≤ 3200) ∧
      q.prev = BitVec.ofNat 16 (if interpFor s.dev.src_ p.refOk = .refclk then p.ref - p.refMark else p.ring - p.synth * p.ringRef) ∧
      q.ringRef = p.ring - p.synth * p.ringRef ∧ q.rate = s.dev.rateAdj ∧ q.refMark = 0 ∧
      q.ring = 0 ∧ q.ref = 0 ∧ q.synth = 0 ∧ q.missing = false ∧ q.xtalOk = true ∧ q.edgeRun = min (p.edgeRun + 1) 1024 ∧
      q.trust = (if min (p.edgeRun + 1) 1024 = 1024 then .trusted else p.trust) ∧
      q.last = p.last ∧ q.hostOfs = p.hostOfs) ∧
    -- an edge that comes too early
    (p.ring - p.synth * p.ringRef < 3906 →
      Runs (.crystalEdge c) s (({ s.dev with pacer := { p with xtalOk := false, edgeRun := 0 } }).bump pgPCR 0x080 1 0x084 3)) ∧
    -- the crystal is declared missing
    (p.missing = false → 15625 ≤ p.ring → ∃ q : Pacer, Runs (.crystalMissing c) s { s.dev with pacer := q } ∧
      q.missing = true ∧ q.edgeRun = 0 ∧ q.interp = (if p.interp = .none then .none else .ring) ∧ q.synth = (if p.ringRef = 0 then 0 else p.ring / p.ringRef) ∧
      q.trust = (if p.trust = .trusted then .holdover else p.trust) ∧ q.last = p.last ∧ q.hostOfs = p.hostOfs) ∧
    -- a synthetic boundary
    (p.missing = true → 0 < p.ringRef → (p.synth + 1) * p.ringRef ≤ p.ring →
      Runs (.syntheticBoundary c) s { s.dev with pacer := { p with
        base := p.base + p.inc.zeroExtend 64, inc := BitVec.ofInt 18 (0x20000 + (p.frac.toNat + 2 * p.rate) / 2 ^ 24),
        frac := BitVec.ofInt 24 (p.frac.toNat + 2 * p.rate), synth := p.synth + 1,
        prev := BitVec.ofNat 16 p.ringRef, refMark := p.ref } }) ∧
    -- a second in HOLDOVER
    (p.trust = .holdover → p.missing = true → 2 ^ 32 ≤ (p.value - p.hoEntry).toNat →
      Runs (.holdoverExpiry c) s { s.dev with pacer := { p with trust := .untrusted, wasUntrusted := true, edgeRun := 0 }
                                              ledger := { s.dev.ledger with untrSec := true } })

/-- A PTM dialogue starts, ends and lapses as R48, R49 and R527 give: an accepted first pair sets the offset, a later one
moves offset and rate, a pair with too long a round trip is counted and dropped. -/
def Obligations.PtmDisciplinesThePacer : Prop :=
  ∀ (s : State) (ns : BitVec 64) (dd rtt : DT),
    (s.dev.src_ = 3 → s.dev.rb pgPCR 0x040 2 = true → bitAt (s.dev.cfgHeld cfEp 0x56) 0 = true → s.dev.awakeHost = true →
      s.dev.linkActive 6 = true → s.dev.pacer.ptmBusy = false → s.dev.pmState 6 = 0 →
      Runs .ptmDialogueStart s { s.dev with pacer := { s.dev.pacer with ptmBusy := true } }) ∧
    (s.dev.pacer.ptmBusy = true → s.dev.rf pgPCR 0x060 16 16 * 2 ^ 8 < rtt.toNat →
      Runs (.ptmDialogueComplete ns dd rtt) s
        (({ s.dev with pacer := { s.dev.pacer with ptmBusy := false } }).bump pgPCR 0x064 1 0x084 0)) ∧
    (s.dev.pacer.ptmBusy = true → rtt.toNat ≤ s.dev.rf pgPCR 0x060 16 16 * 2 ^ 8 → s.dev.pacer.ptmFirst = true →
      Runs (.ptmDialogueComplete ns dd rtt) s { s.dev with pacer := { s.dev.pacer with
        ptmBusy := false, hostOfs := hostDT ns - dd, ptmFirst := false, ptmPrevD := dd, ptmValid := true } }) ∧
    (s.dev.pacer.ptmBusy = true → rtt.toNat ≤ s.dev.rf pgPCR 0x060 16 16 * 2 ^ 8 → s.dev.pacer.ptmFirst = false →
      ((dd - s.dev.pacer.ptmPrevD).toInt ≠ 0) →
      Runs (.ptmDialogueComplete ns dd rtt) s (({ s.dev with pacer := { s.dev.pacer with
        ptmBusy := false, hostOfs := s.dev.pacer.hostOfs + (hostDT ns - (dd + s.dev.pacer.hostOfs)), ptmPrevD := dd,
        ptmValid := true } }).setReg pgPCR 0x050 (BitVec.ofInt 32 (clampRate (s.dev.rateAdj +
          Int.tdiv ((hostDT ns - (dd + s.dev.pacer.hostOfs)).toInt * 2 ^ 39) (dd - s.dev.pacer.ptmPrevD).toInt))))) ∧
    (s.dev.pacer.ptmValid = true →
      Runs .ptmValidLapse s { s.dev with pacer := { s.dev.pacer with ptmValid := false, ptmFirst := true } })

/-- A read of the lower register of a 64-bit value answers its lower half and latches its upper half, of the same moment, in
the upper register (R77); for NOW the value is a sample (R39), for the wake list's head all ones where the list is empty
(R51), for a tag's energy its accumulator with the remainder (R60). -/
def Obligations.LowerReadsLatchTheUpperHalf : Prop :=
  ∀ (s : State) (a : Agent) (c : Counts) (e : Dev),
    ((s.dev.atCounts c).arrives a pgPCR 0x048 false = some e →
      Answers (.readDtLo a c) s ((e.sample (e.tagOf a)).2.setReg pgPCR 0x04C (hi32 (e.sample (e.tagOf a)).1))
        (lo32 (e.sample (e.tagOf a)).1)) ∧
    (s.dev.arrives a pgPCR 0x058 false = some e →
      Answers (.readHostOfsLo a) s (e.setReg pgPCR 0x05C (hi32 e.pacer.hostOfs)) (lo32 e.pacer.hostOfs)) ∧
    (s.dev.arrives a pgPCR 0x068 false = some e → ∀ v : DT,
      v = (match e.wl with | [] => BitVec.allOnes 64 | w :: _ => w.target) →
      Answers (.readWlHeadLo a) s (e.setReg pgPCR 0x06C (hi32 v)) (lo32 v)) ∧
    (s.dev.arrives a pgLDG 0x048 false = some e → ∀ t : Nat, t = e.rf pgLDG 0x044 0 13 →
      Answers (.readTagLo a) s ((e.setReg pgLDG 0x04C (hi32 (e.acc t))).setReg pgLDG 0x050 (w32 (smGet e.ledger.rem t 0)))
        (lo32 (e.acc t))) ∧
    (s.dev.arrives a pgLDG 0x054 false = some e →
      Answers (.readPkgLo a) s (e.setReg pgLDG 0x058 (hi32 e.ledger.pkgAcc)) (lo32 e.ledger.pkgAcc)) ∧
    (∀ u : Fin 4, s.dev.arrives a pgUAR (uarOff u 0x20) false = some e → ∀ v : DT, v = smGet e.wide (rk pgUAR (uarOff u 0x20)) 0 →
      Answers (.readUartRxBytesLo a u) s (e.setReg pgUAR (uarOff u 0x24) (hi32 v)) (lo32 v)) ∧
    (∀ u : Fin 4, s.dev.arrives a pgUAR (uarOff u 0x28) false = some e → ∀ v : DT, v = smGet e.wide (rk pgUAR (uarOff u 0x28)) 0 →
      Answers (.readUartTxBytesLo a u) s (e.setReg pgUAR (uarOff u 0x2C) (hi32 v)) (lo32 v)) ∧
    (∀ u : Fin 4, s.dev.arrives a pgSPI (spiOff u 0x20) false = some e → ∀ v : DT, v = smGet e.wide (rk pgSPI (spiOff u 0x20)) 0 →
      Answers (.readSpiTxBytesLo a u) s (e.setReg pgSPI (spiOff u 0x24) (hi32 v)) (lo32 v)) ∧
    (∀ u : Fin 4, s.dev.arrives a pgSPI (spiOff u 0x28) false = some e → ∀ v : DT, v = smGet e.wide (rk pgSPI (spiOff u 0x28)) 0 →
      Answers (.readSpiRxBytesLo a u) s (e.setReg pgSPI (spiOff u 0x2C) (hi32 v)) (lo32 v)) ∧
    (∀ k : Fin 128, s.dev.arrives a (chPage k) (mvOff k 0x18) false = some e → ∀ v : DT,
      v = smGet e.wide (rk (chPage k) (mvOff k 0x18)) 0 →
      Answers (.readChBytesLo a k) s (e.setReg (chPage k) (mvOff k 0x18 + 4) (hi32 v)) (lo32 v)) ∧
    (s.dev.arrives a pgBRG 0x04C false = some e → ∀ v : DT, v = smGet e.wide (rk pgBRG 0x04C) 0 →
      Answers (.readXupLo a) s (e.setReg pgBRG 0x050 (hi32 v)) (lo32 v)) ∧
    (s.dev.arrives a pgBRG 0x054 false = some e → ∀ v : DT, v = smGet e.wide (rk pgBRG 0x054) 0 →
      Answers (.readXdnLo a) s (e.setReg pgBRG 0x058 (hi32 v)) (lo32 v))

/-- A read of a populated register that does nothing but read answers its word, and changes no state but the response; the
read of an I3C interrupt's upper word frees the interrupt (R218); QUIESCE answers 0 at once where no request of the host window
is outstanding (R412). -/
def Obligations.ReadsAnswerTheRegister : Prop :=
  ∀ (s : State) (a : Agent) (e : Dev),
    (∀ (p : Fin 96) (k : Fin 1024), s.dev.arrives a p (4 * k) false = some e → (regRow p (4 * k)).isSome = true →
      wideLow p (4 * k) = false → lockReg p (4 * k) = none → p.val ≠ pgPCR → p.val ≠ pgLDG → p.val ≠ pgFIF → p.val ≠ pgI3C →
      p.val ≠ pgPWD → p.val ≠ pgHWT →
      Answers (.registerRead a p k) s e (e.regWord a p (4 * k))) ∧
    (∀ c : Fin 6, s.dev.arrives a pgI3C (i3cOff c 0x1C) false = some e →
      Answers (.readI3cIbiHi a c) s (e.setI3c c { e.i3c c with ibiValid := false }) (wordOf (e.i3c c).ibi 1)) ∧
    (s.dev.arrives a pgHWT 0x040 false = some e → e.quiesce = [] → e.hostOut = [] → Answers (.hwtQuiesceRead a) s e 0)

/-- An unpopulated offset within a page reads 0, ignores what is written to it, and sets the page's BAD_WRITE event. -/
def Obligations.UnpopulatedOffsets : Prop :=
  ∀ (s : State) (a : Agent) (p : Fin 96) (k : Fin 1024) (v : Word) (e : Dev), regRow p (4 * k) = none →
    (s.dev.arrives a p (4 * k) false = some e → Answers (.registerRead a p k) s (e.badWrite p a (4 * k)) 0) ∧
    (s.dev.arrives a p (4 * k) true = some e → Runs (.registerWrite a p k v) s (e.badWrite p a (4 * k))) ∧
    bitAt ((e.badWrite p a (4 * k)).reg p 0x010) 0 = true

/-- An expiry takes the reached entry from the wake list, unless its owner's domain sleeps, and tells its owner: the
subchannel's wait ends, the core's request is raised, the kettle timer fires (R52, R54). With no entry reached the list stays. -/
def Obligations.WakeListExpiryServesItsEntry : Prop :=
  ∀ (s : State) (c : Counts) (d : Dev), d = s.dev.atCounts c →
    (d.wlDue.1 = [] → Runs (.wakeListExpiry c) s d) ∧
    (∀ w : WlEntry, d.wlDue.1 = [w] → w.dom.any (fun k => (d.dom k).asleep) = false →
      ∀ e : Dev, e = ({ d with wl := d.wl.filter fun x => !(x.kind = w.kind && x.id = w.id) }).count 0 3 (wlTag d.coreTag w.kind w.id) 1 →
      Runs (.wakeListExpiry c) s
        (match w.kind with | .subch => e.subExpiry w.id | .core => e.coreFire w.id | .ktimer => e.ktFire w.id)) ∧
    (∀ (w : WlEntry) (k : Nat), d.wlDue.1 = [w] → w.dom = some k → (d.dom k).asleep = true →
      Runs (.wakeListExpiry c) s (d.startExit k false (some w.target)))

/-- A wake list in the order of its targets takes an entry behind every entry of an equal or earlier target and before every
later one, and stays in order (R51). -/
def Obligations.WakeListKeepsItsOrder : Prop :=
  ∀ (e : WlEntry) (l : List WlEntry), l.Pairwise (fun a b => a.target.toNat ≤ b.target.toNat) →
    (wlPlace e l).Pairwise (fun a b => a.target.toNat ≤ b.target.toNat) ∧
    (∃ xs ys, l = xs ++ ys ∧ wlPlace e l = xs ++ e :: ys ∧ (∀ x ∈ xs, x.target.toNat ≤ e.target.toNat) ∧
      ∀ y ∈ ys, e.target.toNat < y.target.toNat)

/-- LEDGER_FOLD, SHUNT_SAMPLE, CALIBRATION_SECOND and GOVERNOR_TICK complete from every state. The fold counts what time alone makes
and folds every region with its leakage (R60, R61), and leaves no count pending; with LDG.CTRL.EN 0 it charges nothing (R562). A shunt
sample adds its code times the setpoint in whole mV (log 17) to the second's sum, unless the pacer is UNTRUSTED, and a full-scale code
is remembered (R65, R66). With EN 0, or in a second in which EN was not 1 throughout, no second is judged or skipped (R562); a second
with E_raw below CAL_MIN, with a full-scale code (which sets CLIPPED), with CAL_EN 0 or with the pacer UNTRUSTED in it is skipped and
counted; any other updates S and G, and where S left its range the fault of R67 is raised. A governor tick takes the increase of the
package total in µJ, at most 65,535, in front of the last 4,094 figures, and the shares of the next tick begin at nothing (R70, R72). -/
def Obligations.LedgerCommandsComplete : Prop :=
  ∀ (s : State) (code : BitVec 12),
    Runs .ledgerFold s s.dev.countTimed.regionFold ∧ s.dev.countTimed.regionFold.ledger.pend = [] ∧
    (s.dev.ledgerOn = false → s.dev.countTimed.regionFold.ledger.acc = s.dev.ledger.acc) ∧
    Runs (.shuntSample code) s { s.dev with ledger := { s.dev.ledger with
      clipSec := s.dev.ledger.clipSec || decide (code = 4095),
      vcode := if s.dev.pacer.trust = .untrusted then s.dev.ledger.vcode
        else s.dev.ledger.vcode + s.dev.pmic.now * 25 / 2 * code.toNat,
      untrSec := s.dev.ledger.untrSec || decide (s.dev.pacer.trust = .untrusted) } } ∧
    (∀ e : Dev, e = s.dev.foldAll →
      (e.ledgerOn = false ∨ e.ledger.secWhole = false → Runs .calibrationSecond s e.newSecond) ∧
      (e.ledgerOn = true → e.ledger.secWhole = true →
        ∀ f : Dev, f = (if e.ledger.clipSec then e.setRf pgLDG 0x060 17 1 1 else e) →
        (e.eRaw < e.rf pgLDG 0x068 0 16 * 1000000 ∨ e.ledger.clipSec = true ∨ f.rb pgLDG 0x040 1 = false ∨ e.ledger.untrSec = true →
          Runs .calibrationSecond s (f.bump pgLDG 0x080 1 0x084 1).newSecond) ∧
        (e.rf pgLDG 0x068 0 16 * 1000000 ≤ e.eRaw → e.ledger.clipSec = false → e.rb pgLDG 0x040 1 = true → e.ledger.untrSec = false →
          0 < e.eRaw → ∀ gm x y : Nat, gm = (e.eMeas * 2 ^ 14 + e.eRaw / 2) / e.eRaw →
          x = e.ledger.s.toNat + gm - e.ledger.s.toNat / 16 → y = min (max x 0x30000) 0x5000F →
          ∀ h : Dev, h = ({ e with ledger := { e.ledger with s := BitVec.ofNat 20 y, g := BitVec.ofNat 16 (y / 16) } }).setRf pgLDG 0x060 0 16 gm →
          (x = y → Runs .calibrationSecond s h.newSecond) ∧
          (x ≠ y → Runs .calibrationSecond s ((((h.setRf pgLDG 0x060 16 1 1).bump pgLDG 0x07C 1 0x084 0).newSecond).raiseFault
            { kind := 14, page := pgLDG, source := 0, info := w32 gm, unit := none }))))) ∧
    (∃ e : Dev, Runs .governorTick s e ∧ e.gov.lastPkg = s.dev.ledger.pkgAcc ∧ e.gov.tickCharge = [] ∧
      e.gov.hist = (min ((s.dev.ledger.pkgAcc - s.dev.gov.lastPkg).toNat / 256000) 65535 :: s.dev.gov.hist).take 4095 ∧
      e.mem = s.dev.mem ∧ e.scbs = s.dev.scbs ∧ e.pacer = s.dev.pacer)

/-- START, RESUME, HALT, SUSPEND_REQ and CLEAR take effect on a subchannel in a state that allows them, and the agent's OP_RESULT
reads ACCEPTED with the state before (R131, R132, R135, R136). CLEAR of a program that holds neither a burst nor a slot leaves its SCB
CLASS, RING, BINDING and BUDGET alone. -/
def Obligations.OperationsTakeEffect : Prop :=
  ∀ (s : State) (a : Agent) (n : Fin 16) (sub : Fin 256) (e : Dev) (i : Nat) (done : Dev → Nat → Dev),
    agentBanked a = true → s.dev.arrives a (pgCE + n) 0x040 true = some e → e.unlocked (pgCE + n) a →
    e.isFenced (ceDom n) = false → i = 256 * n + sub →
    (done = fun t opc => t.setBank (pgCE + n) 0x044 a (w32 (fput 28 4 opc + fput 8 8 sub + fput 4 4 (e.scb i).state.code + 1))) →
    -- START
    (e.pageEn (pgCE + n) = true → (e.scb i).state = .idle → ∃ t : Dev, Runs (.start a n sub) s (done t 1) ∧
      (t.scb i).state = .pending ∧ (t.scb i).ccwAddr = BitVec.ofNat 48 (cat64 (e.bank (pgCE + n) 0x04C a) (e.bank (pgCE + n) 0x048 a)).toNat ∧
      (t.scb i).residual = 0 ∧ (t.scb i).lastDevstat = 0 ∧ (t.scb i).programT0 = e.now ∧
      (t.scb i).haltReq = false ∧ (t.scb i).suspReq = false ∧ (t.scb i).cls = (e.scb i).cls ∧ (t.scb i).ring = (e.scb i).ring ∧
      (t.scb i).binding = (e.scb i).binding ∧ (t.scb i).budget = (e.scb i).budget ∧ t.mem = e.mem ∧ t.wl = e.wl) ∧
    -- RESUME
    (e.pageEn (pgCE + n) = true → (e.scb i).state = .suspended → Runs (.resume a n sub) s (done
      ((e.setCtx i { e.ctx i with phase := .fetch, resumed := true, ticRun := 0, row := if (e.ctx i).boundary then (e.ctx i).row else none, boundary := false }).setSub i
        .pending .none) 2)) ∧
    -- HALT: of a subchannel at work, at its next boundary; repeated, without effect; of a suspended one, at once
    ((e.scb i).state = .active → (e.scb i).haltReq = false →
      Runs (.halt a n sub) s (done (e.setScb i { e.scb i with haltReq := true }) 3)) ∧
    ((e.scb i).state = .active → (e.scb i).haltReq = true → Runs (.halt a n sub) s (done e 3)) ∧
    ((e.scb i).state = .suspended → (e.scb i).haltReq = false →
      Runs (.halt a n sub) s (done (((e.setScb i { e.scb i with haltReq := true }).planHalted i).go i) 3)) ∧
    -- SUSPEND_REQ
    ((e.scb i).state = .pending ∨ (e.scb i).state = .active ∨ (e.scb i).state = .waiting →
      Runs (.suspendReq a n sub) s (done (e.setScb i { e.scb i with suspReq := true }) 4)) ∧
    -- CLEAR
    ((e.scb i).state = .stopped → ∃ t : Dev, Runs (.clear a n sub) s (done t 5) ∧
      ((e.ctx i).burst = 0 → (e.ctx i).granted = none →
        t.scbs = smSet e.scbs i { cls := (e.scb i).cls, ring := (e.scb i).ring, binding := (e.scb i).binding, budget := (e.scb i).budget } {} ∧
        t.mem = e.mem))

/-- An operation on a subchannel in a state that does not allow it returns BAD_STATE and has no effect. -/
def Obligations.BadStateHasNoEffect : Prop :=
  ∀ (s : State) (a : Agent) (n : Fin 16) (sub : Fin 256) (e : Dev) (i : Nat) (st : SubState) (bad : Nat → Dev),
    agentBanked a = true → s.dev.arrives a (pgCE + n) 0x040 true = some e → e.unlocked (pgCE + n) a →
    e.isFenced (ceDom n) = false → i = 256 * n + sub → st = (e.scb i).state →
    (bad = fun opc => e.setBank (pgCE + n) 0x044 a (w32 (fput 28 4 opc + fput 8 8 sub + fput 4 4 st.code + 2))) →
    (e.pageEn (pgCE + n) = true → st ≠ .idle → Runs (.start a n sub) s (bad 1)) ∧
    (e.pageEn (pgCE + n) = true → st ≠ .suspended → Runs (.resume a n sub) s (bad 2)) ∧
    (st = .idle ∨ st = .stopped → Runs (.halt a n sub) s (bad 3)) ∧
    (st = .idle ∨ st = .suspended ∨ st = .draining ∨ st = .stopped → Runs (.suspendReq a n sub) s (bad 4)) ∧
    (st ≠ .stopped → Runs (.clear a n sub) s (bad 5))

/-- SCB_WINDOW_WRITE of every word of the window (R133, R172). Of an IDLE subchannel word 0 sets CLASS and RING, word 1 sets BINDING
where its value is valid, word 12 sets BUDGET. Otherwise word 0 sets CLASS where it leaves RING as it is; one that would change RING, any
write of word 1 (a reserved value too) and any of word 12 are discarded whole, with BAD_WRITE. Every other word ignores the write. -/
def Obligations.ScbWindowWritesComplete : Prop :=
  ∀ (s : State) (a : Agent) (n k : Fin 16) (v : Word) (e : Dev) (i : Nat) (b : Scb),
    agentBanked a = true → s.dev.arrives a (pgCE + n) (0x080 + 4 * k) true = some e → e.unlocked (pgCE + n) a →
    i = 256 * n + (e.bank (pgCE + n) 0x050 a).toNat % 256 → b = e.scb i →
    (k = 0 → b.state = .idle ∨ BitVec.ofNat 7 (fld v 24 7) = b.ring →
      Runs (.scbWindowWrite a n k v) s (e.setScb i { b with cls := BitVec.ofNat 2 (fld v 16 2), ring := BitVec.ofNat 7 (fld v 24 7) })) ∧
    (k = 1 → b.state = .idle → bindingOk v = true → Runs (.scbWindowWrite a n k v) s (e.setScb i { b with binding := v })) ∧
    (k = 12 → b.state = .idle → Runs (.scbWindowWrite a n k v) s (e.setScb i { b with budget := v.truncate 16 })) ∧
    ((k = 0 ∧ b.state ≠ .idle ∧ BitVec.ofNat 7 (fld v 24 7) ≠ b.ring) ∨ (k = 1 ∧ (b.state ≠ .idle ∨ bindingOk v = false)) ∨
        (k = 12 ∧ b.state ≠ .idle) →
      Runs (.scbWindowWrite a n k v) s (e.badWrite (pgCE + n) a (0x080 + 4 * k))) ∧
    (k ≠ 0 → k ≠ 1 → k ≠ 12 → Runs (.scbWindowWrite a n k v) s e)

/-- SUBCHANNEL_DISPATCH gives the sequencer of an idle engine to the PENDING subchannel that R140 picks: it becomes ACTIVE and the last
of its class; a CCW whose execution was interrupted goes on, a suspension asked for takes place at a command boundary, and
otherwise the CCW at CCW_ADDR is fetched (R140, R145, R154). -/
def Obligations.DispatchPicksASubchannel : Prop :=
  ∀ (s : State) (n : Fin 16) (i : Nat) (e : Dev), s.dev.gate (ceDom n) = .ok → s.dev.activeSub n = none →
    s.dev.pickSub n (fun _ b => b.state = .pending) = some i →
    e = (s.dev.setEng n ((s.dev.eng n).setLast (s.dev.scb i).cls (i % 256))).setSub i .active .none →
    ((s.dev.ctx i).phase ≠ .fetch → Runs (.subchannelDispatch n) s e) ∧
    ((s.dev.ctx i).phase = .fetch → (s.dev.ctx i).boundary = true → (s.dev.scb i).suspReq = true →
      Runs (.subchannelDispatch n) s ((e.setCtx i { e.ctx i with plan := [{ kind := 4, code := 0 }], after := some .suspended }).go i)) ∧
    ((s.dev.ctx i).phase = .fetch → ((s.dev.ctx i).boundary = false ∨ (s.dev.scb i).suspReq = false) →
      Runs (.subchannelDispatch n) s ((e.startFetch i (s.dev.scb i).ccwAddr.toNat).go i))

/-- CCW_FETCH_COMPLETE from device memory brings the 32 bytes of the CCW, charged as one access, or DATA where they are poisoned, and
ENGINE_CHECK 3 where the memory is fenced; from the host window it brings the 32 bytes of the host's reply, or DATA, or ADDRESS_CHECK
0x8009 where the reply failed. With an undefined command code the CCW ends with INVALID_OP and the code (R90, R91, R127, R145). -/
def Obligations.FetchBringsTheCcw : Prop :=
  ∀ (s : State) (n : Fin 16) (i : Nat) (e f : Dev) (addr : Nat) (bs : List Byte) (poison : Bool),
    s.dev.gate (ceDom n) = .ok → s.dev.activeSub n = some i → (s.dev.ctx i).phase = .fetching → addr = (s.dev.scb i).ccwAddr.toNat →
    (rangeOf addr ≠ .hostwin → s.dev.reach (ceDom n) addr = (.ok, e) → e.memRead addr 32 = (bs, poison, f) →
      (poison = false → Runs (.ccwFetchComplete n none) s ((f.countAccess i (ceDom n) false addr 32).ccwArrives i bs)) ∧
      (poison = true → Runs (.ccwFetchComplete n none) s ((f.countAccess i (ceDom n) false addr 32).raiseExc i xDATA 0 0))) ∧
    (rangeOf addr ≠ .hostwin → s.dev.reach (ceDom n) addr = (.fenced, e) → Runs (.ccwFetchComplete n none) s (e.raiseExc i xENGINE 3 0)) ∧
    (rangeOf addr = .hostwin → ∀ r : HostReply,
      (r.status = .ok → r.data.length = 32 → Runs (.ccwFetchComplete n (some r)) s ((s.dev.hostEnds i r).ccwArrives i r.data)) ∧
      (r.status = .poisoned → Runs (.ccwFetchComplete n (some r)) s ((s.dev.hostEnds i r).raiseExc i xDATA 0 0)) ∧
      (r.status ≠ .ok → r.status ≠ .poisoned → Runs (.ccwFetchComplete n (some r)) s ((s.dev.hostEnds i r).raiseExc i xADDRESS 0x8009 0))) ∧
    (∀ g : Dev, opDefined (parseCcw bs).op.toNat = false →
      g.ccwArrives i bs = g.raiseExc i xINVALID ((parseCcw bs).op.zeroExtend 32) (parseCcw bs).count)

/-- CCW_COMPLETE ends the CCW that has been executed. A NOP that chains commands, posts nothing and meets no bound, of a
program that neither HALT nor draining has reached, leaves its subchannel PENDING at the next CCW, with a fetch to come
(R94, R138, R145). -/
def Obligations.CompletionGoesOnToTheNextCcw : Prop :=
  ∀ (s : State) (n : Fin 16) (i : Nat) (x : Ctx), s.dev.gate (ceDom n) = .ok → s.dev.activeSub n = some i → i / 256 = n →
    x = s.dev.ctx i → x.phase = .done →
    Runs (.ccwComplete n) s ((s.dev.ccwCompletion i).go i) ∧
    ((s.dev.scb i).state = .active → (s.dev.scb i).haltReq = false → x.ccw.op = 0x30 → x.ccw.cc = true → x.ccw.cd = false →
      x.headA = x.ccw.flagsA → bitAt x.ccw.flagsA 0 = false → x.exc = none → x.plan = [] → s.dev.pageEn (pgCE + n) = true →
      (s.dev.foldTag i).boundHit i true = none → ∃ t : Dev, Runs (.ccwComplete n) s t ∧
        (t.scb i).state = .pending ∧ (t.scb i).ccwAddr = BitVec.ofNat 48 ((s.dev.scb i).ccwAddr.toNat + 32) ∧
        (t.ctx i).phase = .fetch ∧ (t.ctx i).boundary = true ∧ (t.scb i).residual = (s.dev.scb i).residual ∧ t.mem = s.dev.mem)

/-- TIC, TIC_IF, SKIP_IF, NOP, END, POST, SIGNAL and STORE_TIME execute, of the subchannel `i` that holds its engine's sequencer with
that CCW. TIC goes to its target; TIC_IF and SKIP_IF, once their condition is known (for SEL 3 the charge is folded first, for SEL 0 its
word is read, and a failed read ends the CCW), go to the target or past the next CCW where it holds, NEG applied, and on in sequence
otherwise (R100–R105). NOP and END go to their completion (R91); POST plans its record (R110); SIGNAL rings a doorbell or raises an event
(R111); STORE_TIME writes DT64, and host time after it with HOST set, as a sample (R112), or ends where the write failed.
WAIT_UNTIL and WAIT_FOR end at once where their target is reached; otherwise the target enters the wake list and the subchannel
WAITs, and with the list full the CCW ends with WAKE_LIST_FULL (R53, R55, R106). WAIT_EVENT takes an arrival that its engine holds;
without one it WAITs, for ever or to its timeout, which if already reached ends the CCW with TIMEOUT, or with residual 1 under TO_CONT
(R107–R109). Where neither a HALT nor draining has come the state is WAITING, with the cause. -/
def Obligations.ControlCommandsExecute : Prop :=
  (∀ (s : State) (n : Fin 16) (i : Nat) (d : Dev) (x : Ctx) (c : Ccw) (here : Nat) (go : Nat → Bool → Ctx),
    d = s.dev → x = d.ctx i → c = x.ccw → here = (d.scb i).ccwAddr.toNat → d.gate (ceDom n) = .ok →
    (go = fun a jump => { x with phase := .done, nextAddr := BitVec.ofNat 48 a, ticRun := (if jump then x.ticRun + 1 else x.ticRun),
                                 row := (if jump then none else x.row), chainTic := x.chainTic || x.succ }) →
    (d.toExecute n 0x0B = some i → Runs (.tic n) s (d.setCtx i (go c.addr.toNat true))) ∧
    (∀ (q : Option HostReply → Instr) (op : Byte), (q = .ticIf n ∧ op = 0x09) ∨ (q = .skipIf n ∧ op = 0x0A) → d.toExecute n op = some i →
      (c.sel ≠ 0 → ∀ e : Dev, e = (if c.sel = 3 then d.foldTag i else d) →
        Runs (q none) s (e.setCtx i (if e.selCond i != bitAt c.mod_ 7 then (if op = 0x09 then go c.addr.toNat true else go (here + 64) false)
          else go (here + 32) false))) ∧
      (c.sel = 0 → ∀ (bs : List Byte) (e : Dev), d.engRead i .cond (d.condAddr i) 8 = .ok bs e →
        Runs (q none) s (e.condDone i (wordCond c (leNat bs)))) ∧
      (c.sel = 0 → ∀ (code : Byte) (det : Word) (e : Dev), d.engRead i .cond (d.condAddr i) 8 = .fail code det e →
        Runs (q none) s (e.failAccess i code det)) ∧
      (∀ r : HostReply, ((d.condition i).ctx i).hostReq.isSome = true → r.status ≠ .ok ∨ r.data.length = 8 →
        Runs (q (some r)) s ((d.hostEnds i r).conditionHost i (some r)))) ∧
    (d.toExecute n 0x30 = some i → Runs (.nop n) s (d.setCtx i { x with phase := .done })) ∧
    (d.toExecute n 0x3F = some i → Runs (.endProgram n) s (d.setCtx i { x with phase := .done })) ∧
    (d.toExecute n 0x18 = some i → Runs (.post n) s ((d.setCtx i { x with
      plan := [{ kind := 1, code := BitVec.ofNat 8 (fld c.param 0 8), devstat := some (w32 (fld c.param 32 32)) }],
      after := some .complete }).go i)) ∧
    (d.toExecute n 0x19 = some i → ∀ e : Dev,
      e = (if bitAt c.param 12 then d.doorbell (fld c.param 0 7) else d.raiseEvent (fld c.param 0 10)) →
      Runs (.signal n) s (e.setCtx i { e.ctx i with phase := .done })) ∧
    (d.toExecute n 0x1A = some i → ∀ bs : List Byte,
      bs = leBytes 8 d.now.toNat ++ (if bitAt c.mod_ 0 then leBytes 8 (d.now + d.pacer.hostOfs).toNat else []) →
      (∀ (l : List Byte) (e : Dev), d.engWriteAll i (d.useRow c.addr.toNat) c.addr.toNat bs = .ok l e →
        Runs (.storeTime n) s ((e.sample i).2.dataDone i)) ∧
      (∀ (code : Byte) (det : Word) (e : Dev), d.engWriteAll i (d.useRow c.addr.toNat) c.addr.toNat bs = .fail code det e →
        Runs (.storeTime n) s ((e.sample i).2.failAccess i code det)))) ∧
  (∀ (s : State) (n : Fin 16) (i : Nat) (d : Dev) (x : Ctx) (c : Ccw), d = s.dev → x = d.ctx i → c = x.ccw → d.gate (ceDom n) = .ok →
    (∀ (q : Instr) (op : Byte) (t : DT), (q = .waitUntil n ∧ op = 0x10 ∧ t = c.param) ∨
        (q = .waitFor n ∧ op = 0x12 ∧ t = dsTarget x.started (lo32 c.param)) → d.toExecute n op = some i →
      (reached d.now t = true → Runs q s (d.setCtx i { x with phase := .done })) ∧
      (reached d.now t = false → d.wl.length < wlCapacity → ∃ e : Dev, d.wlInsert i ⟨t, .subch, i⟩ = (.inserted, e) ∧
        e.wl = wlPlace ⟨t, .subch, i⟩ d.wl ∧ Runs q s ((e.setCtx i { x with phase := .running }).beginWait i .time)) ∧
      (reached d.now t = false → wlCapacity ≤ d.wl.length →
        Runs q s ((d.bump pgPCR 0x078 1 0x084 1).raiseExc i xPROGRAM 0x200 c.count))) ∧
    (d.toExecute n 0x11 = some i → ∀ (g : Engine) (v ev : Nat) (t : DT), g = d.eng (i / 256) → ev = fld c.param 0 10 →
      v = smGet g.arr ev 0 → t = dsTarget x.started (w32 (fld c.param 32 32)) →
      (v % 256 ≠ 0 → Runs (.waitEvent n) s (((d.setEng (i / 256) { g with arr := smSet g.arr ev (v - 1) 0 }).setScb i
        { d.scb i with residual := 0, lastDevstat := 0 }).setCtx i { x with phase := .done })) ∧
      (v % 256 = 0 → fld c.param 32 32 = 0 → Runs (.waitEvent n) s ((d.setCtx i { x with phase := .running }).beginWait i .event)) ∧
      (v % 256 = 0 → fld c.param 32 32 ≠ 0 → reached d.now t = true → bitAt c.mod_ 0 = false →
        Runs (.waitEvent n) s (d.raiseExc i xTIMEOUT 0 1)) ∧
      (v % 256 = 0 → fld c.param 32 32 ≠ 0 → reached d.now t = true → bitAt c.mod_ 0 = true → (d.scb i).state = .active →
        Runs (.waitEvent n) s ((d.setScb i { d.scb i with residual := 1, lastDevstat := 0 }).setCtx i { x with phase := .done })) ∧
      (v % 256 = 0 → fld c.param 32 32 ≠ 0 → reached d.now t = false → d.wl.length < wlCapacity →
        ∃ e : Dev, d.wlInsert i ⟨t, .subch, i⟩ = (.inserted, e) ∧ e.wl = wlPlace ⟨t, .subch, i⟩ d.wl ∧
          Runs (.waitEvent n) s ((e.setCtx i { x with phase := .running }).beginWait i .event)) ∧
      (v % 256 = 0 → fld c.param 32 32 ≠ 0 → reached d.now t = false → wlCapacity ≤ d.wl.length →
        Runs (.waitEvent n) s ((d.bump pgPCR 0x078 1 0x084 1).raiseExc i xPROGRAM 0x200 c.count))) ∧
    (∀ (e : Dev) (q : Cause), (e.scb i).haltReq = false → e.pageEn (pgCE + i / 256) = true →
      ((e.beginWait i q).scb i).state = .waiting ∧ ((e.beginWait i q).scb i).cause = q))

/-- MOVE and DIGEST begin: without a transform, or with their stream at hand, at the first byte of their source, a linear MOVE downward
where R114 asks for it; with a transform and no stream the head asks for one, begins where it is granted at once and waits otherwise,
and a successor whose stream is gone ends with DATA_CHECK (R113–R116, R296). Their data follow by HUB_RESPONSE.
CALL_SPOKE posts the call's 16-byte message to its mailbox and WAITs for the reply, for ever or to its timeout; a mailbox that does
not take it ends the CCW with DEVICE_STATUS, a full wake list with WAKE_LIST_FULL before anything is posted, and a timeout already
reached, or reached later, with TIMEOUT (R117, R118). -/
def Obligations.MovesAndCallsBegin : Prop :=
  (∀ (s : State) (n : Fin 16) (i : Nat) (q : Instr) (op : Byte) (d : Dev) (x : Ctx) (c : Ccw) (start : Dev → Dev),
    (q = .move n ∧ op = 0x20) ∨ (q = .digest n ∧ op = 0x21) → d = s.dev → x = d.ctx i → c = x.ccw → d.gate (ceDom n) = .ok →
    d.toExecute n op = some i →
    (start = fun e => (e.setCtx i { e.ctx i with
      phase := .running, moved := 0, dest := (e.ctx i).ccw.param.toNat,
      backward := (e.ctx i).ccw.op = 0x20 && !(e.ctx i).ccw.xf && !(e.ctx i).ccw.idal &&
        decide (plainAddr (e.ctx i).ccw.addr.toNat < plainAddr (e.ctx i).ccw.param.toNat ∧
          plainAddr (e.ctx i).ccw.param.toNat < plainAddr (e.ctx i).ccw.addr.toNat + (e.ctx i).ccw.count.toNat) &&
        e.useRow (e.ctx i).ccw.addr.toNat = e.useRow ((e.ctx i).ccw.addr.toNat + (e.ctx i).ccw.count.toNat - 1) &&
        e.useRow (e.ctx i).ccw.param.toNat = e.useRow ((e.ctx i).ccw.param.toNat + (e.ctx i).ccw.count.toNat - 1),
      destRow := if (e.ctx i).succ then (e.ctx i).destRow else e.useRow (e.ctx i).ccw.param.toNat }).openArea i) →
    (c.xf = false ∨ (d.stream i).isSome = true → Runs q s (start d)) ∧
    (c.xf = true → d.stream i = none → x.succ = true → Runs q s (d.raiseExc i xDATA 0 c.count)) ∧
    (c.xf = true → d.stream i = none → x.succ = false → ∀ e : Dev, e = d.askStream i →
      ((e.stream i).isSome = true → (e.scb i).state = .active → (e.ctx i).phase = .ready → Runs q s (start e)) ∧
      (e.stream i = none ∨ (e.scb i).state ≠ .active ∨ (e.ctx i).phase ≠ .ready → Runs q s e))) ∧
  (∀ (s : State) (n : Fin 16) (i : Nat) (d : Dev) (x : Ctx) (c : Ccw), d = s.dev → x = d.ctx i → c = x.ccw → d.gate (ceDom n) = .ok →
    (d.toExecute n 0x28 = some i → ∀ (m : Nat) (r : Gate) (e f : Dev) (msg : List Byte) (t : DT) (z : Ctx),
      m = fld c.param 0 7 → d.knock (commonDom (m / 16)) = (r, e) → r ≠ .asleep →
      msg = leBytes 8 c.addr.toNat ++ leBytes 4 c.count.toNat ++ leBytes 2 i ++ leBytes 2 (fld c.param 16 16) →
      t = dsTarget (e.ctx i).started (w32 (fld c.param 32 32)) → z = { f.ctx i with spoke := some m } →
      (∀ r : PostRes, r ≠ .accepted → e.mboxPost i (ceAgent (i / 256)) m (fld c.param 8 3) msg true = (r, f) →
        Runs (.callSpoke n) s (f.raiseExc i xDEVICE 1 c.count)) ∧
      (e.mboxPost i (ceAgent (i / 256)) m (fld c.param 8 3) msg true = (.accepted, f) →
        (fld c.param 32 32 = 0 → Runs (.callSpoke n) s (((f.setCtx i z).setCtx i { z with phase := .running }).beginWait i .spoke)) ∧
        (fld c.param 32 32 ≠ 0 → reached e.now t = false → wlCapacity ≤ e.wl.length →
          Runs (.callSpoke n) s ((e.bump pgPCR 0x078 1 0x084 1).raiseExc i xPROGRAM 0x200 c.count)) ∧
        (∀ g : Dev, fld c.param 32 32 ≠ 0 → (reached e.now t = true ∨ e.wl.length < wlCapacity) →
          ((f.setCtx i z).wlInsert i ⟨t, .subch, i⟩ = (.inserted, g) →
            Runs (.callSpoke n) s ((g.setCtx i { g.ctx i with phase := .running }).beginWait i .spoke)) ∧
          ((f.setCtx i z).wlInsert i ⟨t, .subch, i⟩ = (.reached, g) → Runs (.callSpoke n) s (g.raiseExc i xTIMEOUT 0 c.count))))) ∧
    (∀ (t : Counts) (sub : Fin 256) (j : Nat) (w : WlEntry) (e : Dev), e = s.dev.atCounts t → j = 256 * n + sub →
      (e.wl.find? fun v => wlMine .subch j v && reached e.now v.target) = some w →
      (e.scb j).state = .waiting → (e.scb j).cause = .spoke → w.dom.any (fun k => (e.dom k).asleep) = false →
      ∀ g : Dev, g = ({ e with wl := e.wl.filter fun v => !(wlMine .subch j v) }).count 0 3 j 1 →
      Runs (.callSpokeTimeout t n sub) s ((g.setCtx j { g.ctx j with spoke := none }).raiseExc j xTIMEOUT 0 (e.ctx j).ccw.count)))

/-- READ, WRITE, CONTROL and SENSE begin, with a usable instance in an awake domain, operation by operation on their adapter, once the
stream of a transform is at hand; they go on in the same way while they hold the sequencer. A head whose stream is not granted at once
waits for it, a successor whose stream is gone ends with DATA_CHECK; an instance that is not usable answers DEVICE_STATUS with its
code, with nothing transferred; a memory window whose range the command may not reach ends it with PROTECTION; and a sleeping domain is
woken first (R173–R177, R203, R296). -/
def Obligations.DeviceCommandsBegin : Prop :=
  ∀ (s : State) (n : Fin 16) (i : Nat) (q : Instr) (op : Byte) (d : Dev) (x : Ctx) (b : Word),
    ((q = .read n ∧ op = 0x40) ∨ (q = .write n ∧ op = 0x41) ∨ (q = .control n ∧ op = 0x42) ∨ (q = .sense n ∧ op = 0x43)) →
    d = s.dev → x = d.ctx i → b = (d.scb i).binding → d.gate (ceDom n) = .ok → d.activeSub n = some i → x.ccw.op = op →
    (x.phase = .running → Runs q s (((d.devIssue i).devSettle i opFuel).waitDevice i)) ∧
    (x.phase = .ready →
      (∀ code : Nat, d.notReady b x.ccw = some code → Runs q s (d.raiseExc i xDEVICE (devstat (bKind b) code 0) x.ccw.count)) ∧
      (d.notReady b x.ccw = none → d.mwForbids b op = true → Runs q s (d.raiseExc i xPROTECTION 0x8005 x.ccw.count)) ∧
      (∀ e : Dev, d.notReady b x.ccw = none → d.mwForbids b op = false → d.knock (d.bindDom b) = (.asleep, e) → Runs q s e) ∧
      (∀ e g : Dev, d.notReady b x.ccw = none → d.mwForbids b op = false → d.knock (d.bindDom b) = (.ok, e) →
        g = (if x.ccw.xf = true ∧ e.stream i = none ∧ x.succ = false then e.askStream i else e) →
        (x.ccw.xf = false ∨ (g.stream i).isSome = true → Runs q s (((((g.setCtx i { g.ctx i with
          phase := .running, moved := 0, fed := 0, segs := [], devEnd := none, counting := true,
          stage := if x.succ ∧ !x.ccw.sink then (g.ctx i).stage else 0, outTo := if x.succ ∧ !x.ccw.sink then (g.ctx i).outTo else 0 }).openArea
          i).devIssue i).devSettle i opFuel).waitDevice i)) ∧
        (x.ccw.xf = true → g.stream i = none → x.succ = false → Runs q s g) ∧
        (x.ccw.xf = true → g.stream i = none → x.succ = true → Runs q s (g.raiseExc i xDATA 0 x.ccw.count))))

/-- DEVICE_OPERATION_COMPLETE takes an operation with its outcome, and one that a cleared subchannel left behind frees its slot alone
(R142, R166). PCIEMEM_COMPLETION_TIMEOUT ends a read through a memory window, the acknowledging read of a write too, with TIMEOUT after
MW_TMO (R203).
PORT_DATA_REQUEST reserves at most 256 bytes for the command at a paced port: what an I3C or SPI target gives of what the command
still wants; what a UART's buffer holds ahead of its first error, which with nothing ahead ends the READ; what the packets of a ready
FIFO hold, or with nothing left but the packet's end that end; and for a WRITE or CONTROL what the port takes of what is left, of a
transform's output what it takes (R178, R204–R211, R283). -/
def Obligations.DeviceOperationsProgress : Prop :=
  (∀ (s : State) (n : Fin 16) (sub : Fin 256) (i : Nat) (d : Dev) (x : Ctx) (b : Word),
    d = s.dev → i = n * 256 + sub → x = d.ctx i → b = (d.scb i).binding →
    (∀ (r : DevResult) (o : DevOp) (z : OpRes) (e : Dev), d.isFenced (ceDom n) = false →
      ((d.eng n).reaping.find? fun (k : Nat × Nat) => k.1 % 256 = sub.val) = none → (x.ops.filter (!·.taken))[r.idx]? = some o →
      d.gate (d.bindDom b) ≠ .asleep → d.outcome i o r = some (z, e) → Runs (.deviceOperationComplete n sub r) s (e.takeOp i o z)) ∧
    (∀ (r : DevResult) (k : Nat × Nat), d.isFenced (ceDom n) = false → ((d.eng n).reaping.find? fun (k : Nat × Nat) => k.1 % 256 = sub.val) = some k →
      Runs (.deviceOperationComplete n sub r) s
        (((d.setEng n { d.eng n with reaping := (d.eng n).reaping.erase k }).bump (pgCE + n) 0x064 1 0x074 0).grantSlot n)) ∧
    (∀ (idx : Nat) (o : DevOp) (t : Word), (x.ops.filter (!·.taken))[idx]? = some o → bKind b = 2 →
      x.ccw.sink = true ∨ x.flushOp = some o.id →
      t = d.reg pgWCH (0x30C + 16 * bWindow b) → t ≠ 0 → (ds32Dur t).toNat ≤ (d.now - o.issued).toNat →
      Runs (.pciememCompletionTimeout n sub idx) s (d.takeOp i o { status := statCode codeTIMEOUT 0 }))) ∧
  (∀ (s : State) (n : Fin 16) (sub : Fin 256) (i : Nat) (d : Dev) (x : Ctx) (b : Word) (take : Fin 257) (data : List Byte) (left : Nat),
    d = s.dev → i = 256 * n + sub → x = d.ctx i → b = (d.scb i).binding → x.phase = .running →
    ((d.scb i).state = .waiting ∨ (d.scb i).state = .draining) → d.served i = true → x.burst = 0 → (x.ccw.sink = true → x.data = []) →
    x.outq = [] → x.exc = none → (x.frontOp.bind (·.res)) = none → d.gate (d.bindDom b) = .ok → d.portOn b = true →
    left = x.ccw.count.toNat - (if x.ccw.sink then x.moved else x.fed) →
    (bKind b = 3 ∨ bKind b = 4 → x.ccw.sink = true → ∀ bs : List Byte, bs = data.take (min (min 256 take.val) left) →
      Runs (.portDataRequest n sub take data) s (d.setCtx i { x with data := bs, burst := bs.length })) ∧
    ((bKind b = 3 ∨ bKind b = 4) ∧ x.ccw.sink = false ∨ bKind b = 5 ∧ x.ccw.op = opWRITE → Runs (.portDataRequest n sub take data) s
      (d.setCtx i { x with burst := min 256 (if x.ccw.xf then take.val else min take.val (left + x.data.length)) })) ∧
    (bKind b = 5 → x.ccw.op = opREAD → ∀ (u k : Nat), u = bPort b → k = min (min 256 take.val) (min left (leadBytes (d.uart u).rx).length) →
      (k ≠ 0 → Runs (.portDataRequest n sub take data) s ((d.setUart u { d.uart u with reserved := k }).setCtx i { x with burst := k })) ∧
      (k = 0 → Runs (.portDataRequest n sub take data) s (d.uartCheck u))) ∧
    (bKind b = 7 → x.ccw.op = opREAD → ∀ (f k : Nat), f = bQueue b → d.fifoReady f = true →
      k = min (min 256 take.val) (min left (packetBytes (d.fifo f).chain)) →
      (k ≠ 0 → Runs (.portDataRequest n sub take data) s
        ((d.setFifo f { d.fifo f with reserved := stagesOf k (d.fifo f).chain }).setCtx i { x with burst := k })) ∧
      (k = 0 → ∀ (t : Stage) (l : List Stage) (e : Dev), (d.fifo f).chain = t :: l → t.data = [] → t.eop = true → d.fifoTake f i = (some t, e) →
        Runs (.portDataRequest n sub take data) s (if t.bad then e.failSource i xDATA 0 else e.setOpRes i {}))))

/-- LEND gives a free queue with good fields to the device, its completion queue cleared; while a domain of that memory sleeps the
lending is held and wakes it, and bad fields set LEND_ERR (R183, R184). REVOKE takes a lent queue back, failing what was not sent, once
nothing is outstanding (R198). NVME_CQ_SCAN of a queue that a watched write has reached takes its new entries in order, rings the head
doorbell where there were any, and refills the submission queue (R193, R194). NVME_COMMAND_TIMEOUT takes the command past its timeout
out: its operation ends with TIMEOUT, and one whose subchannel was cleared frees its slot, unless its engine is fenced (R166, R196). -/
def Obligations.LentQueueCommandsComplete : Prop :=
  ∀ (s : State) (a : Agent) (q : Fin 32) (e : Dev) (v : LentQ), v = e.lq q →
    (s.dev.arrives a pgNVA (lqOff q 0x00) true = some e → e.unlocked pgNVA a → v.state = .free → ∀ ks : List Nat,
      ks = ((List.range ((e.cqSize q * 16 + 4095) / 4096)).map fun k => addrDom (e.cqBase q + 4096 * k)).eraseDups →
      (e.lendOk q = true → (∀ k ∈ ks, e.gate k ≠ .asleep) →
        Runs (.lend a q) s ((e.clearMem (e.cqBase q) (e.cqSize q * 16)).setLq q { state := .lent, phase := true })) ∧
      (e.lendOk q = true → (∃ k ∈ ks, e.gate k = .asleep) → ∀ f : Dev, f = ks.foldl (fun d k => (d.knock k).2) e →
        Runs (.lend a q) s { f with held := f.held ++ [.lend q] }) ∧
      (e.lendOk q = false → Runs (.lend a q) s (e.setLq q { v with lendErr := true }))) ∧
    (s.dev.arrives a pgNVA (lqOff q 0x00) true = some e → e.unlocked pgNVA a → v.state = .lent →
      Runs (.revoke a q) s (((e.setLq q { v with state := .revoking }).failUnsent q codeREVOKED).lqRelease q)) ∧
    (e = s.dev → v.state ≠ .free → v.due = true → ∀ f : Dev,
      (e.reach 3 (e.cqBase q + 16 * v.cqHead) = (.ok, f) →
        ∀ g : Dev, g = (f.setLq q { v with due := false }).cqScan q ((f.setLq q { v with due := false }).cqSize q) →
        Runs (.nvmeCqScan q) s (((if (g.lq q).cqHead ≠ v.cqHead ∨ (g.lq q).phase ≠ v.phase then
          g.ringDoorbell q true (g.lq q).cqHead else g).sqFlush q).lqRelease q)) ∧
      (∀ r : Gate, r ≠ .ok → e.reach 3 (e.cqBase q + 16 * v.cqHead) = (r, f) → Runs (.nvmeCqScan q) s f)) ∧
    (∀ (c : Counts) (k : NvCmd) (f : Dev) (key : Nat × Nat), e = s.dev.atCounts c → e.overdue q = some k →
      f = (e.setLq q { v with cmds := v.cmds.filter fun x => x.cid ≠ k.cid }).bump pgNVA 0x050 1 0x054 1 →
      key = (k.slot * 256 + k.sub % 256, k.cid.toNat) →
      (∀ o : DevOp, (f.ctx k.sub).ops.find? (fun o => o.id = k.op && !o.taken) = some o →
        Runs (.nvmeCommandTimeout c q) s ((f.takeOp k.sub o { status := statCode codeTIMEOUT 0 }).lqRelease q)) ∧
      ((f.ctx k.sub).ops.find? (fun o => o.id = k.op && !o.taken) = none →
        f.isFenced (ceDom (k.sub / 256)) = false → (f.eng (k.sub / 256)).reaping.contains key = true →
        Runs (.nvmeCommandTimeout c q) s ((((f.setEng (k.sub / 256) { f.eng (k.sub / 256) with
          reaping := (f.eng (k.sub / 256)).reaping.erase key }).bump (pgCE + k.sub / 256) 0x064 1 0x074 0).grantSlot (k.sub / 256)).lqRelease q)))

/-- The serial ports receive, in a domain that is not fenced. A UART that hears its ball takes a character; a framing error and, where
parity is checked, a parity error are counted and marked; a break is counted, and closes a packet or is marked for a READ that still
wants bytes, and its end is seen (R208, R209, R214). UART_IDLE_GAP ends the READ in progress once its gap has passed with nothing left to
take, UART_PACKET_GAP closes an open packet (R208, R280). An SPI port in target role opens a packet at its select, counts an item's bytes
and gives them to its FIFO, and at the release counts the transfer and closes the packet, BAD where an item was left partial; without a
FIFO its select, items and release only count (R216, R279). -/
def Obligations.SerialPortsReceive : Prop :=
  ∀ (s : State) (u : Fin 4) (e f : Dev) (r : Gate), r ≠ .fenced →
    (s.dev.uartHears u = true → s.dev.knock 19 = (r, e) →
      f = e.setUart u { e.uart u with pin := true, lastRx := e.now, since := e.now } →
      (∀ (b : Byte) (parity : Bool), Runs (.uartCharacterReceived u b true parity) s ((f.uartCount u 0x10 0).uartMark u .framing)) ∧
      (∀ b : Byte, f.rf pgUAR (uarOff u 0) 2 2 ≠ 0 →
        Runs (.uartCharacterReceived u b false true) s ((f.uartCount u 0x14 1).uartMark u .parity)) ∧
      (∀ (b : Byte) (parity : Bool), parity = false ∨ f.rf pgUAR (uarOff u 0) 2 2 = 0 →
        Runs (.uartCharacterReceived u b false parity) s (f.uartReceive u b))) ∧
    (s.dev.uartHears u = true → s.dev.knock 19 = (r, e) →
      f = (e.setUart u { e.uart u with pin := false, inBreak := true }).uartCount u 0x1C 3 →
      (∀ k, f.producerFifo 1 u = some k → Runs (.uartBreak u) s (f.fifoClose k false)) ∧
      (f.producerFifo 1 u = none → f.uartReader u = none → Runs (.uartBreak u) s f) ∧
      (∀ i, f.producerFifo 1 u = none → f.uartReader u = some i → (f.ctx i).moved < (f.ctx i).ccw.count.toNat ∨ (f.ctx i).ccw.cd = true →
        Runs (.uartBreak u) s ((f.setUart u { f.uart u with rx := (f.uart u).rx ++ [.brk] }).uartCheck u)) ∧
      (∀ i, f.producerFifo 1 u = none → f.uartReader u = some i → (f.ctx i).ccw.count.toNat ≤ (f.ctx i).moved → (f.ctx i).ccw.cd = false →
        Runs (.uartBreak u) s f)) ∧
    ((s.dev.uart u).inBreak = true →
      Runs (.uartBreakEnd u) s (s.dev.setUart u { s.dev.uart u with pin := true, inBreak := false, since := s.dev.now })) ∧
    (∀ (i : Nat) (x : Ctx) (gap : DT), s.dev.uartReader u = some i → x = s.dev.ctx i → gap = ds32Dur (w32 (fld x.ccw.param 0 32)) →
      gap ≠ 0 → gap.toNat ≤ s.dev.now.toNat - max ((x.frontOp.map fun (o : DevOp) => o.issued).getD 0).toNat (s.dev.uart u).lastRx.toNat →
      x.chainMoved + x.moved ≠ 0 → x.burst = 0 → x.data = [] → (s.dev.uart u).rx = [] →
      Runs (.uartIdleGap u) s (s.dev.setOpRes i {})) ∧
    (∀ (k : Nat) (gap : DT), s.dev.producerFifo 1 u = some k → gap = ds32Dur (s.dev.reg pgUAR (uarOff u 8)) → gap ≠ 0 →
      gap.toNat ≤ (s.dev.now - (s.dev.uart u).lastRx).toNat → (s.dev.fifo k).inPkt = true →
      Runs (.uartPacketGap u) s (s.dev.fifoClose k false)) ∧
    (s.dev.spiTarget u = true → s.dev.knock (17 + u / 2) = (r, e) →
      ((s.dev.spi u).tgtSel = false → f = e.setSpi u { e.spi u with tgtSel := true } →
        (∀ k, f.producerFifo 2 u = some k → Runs (.spiTargetSelect u) s (f.setFifo k { f.fifo k with inPkt := true, pktLen := 0 })) ∧
        (f.producerFifo 2 u = none → Runs (.spiTargetSelect u) s f)) ∧
      ((s.dev.spi u).tgtSel = true → ∀ (n : Nat) (v : Word), n = 2 ^ e.rf pgSPI (spiOff u 0) 16 2 →
        f = (e.wideAdd pgSPI (spiOff u 0x28) n).countSerial (regionTag 3) n →
        (∀ k, f.producerFifo 2 u = some k →
          Runs (.spiTargetItem u v) s ((leBytes n v.toNat).foldl (fun d b => (d.fifoByte k b).fifoDeferred k) f)) ∧
        (f.producerFifo 2 u = none → Runs (.spiTargetItem u v) s f)) ∧
      ((s.dev.spi u).tgtSel = true → ∀ bad : Bool,
        f = (e.setSpi u { e.spi u with tgtSel := false }).bump pgSPI (spiOff u 0x1C) 1 (spiOff u 0x30) 1 →
        (∀ k, f.producerFifo 2 u = some k → (f.fifo k).inPkt = true ∨ bad = true → Runs (.spiTargetDeselect u bad) s (f.fifoClose k bad)) ∧
        (∀ k, f.producerFifo 2 u = some k → (f.fifo k).inPkt = false → bad = false → Runs (.spiTargetDeselect u bad) s f) ∧
        (f.producerFifo 2 u = none → Runs (.spiTargetDeselect u bad) s f)))

/-- The I3C controllers assign dynamic addresses (R217), and take an in-band interrupt of a target they accept, its mandatory byte and at
most 7 more, into its FIFO's packet, or held for a reader with its event raised; while one is held no other is acknowledged. An interrupt
of a target they do not accept is refused, and at the third refusal the target is told to stop (R205, R218). A bus error sets the
controller's bit of BUS_ERR (R218). -/
def Obligations.I3cCommandsComplete : Prop :=
  ∀ (s : State) (c : Fin 6) (e : Dev) (v : I3c), c.val < 5 →
    (∀ (a : Agent) (acked : BitVec 11) (answers : Fin 12) (f : Dev) (l : List Nat),
      s.dev.arrives a pgI3C (i3cOff c 0) true = some e → e.unlocked pgI3C a →
      e.writeI3cCtrl c (withBit (s.dev.reg pgI3C (i3cOff c 0)) 28 true) = some f →
      bitAt (f.reg pgI3C (i3cOff c 0)) 31 = true → bitAt (f.reg pgI3C (i3cOff c 0)) 29 = false → (f.i3c c).daaBusy = true →
      f.i3cBusy c = false → f.gate (14 + c / 2) = .ok → v = f.i3c c →
      l = v.assigned ++ ((List.range 11).filter fun t => bitAt (f.dat c t) 31 && !bitAt (f.dat c t) 7 && fld (f.dat c t) 0 7 ≠ 0 &&
        bitAt acked t).filter (fun t => !v.assigned.contains t) →
      Runs (.i3cDaa a c acked answers) s (f.setI3c c { v with daaBusy := false, assigned := l ++ f.daaEntries c answers l })) ∧
    (∀ (r : Gate) (addr : BitVec 7) (offered payload : List Byte) (acc : Bool) (f : Dev), r ≠ .fenced →
      s.dev.rb pgI3C (i3cOff c 0) 31 = true → s.dev.knock (14 + c / 2) = (r, e) → v = e.i3c c → payload = offered.take 8 →
      acc = ((List.range 11).any fun t => bitAt (e.dat c t) 31 && bitAt (e.dat c t) 30 && fld (e.dat c t) 16 8 = addr.toNat) →
      f = (e.bump pgI3C (i3cOff c 0x28) 1 (i3cOff c 0x2C) 2).countSerial (regionTag 3) payload.length →
      (acc = false → ∀ k : Nat, k = smGet v.unaccepted addr.toNat 0 + 1 →
        Runs (.i3cIbi c addr offered) s (e.setI3c c { v with
          unaccepted := smSet v.unaccepted addr.toNat (if k = 3 then 0 else k) 0 })) ∧
      (acc = true → v.ibiValid = true → Runs (.i3cIbi c addr offered) s e) ∧
      (acc = true → e.producerFifo 3 c = none → v.ibiValid = false →
        Runs (.i3cIbi c addr offered) s ((f.setI3c c { v with ibiValid := true, ibiAddr := addr, ibi := payload }).raiseEvent (288 + c))) ∧
      (∀ k, acc = true → e.producerFifo 3 c = some k → v.ibiValid = false →
        Runs (.i3cIbi c addr offered) s ((payload.foldl (fun d b => d.fifoByte k b) f).fifoClose k false))) ∧
    (s.dev.rb pgI3C (i3cOff c 0) 31 = true → Runs (.i3cBusError c) s (s.dev.setRf pgI3C 0x04C c 1 1))

/-- GPIO_LEVEL_CHANGE notes the ball's level; without debounce the block takes it at once while it senses, GPIO_DEBOUNCE_EXPIRY takes it
once it has lasted; an edge that SENSE selects is counted and raises the pin's event (R220, R221). OUT_SET and OUT_CLR drive the pins
they name and no others, and count the driven pins that change (R220). -/
def Obligations.GpioCommandsComplete : Prop :=
  ∀ (s : State) (k : Fin 32) (v : Bool) (e : Dev) (take : Dev → Dev) (edge : Nat → Bool),
    (edge = fun sense => sense = 3 || (sense = 1 && v) || (sense = 2 && !v)) →
    (take = fun d => if edge (d.rf pgGPI (0x100 + 4 * k) 0 2)
      then ((({ d with gpi := { d.gpi with level := withBit d.gpi.level k v } }).bump pgGPI 0x058 1 0x05C 0).count 3 2
        (regionTag 3) 1).raiseEvent (64 + k)
      else { d with gpi := { d.gpi with level := withBit d.gpi.level k v } }) →
    (e = (if bitAt s.dev.gpi.raw k = v then s.dev
        else { s.dev with gpi := { s.dev.gpi with raw := withBit s.dev.gpi.raw k v, since := smSet s.dev.gpi.since k s.dev.now 0 } }) →
      (s.dev.gpioSenses = false ∨ s.dev.rb pgGPI (0x100 + 4 * k) 5 = true ∨ bitAt s.dev.gpi.level k = v → Runs (.gpioLevelChange k v) s e) ∧
      (s.dev.gpioSenses = true → s.dev.rb pgGPI (0x100 + 4 * k) 5 = false → bitAt s.dev.gpi.level k ≠ v →
        Runs (.gpioLevelChange k v) s (take e))) ∧
    (∀ c : Counts, e = s.dev.atCounts c → bitAt e.gpi.raw k = v → e.gpioSenses = true → e.rb pgGPI (0x100 + 4 * k) 5 = true →
      e.rf pgGPI 0x054 0 16 * 256 ≤ (e.now - smGet e.gpi.since k 0).toNat →
      (bitAt e.gpi.level k ≠ v → Runs (.gpioDebounceExpiry c k) s (take e)) ∧
      (bitAt e.gpi.level k = v → Runs (.gpioDebounceExpiry c k) s e)) ∧
    (∀ (a : Agent) (w new : Word), s.dev.arrives a pgGPI 0x04C true = some e → e.unlocked pgGPI a → new = e.reg pgGPI 0x044 ||| w →
      Runs (.gpioOutSet a w) s ((e.setReg pgGPI 0x044 new).count 3 3 (e.tagOf a)
        ((List.range 32).filter fun j => bitAt (e.reg pgGPI 0x044 ^^^ new) j && bitAt (e.reg pgGPI 0x048) j).length)) ∧
    (∀ (a : Agent) (w new : Word), s.dev.arrives a pgGPI 0x050 true = some e → e.unlocked pgGPI a → new = e.reg pgGPI 0x044 &&& ~~~w →
      Runs (.gpioOutClr a w) s ((e.setReg pgGPI 0x044 new).count 3 3 (e.tagOf a)
        ((List.range 32).filter fun j => bitAt (e.reg pgGPI 0x044 ^^^ new) j && bitAt (e.reg pgGPI 0x048) j).length))

/-- The EC target port, enabled. EC_PRIVATE_READ answers the urgent byte, alone while the unit is fenced or no message index is set, and
otherwise with the message bytes from the index on after it, and the index moves; EC_PRIVATE_WRITE of one byte from 1 to 32 sets the index,
of 0 clears it, and any other write is counted as an error (R222, R223, R250). SETDASA and ENTDAA give an address to a port without
one, RSTDAA drops it, ENEC and DISEC with bit 0 allow and stop interrupts, GETPID, GETBCR, GETDCR and GETMRL answer their registers, each
noted as the last CCC, and an unsupported one is counted; a direct CCC does not reach a port without address (R222). EC_IBI_RAISE
ends an interrupt asked for with the EC's acknowledgement, the urgent byte as it then stands its data byte, or after three refusals
(R222, R251). -/
def Obligations.EcPortCommandsComplete : Prop :=
  ∀ (s : State) (d : Dev) (ccc : Nat → Dev), d = s.dev → d.ecpOn = true → (ccc = fun code => d.setReg pgECP 0x074 (w32 code)) →
    (∀ (n : Fin 34) (e : Dev) (i k : Nat), n.val ≠ 0 → e = (d.bump pgECP 0x058 1 0x070 0).countSerial (regionTag 3) 1 →
      i = fld (d.reg pgECP 0x054) 0 5 → k = min (n.val - 1) (32 - i) →
      (d.isFenced 24 = true → Runs (.ecPrivateRead n) s { d with resp := [d.urgentByte.zeroExtend 32] }) ∧
      (d.isFenced 24 = false → bitAt (d.reg pgECP 0x054) 31 = false →
        Runs (.ecPrivateRead n) s { e with resp := [d.urgentByte.zeroExtend 32] }) ∧
      (d.isFenced 24 = false → bitAt (d.reg pgECP 0x054) 31 = true →
        Runs (.ecPrivateRead n) s { e.setReg pgECP 0x054 (w32 ((i + k) % 32)) with
          resp := d.urgentByte.zeroExtend 32 :: (List.range k).map fun j =>
            w32 (e.rf pgECP (0x100 + (i + j) / 4 * 4) (8 * ((i + j) % 4)) 8) })) ∧
    (∀ e : Dev, d.isFenced 24 = false → e = d.bump pgECP 0x05C 1 0x070 1 →
      Runs (.ecPrivateWrite [0]) s (e.setRf pgECP 0x054 31 1 0) ∧
      (∀ b : Byte, b ≠ 0 → b.toNat ≤ 32 → Runs (.ecPrivateWrite [b]) s (e.setReg pgECP 0x054 (w32 (2 ^ 31 + (b.toNat - 1))))) ∧
      (∀ b : Byte, 32 < b.toNat → Runs (.ecPrivateWrite [b]) s (e.bump pgECP 0x068 1 0x070 4)) ∧
      (∀ bs : List Byte, bs.length ≠ 1 → Runs (.ecPrivateWrite bs) s (e.bump pgECP 0x068 1 0x070 4))) ∧
    (∀ addr : BitVec 7, Runs (.setdasa addr) s (if (ccc 0x87).ecpDyn = 0 then (ccc 0x87).ecpAddr addr.toNat else ccc 0x87)) ∧
    (∀ addr : BitVec 7, Runs (.entdaa addr) s (if (ccc 0x07).ecpDyn = 0 then (ccc 0x07).ecpAddr addr.toNat else ccc 0x07)) ∧
    Runs .rstdaa s (if (ccc 0x06).ecpDyn = 0 then ccc 0x06 else (ccc 0x06).ecpAddr 0) ∧
    (∀ (q : Bool → Byte → Instr) (code : Nat) (off : Bool), (q = .enec ∧ code = 0x00 ∧ off = false) ∨ (q = .disec ∧ code = 0x01 ∧ off = true) →
      ∀ (direct : Bool) (bits : Byte) (e : Dev), e = ccc (if direct then code + 0x80 else code) →
      (direct = false ∨ d.ecpDyn ≠ 0 → bitAt bits 0 = true → Runs (q direct bits) s { e with ecp := { e.ecp with disec := off } }) ∧
      (direct = false ∨ d.ecpDyn ≠ 0 → bitAt bits 0 = false → Runs (q direct bits) s e) ∧
      (direct = true → d.ecpDyn = 0 → Runs (q direct bits) s d)) ∧
    (∀ (q : Instr) (code : Nat) (get : Dev → List Nat),
      (q = .getpid ∧ code = 0x8D ∧ get = Dev.ecPid) ∨ (q = .getbcr ∧ code = 0x8E ∧ get = fun e => [e.rf pgECP 0x050 8 8]) ∨
      (q = .getdcr ∧ code = 0x8F ∧ get = fun e => [e.rf pgECP 0x050 0 8]) ∨
      (q = .getmrl ∧ code = 0x8C ∧ get = fun e => [e.rf pgECP 0x078 8 8, e.rf pgECP 0x078 0 8]) →
      (d.ecpDyn ≠ 0 → Runs q s { ccc code with resp := (get (ccc code)).map w32 }) ∧ (d.ecpDyn = 0 → Runs q s d)) ∧
    (∀ code : Byte, Runs (.ecUnsupportedCcc code) s ((ccc code.toNat).ecpCount 0x068 4)) ∧
    (d.ecp.ibiPend = true → d.ecpDyn ≠ 0 → d.rb pgECP 0x040 23 = true → d.ecp.disec = false →
      Runs (.ecIbiRaise true) s (({ d with ecp := { d.ecp with ibiPend := false, tries := 0 }
                                           resp := [d.urgentByte.zeroExtend 32] }).ecpCount 0x060 2) ∧
      (2 ≤ d.ecp.tries → Runs (.ecIbiRaise false) s (({ d with ecp := { d.ecp with ibiPend := false, tries := 0 } }).ecpCount 0x064 3)) ∧
      (d.ecp.tries < 2 → Runs (.ecIbiRaise false) s
        (({ d with ecp := { d.ecp with ibiPend := true, tries := d.ecp.tries + 1 } }).ecpCount 0x064 3)))

/-- RING_ENABLE with good fields enables a ring, its indices at 0, and is discarded with BAD_WRITE with bad ones (R226, R227);
RING_DISABLE disables an empty ring that nothing waits for, and is discarded otherwise (R228); a consumer index moves up to the producer
index and frees what lies below, and any other is discarded (R230). HOST_ASLEEP drops a flush; HOST_AWAKE of a host that was asleep
begins one and wakes the upstream link, and changes nothing of one that is awake (R238–R240). -/
def Obligations.RingCommandsComplete : Prop :=
  ∀ (s : State) (a : Agent) (i : Fin 128) (e : Dev) (v : Word), e.unlocked pgHIF a →
    (∀ (w new : Word) (size base : Nat) (good : Bool), w = withBit v 31 true → s.dev.arrives a pgHIF (rcfgOff i) true = some e →
      new = w &&& 0xE01F00FF → size = 32 * 2 ^ fld w 16 5 → base = e.rf pgHIF (0x400 + 4 * i) 5 21 * 32 →
      good = decide (6 ≤ fld w 16 5 ∧ fld w 16 5 ≤ 16 ∧ fld w 0 8 ≠ 0 ∧ base % size = 0 ∧ base + size ≤ xramBase ∧
        (bitAt w 30 = true → (e.reg pgHIF (0xA00 + 4 * i)).toNat * 32 % size = 0)) →
      (e.ringEn i = false → good = true → ∃ t : Dev, Runs (.ringEnable a i v) s t ∧ t.hif = { e.hif with
        prod := smErase e.hif.prod i, mirrored := smErase e.hif.mirrored i, unread := smErase e.hif.unread i,
        flushTo := smErase e.hif.flushTo i } ∧
        t.regs = ((e.setReg pgHIF (rcfgOff i) new).setReg pgHIF (rconsOff i) 0).regs ∧ t.mem = e.mem) ∧
      (e.ringEn i = false → good = false → Runs (.ringEnable a i v) s (e.badWrite pgHIF a (rcfgOff i))) ∧
      (e.ringEn i = true → (e.rcfg i ^^^ new) &&& 0x7FFFFFFF = 0 → Runs (.ringEnable a i v) s e) ∧
      (e.ringEn i = true → (e.rcfg i ^^^ new) &&& 0x7FFFFFFF ≠ 0 → Runs (.ringEnable a i v) s (e.badWrite pgHIF a (rcfgOff i)))) ∧
    (∀ new : Word, s.dev.arrives a pgHIF (rcfgOff i) true = some e →
      new = withBit (s.dev.reg pgHIF (rcfgOff i)) 31 false &&& 0xE01F00FF → bitAt new 31 = false → (e.rcfg i ^^^ new) &&& 0x7FFFFFFF = 0 →
      (e.ringEn i = false ∨ (e.prod i = e.cons i ∧ (e.hif.store.any fun w => decide (w.ring = i)) = false) →
        Runs (.ringDisable a i) s (e.setReg pgHIF (rcfgOff i) new)) ∧
      (e.ringEn i = true → (e.prod i ≠ e.cons i ∨ (e.hif.store.any fun w => decide (w.ring = i)) = true) →
        Runs (.ringDisable a i) s (e.badWrite pgHIF a (rcfgOff i)))) ∧
    (s.dev.arrives a pgHIF (rconsOff i) true = some e →
      ((v - e.cons i).toNat ≤ (e.prod i - e.cons i).toNat → Runs (.ringConsumerWrite a i v) s { e.setReg pgHIF (rconsOff i) v with
        hif := { e.hif with unread := smSet e.hif.unread i ((smGet e.hif.unread i []).drop (v - e.cons i).toNat) [] } }) ∧
      ((e.prod i - e.cons i).toNat < (v - e.cons i).toNat → Runs (.ringConsumerWrite a i v) s (e.badWrite pgHIF a (rconsOff i)))) ∧
    (s.dev.arrives a pgHIF 0x040 true = some e →
      Runs (.hostAsleep a) s { e.setRf pgHIF 0x040 0 1 0 with
        hif := { e.hif with flushing := false, postSync := false, flushPos := 0, flushTo := [] } } ∧
      (e.awakeHost = false → Runs (.hostAwake a) s ((e.setRf pgHIF 0x040 0 1 1).flushStart.linkWake 6)) ∧
      (e.awakeHost = true → Runs (.hostAwake a) s e))

/-- MODERATION_TIME_EXPIRY and MIRROR_BATCH make a ring's batch where R235 calls for one, once its memory is awake: with a domain asleep
the batch is held and wakes it, and where none is called for nothing changes (R235, R236). MIRROR_FLUSH goes on with the next ring that
has records below its target, with the link in L0, and ends the flush after the last (R240, R241). MERR_CLEAR resumes each ring it names
(R237). NEXT_POLL_DECLARE takes a next-poll time, and NEXT_POLL_REACHED lapses it once reached (R243). POLL_PAGE_READ of 4 bytes, or
of 8 or 16 among the first words, answers the words of the poll page from the moment it arrives, unless the hub is fenced (R246, R247). -/
def Obligations.MirrorAndPollCommandsComplete : Prop :=
  ∀ (s : State) (a : Agent) (i : Fin 128) (c : Counts) (e : Dev),
    (∀ (q : Instr) (due : Bool) (ks : List Nat), (q = .moderationTimeExpiry c i ∧ e = s.dev.atCounts c ∧ due = (e.mirrorReady i && e.modTimeDue i)) ∨
        (q = .mirrorBatch i ∧ e = s.dev ∧ due = e.mirrorDue i) → ks = e.mirrorDoms i (e.prod i) →
      (due = true → e.batching i = false → (∀ k ∈ ks, e.gate k ≠ .asleep) → Runs q s (e.mirrorTo i (e.prod i))) ∧
      (due = true → e.batching i = false → (∃ k ∈ ks, e.gate k = .asleep) → ∀ f : Dev, f = ks.foldl (fun d k => (d.knock k).2) e →
        Runs q s { f with held := f.held ++ [.mirror i (e.prod i)] }) ∧
      (due = false ∨ e.batching i = true → Runs q s e)) ∧
    (∀ (j : Fin 4) (bits : Word), s.dev.arrives a pgHIF (0x070 + 4 * j) true = some e → e.unlocked pgHIF a →
      Runs (.merrClear a j bits) s
        ((List.range 32).foldl (fun d b => if bitAt bits b && d.merr (32 * j + b) then d.merrResume (32 * j + b) else d) e)) ∧
    (e = s.dev → e.linkActive 6 = true → e.pmState 6 = 0 → e.hif.flushing = true → e.hostOpen = true →
      (e.flushNext = none → Runs .mirrorFlush s (({ e with hif := { e.hif with
        flushing := false, postSync := true, flushPos := 0, flushTo := [] } }).bump pgHIF 0x064 1 0x06C 0)) ∧
      (∀ (r : Nat) (upTo : Word) (ks : List Nat), e.flushNext = some r → upTo = (smFind e.hif.flushTo r).getD (e.mirrored r) →
        ks = e.mirrorDoms r upTo →
        ((∀ k ∈ ks, e.gate k ≠ .asleep) → Runs .mirrorFlush s (e.mirrorTo r upTo).flushSkip) ∧
        ((∃ k ∈ ks, e.gate k = .asleep) → Runs .mirrorFlush s (ks.foldl (fun d k => (d.knock k).2) e).flushSkip))) ∧
    (∀ hi : Word, s.dev.arrives a pgHIF 0x04C true = some e → e.unlocked pgHIF a →
      Runs (.nextPollDeclare a hi) s { e.setReg pgHIF 0x04C hi with
        hif := { e.hif with nextPoll := cat64 hi ((e.setReg pgHIF 0x04C hi).reg pgHIF 0x048), pollReached := false } }) ∧
    (e = s.dev.atCounts c → e.hif.nextPoll ≠ 0 → reached e.now e.hif.nextPoll = true →
      Runs (.nextPollReached c) s { e with hif := { e.hif with pollReached := true } }) ∧
    (∀ (o : BitVec 16) (n : Fin 33) (f : Dev), e = (s.dev.atCounts c).linkWake 6 →
      (n.val = 4 ∨ ((n.val = 8 ∨ n.val = 16) ∧ o.toNat + n ≤ 0x20)) → o.toNat % n = 0 → e.faults.halted = false →
      e.knockEach [3, 4] = (false, f) →
      (f.fencedOn [3, 4] = true → Runs (.pollPageRead c o n) s (f.answer .abort [])) ∧
      (∀ (bs : List Byte) (g : Dev), f.fencedOn [3, 4] = false → (f.countTlp 1 (agentTag agHost) 2 n).pollRegion (agentTag agHost) o.toNat n = (bs, g) →
        Runs (.pollPageRead c o n) s (g.answer .success bs)))

/-- A write of CH_CFG by MOVER_CHANNEL_ENABLE, MOVER_CHANNEL_DISABLE, MOVER_BRAKE_SET or MOVER_BRAKE_RELEASE is discarded where it changes
K of a channel in use or enables one with a bad ring or one that is not OFF; else EN written 1 resets the channel (R254, R255), EN written 0
turns a channel outside a run off, BRAKE brakes a READY one, and its release lets it rest (R271). MOVER_TAIL_WRITE gives a channel
descriptors, and is discarded with EN 0 or an index of K bits or more (R256).
A mover's run: MOVER_RUN_START starts one on the channel that R261 picks, where the page is enabled and a channel is READY;
MOVER_DESCRIPTOR_FETCH ends the run where R262 has it end, and else reads the descriptor at HEAD: a valid one is taken with what R260
checks (R258), one not valid stalls the channel, a poisoned one has error 8 and one in a fenced unit error 9; MOVER_HALF_NOTICE raises the
half notice once, when it is due (R270); MOVER_DESCRIPTOR_COMPLETE hands back a descriptor that has moved its bytes or failed, after the
read that acknowledges its host window writes (R259, R269). Each changes nothing where the unit is fenced or asleep, or where it has
nothing to do. -/
def Obligations.MoverCommandsComplete : Prop :=
  (∀ (s : State) (a : Agent) (k : Fin 128) (e : Dev) (v : Word) (c : MvChan), c = e.mchan k → e.unlocked (chPage k) a →
    (∀ (q : Instr) (old w : Word) (g : Dev), s.dev.arrives a (chPage k) (mvOff k 0x08) true = some e →
      ((q = .moverChannelEnable a k v ∧ w = withBit v 31 true) ∨ (q = .moverChannelDisable a k ∧ w = withBit (s.dev.mvCfg k) 31 false) ∨
        (q = .moverBrakeSet a k ∧ w = withBit (s.dev.mvCfg k) 30 true) ∨ (q = .moverBrakeRelease a k ∧ w = withBit (s.dev.mvCfg k) 30 false)) →
      old = e.mvCfg k → g = e.setReg (mvPage k) (mvOff k 8) (w &&& 0xC000000F) →
      (fld w 0 4 ≠ fld old 0 4 → (bitAt old 31 = true ∨ c.state ≠ .off) → Runs q s (e.badWrite (chPage k) a (mvOff k 0x08))) ∧
      (bitAt w 31 = true → bitAt old 31 = false → (c.state ≠ .off ∨ e.mvEnOk k w = false) → Runs q s (e.badWrite (chPage k) a (mvOff k 0x08))) ∧
      (bitAt w 31 = true → bitAt old 31 = false → c.state = .off → e.mvEnOk k w = true →
        Runs q s (g.setMchan k { c with head := 0, tail := 0, crc := 0xFFFFFFFF, stalled := false, state := .idle })) ∧
      (fld w 0 4 = fld old 0 4 ∨ (bitAt old 31 = false ∧ c.state = .off) → (bitAt w 31 = true → bitAt old 31 = true) →
        (c.state = .running ∨ c.state = .off → Runs q s g) ∧
        (c.state ≠ .running → c.state ≠ .off →
          (bitAt w 31 = false → Runs q s (g.setMchan k { c with state := .off })) ∧
          (bitAt w 31 = true → bitAt w 30 = true → c.state = .ready → Runs q s (g.setMchan k { c with state := .braked })) ∧
          (bitAt w 31 = true → bitAt w 30 = true → c.state ≠ .ready → Runs q s g) ∧
          (bitAt w 31 = true → bitAt w 30 = false → bitAt old 30 = true → Runs q s (g.setMchan k { c with state := g.mvRest k })) ∧
          (bitAt w 31 = true → bitAt w 30 = false → bitAt old 30 = false → Runs q s g)))) ∧
    (s.dev.arrives a (chPage k) (mvOff k 0x0C) true = some e →
      (e.mvEn k = false ∨ e.mvSize k ≤ v.toNat → Runs (.moverTailWrite a k v) s (e.badWrite (chPage k) a (mvOff k 0x0C))) ∧
      (∀ (b : MvChan) (g : Dev), b = { c with tail := v.toNat, stalled := false } → g = e.setMchan k b →
        e.mvEn k = true → v.toNat < e.mvSize k →
        (c.state = .running → Runs (.moverTailWrite a k v) s g) ∧
        (c.state ≠ .running → Runs (.moverTailWrite a k v) s (g.setMchan k { b with state := g.mvHanded k }))))) ∧
  (∀ (s : State) (m : Fin 16) (v : Mover) (d : Dev), d = s.dev → v = d.mover m →
    (∀ q : Instr, q ∈ [Instr.moverRunStart m, .moverDescriptorFetch m, .moverHalfNotice m, .moverDescriptorComplete m] →
      d.gate (moverDom (m / 2)) ≠ .ok → Runs q s d) ∧
    (d.gate (moverDom (m / 2)) = .ok →
      (v.running = true ∨ d.pageEn (pgWDM + m / 2) = false → Runs (.moverRunStart m) s d) ∧
      (∀ e : Dev, e = d.touch (moverDom (m / 2)) → v.running = false → d.pageEn (pgWDM + m / 2) = true →
        (e.mvNext m = none → Runs (.moverRunStart m) s e) ∧
        (∀ j : Nat, e.mvNext m = some j → Runs (.moverRunStart m) s
          ((e.setMover m { v with running := true, chan := j, fresh := false, last := false, cur := none }).setMchan
            (8 * m + j) { e.mchan (8 * m + j) with state := .running }))) ∧
      (v.running = false ∨ v.cur.isSome = true → Runs (.moverDescriptorFetch m) s d) ∧
      (v.running = true → v.cur = none →
        (∀ st : MvState, d.mvStops m = some st → Runs (.moverDescriptorFetch m) s (d.mvRunEnd m st)) ∧
        (∀ (j ad : Nat) (f : Dev), d.mvStops m = none → j = 8 * m + v.chan → ad = d.mvBase j + 32 * (d.mchan j).head →
          (d.reach (moverDom (m / 2)) ad = (.asleep, f) → Runs (.moverDescriptorFetch m) s f) ∧
          (d.reach (moverDom (m / 2)) ad = (.fenced, f) → Runs (.moverDescriptorFetch m) s
            (f.setMover m { v with cur := some { bytes := List.replicate 32 0, err := 9 } })) ∧
          (∀ (bs : List Byte) (bad : Bool) (g h : Dev), d.reach (moverDom (m / 2)) ad = (.ok, f) → f.memRead ad 32 = (bs, bad, g) →
            h = g.countAccess (agentTag (0x60 + m)) (moverDom (m / 2)) false ad 32 →
            (bad = true → Runs (.moverDescriptorFetch m) s (h.setMover m { v with cur := some { bytes := bs, err := 8 } })) ∧
            (bad = false → bitAt (mdCtrl bs) 31 = false → Runs (.moverDescriptorFetch m) s
              ((h.setMchan j { h.mchan j with stalled := true }).mvRunEnd m (if h.mvBrake j then .braked else .idle))) ∧
            (bad = false → bitAt (mdCtrl bs) 31 = true → ∃ x : MvDesc, Runs (.moverDescriptorFetch m) s (h.setMover m { v with cur := some x }) ∧
              x.bytes = bs ∧ x.err = h.mdErr bs ∧ x.ovlp = mdOverlap bs ∧ x.down = (mdOverlap bs && mdDown bs) ∧ x.rpos = 0 ∧ x.wpos = 0 ∧
              x.crc = (if bitAt (mdCtrl bs) 13 then (h.mchan j).crc else 0xFFFFFFFF) ∧ x.raw = [] ∧ x.out = [] ∧ x.half = false)))) ∧
      (v.cur = none → Runs (.moverHalfNotice m) s d ∧ Runs (.moverDescriptorComplete m) s d) ∧
      (∀ x : MvDesc, v.cur = some x →
        (x.halfDue = false → Runs (.moverHalfNotice m) s d) ∧
        (x.halfDue = true → Runs (.moverHalfNotice m) s
          ((d.setMover m { v with cur := some { x with half := true } }).raiseEvent (384 + 8 * m + v.chan))) ∧
        (x.hostReq.isSome = true ∨ (x.err = 0 ∧ x.wpos < mdCount x.bytes) → Runs (.moverDescriptorComplete m) s d) ∧
        (x.hostReq = none → (x.err ≠ 0 ∨ mdCount x.bytes ≤ x.wpos) →
          (x.needsFlush = true → Runs (.moverDescriptorComplete m) s (d.mvFlush m x (x.hostWrote.getD 0))) ∧
          (x.needsFlush = false → ∀ (j : Nat) (e : Dev), j = 8 * m + v.chan →
            (d.reach (moverDom (m / 2)) (d.mvBase j + 32 * (d.mchan j).head) = (.ok, e) → Runs (.moverDescriptorComplete m) s (e.mvHandBack m x)) ∧
            (d.reach (moverDom (m / 2)) (d.mvBase j + 32 * (d.mchan j).head) = (.asleep, e) → Runs (.moverDescriptorComplete m) s e) ∧
            (d.reach (moverDom (m / 2)) (d.mvBase j + 32 * (d.mchan j).head) = (.fenced, e) →
              Runs (.moverDescriptorComplete m) s (e.mvRunEnd m .error)))))))

/-- The port FIFOs. FIFO_ENABLE empties a disabled FIFO whose SRC and INST are good and free (R280, R281, R291); FIFO_DISABLE closes the
producer's packet of an enabled one as BAD and flushes it (R287, R291); either is discarded with a bad SRC or INST, one that another FIFO
holds, or a change of a field that is fixed while EN is 1 (R281). FIFO_FLUSH and FIFO_DROP wait for a burst that is reserved, and
otherwise take effect at once (R287–R290). FIFO_READ_STAGE takes the head stage for a consumer of CMODE 1 and answers its bytes, and 0
with RD_STAT 0 while there is none; with CMODE 0 it answers 0 and takes none (R284). -/
def Obligations.FifoCommandsComplete : Prop :=
  ∀ (s : State) (a : Agent) (f : Fin 32) (e : Dev) (v : Word),
    (∀ (q : Instr) (old w : Word) (taken : Prop), s.dev.arrives a pgFIF (fifOff f 0x00) true = some e → e.unlocked pgFIF a →
      ((q = .fifoEnable a f v ∧ w = withBit v 31 true) ∨
        (q = .fifoDisable a f ∧ w = withBit (s.dev.reg pgFIF (fifOff f 0x00)) 31 false)) → old = e.fifoCfg f →
      (taken ↔ fld w 24 4 ≠ 0 ∧ ∃ g : Nat, g < 32 ∧ g ≠ f ∧ bitAt (e.fifoCfg g) 31 = true ∧
        fld (e.fifoCfg g) 24 4 = fld w 24 4 ∧ fld (e.fifoCfg g) 16 3 = fld w 16 3) →
      (fifoSrcOk w = false → Runs q s (e.badWrite pgFIF a (fifOff f 0x00))) ∧
      (fifoSrcOk w = true →
        (bitAt old 31 = true → (old ^^^ w) &&& 0x4F070FFF ≠ 0 → Runs q s (e.badWrite pgFIF a (fifOff f 0x00))) ∧
        (bitAt old 31 = true → (old ^^^ w) &&& 0x4F070FFF = 0 → Runs q s (if bitAt w 31 then e else e.fifoDisable f)) ∧
        (bitAt old 31 = false → bitAt w 31 = false → Runs q s (e.plain a pgFIF (fifOff f 0x00) w)) ∧
        (bitAt old 31 = false → bitAt w 31 = true → taken → Runs q s (e.badWrite pgFIF a (fifOff f 0x00))) ∧
        (bitAt old 31 = false → bitAt w 31 = true → ¬taken → Runs q s ((e.plain a pgFIF (fifOff f 0x00) w).fifoEnable f)))) ∧
    (s.dev.arrives a pgFIF (fifOff f 0x08) true = some e → e.unlocked pgFIF a →
      Runs (.fifoFlush a f) s (((if (e.fifo f).reserved ≠ 0 then e.lateWd pgFIF else e).setFifo f
        { e.fifo f with flushPend := true }).fifoDeferred f) ∧
      Runs (.fifoDrop a f) s ((e.setFifo f { e.fifo f with dropReq := (e.fifo f).dropReq || !(e.fifo f).dropPend }).fifoDeferred f)) ∧
    (s.dev.arrives a pgFIF (fifOff f 0x18) false = some e →
      (bitAt (e.fifoCfg f) 30 = false → Answers (.fifoReadStage a f) s e 0) ∧
      (bitAt (e.fifoCfg f) 30 = true → ∀ g : Dev,
        (e.fifoTake f (e.tagOf a) = (none, g) → Answers (.fifoReadStage a f) s (g.setReg pgFIF (0x100 + 0x40 * f + 0x20) 0) 0) ∧
        (∀ x : Stage, e.fifoTake f (e.tagOf a) = (some x, g) →
          Answers (.fifoReadStage a f) s ((g.setReg pgFIF (0x100 + 0x40 * f + 0x1C) (w32 (leNat x.data / 2 ^ 32))).setReg pgFIF
            (0x100 + 0x40 * f + 0x20) (w32 (fput 7 1 (b2n x.bad) + fput 6 1 (b2n x.eop) + x.data.length))) (w32 (leNat x.data)))))

/-- The transform engines. XDT_LOAD and XDT_STORE move a descriptor between the table and its window's words (R319). KSLOT_WRITE takes a
slot's key attributes from an agent that holds the caddy's grant, and discards one from another agent or
one that makes a slot valid for XTS with Key1 equal to Key2 (R313). TRANSFORM_STREAM_ALLOCATE serves the streams that wait: those that fail their checks, then those that can have their
engines, in their order, with domain 151 awake (R297, R318). CADDY_WIPE of the kettle core clears the caddy and its grants and ends each
stream of its engines, of another agent it is discarded, and one in progress goes on (R315, R409); CADDY_WIPE_COMPLETE counts it, and the
grants written meanwhile take effect (R409). -/
def Obligations.TransformCommandsComplete : Prop :=
  ∀ (s : State) (a : Agent) (e : Dev) (i : Nat), i = e.rf pgXCR 0x040 0 10 →
    (s.dev.arrives a pgXCR 0x044 true = some e → e.unlocked pgXCR a →
      Runs (.xdtLoad a) s ((List.range 16).foldl (fun d j => d.setBank pgXCR (0x080 + 4 * j) a (wordOf (e.xdesc i) j)) e) ∧
      Runs (.xdtStore a) s { e with xdt := smSet e.xdt i
                                      ((List.range 16).flatMap fun j => leBytes 4 (e.bank pgXCR (0x080 + 4 * j) a).toNat) (List.replicate 64 0) }) ∧
    (∀ (k : Fin 64) (v : Word) (may same : Prop), s.dev.arrives a pgXAE (0x100 + 4 * k) true = some e → e.unlocked pgXAE a →
      (may ↔ a.val = agKettle ∨ e.caddyGrants a = true) →
      (same ↔ bitAt v 31 = true ∧ bitAt v 30 = true ∧ (e.peek (caddyBase + 64 * k) 64).take 32 = (e.peek (caddyBase + 64 * k) 64).drop 32) →
      (may ∧ ¬same → Runs (.kslotWrite a k v) s (e.plain a pgXAE (0x100 + 4 * k) v)) ∧
      (¬may ∨ same → Runs (.kslotWrite a k v) s (e.badWrite pgXAE a (0x100 + 4 * k)))) ∧
    (∀ (bad : Option StreamWait) (n : Nat), n = s.dev.streamWait.length →
      bad = s.dev.streamWait.find? (fun w => !s.dev.descBusy (fld (s.dev.ctx w.sub).ccw.xdt 0 10) &&
        !s.dev.xdtValid (s.dev.xdesc (fld (s.dev.ctx w.sub).ccw.xdt 0 10)) (s.dev.ctx w.sub).ccw.op (s.dev.scb w.sub).binding (w.sub / 256)
          (s.dev.ctx w.sub).ccw.stored) →
      (s.dev.gate 151 ≠ .ok → Runs .transformStreamAllocate s (s.dev.knock 151).2) ∧
      (s.dev.gate 151 = .ok →
        (∀ w, bad = some w → Runs .transformStreamAllocate s ((s.dev.grantStream w.sub).allocStreams n)) ∧
        (∀ w rest, bad = none → grantable s.dev [] s.dev.streamWait = w :: rest →
          Runs .transformStreamAllocate s ((s.dev.grantStream w.sub).allocStreams n)) ∧
        (bad = none → grantable s.dev [] s.dev.streamWait = [] → Runs .transformStreamAllocate s s.dev))) ∧
    (s.dev.arrives a pgCDY 0x054 true = some e → e.unlocked pgCDY a →
      (a.val ≠ agKettle → Runs (.caddyWipe a) s (e.badWrite pgCDY a 0x054)) ∧
      (a.val = agKettle → e.caddy.wiping = true → Runs (.caddyWipe a) s e) ∧
      (a.val = agKettle → e.caddy.wiping = false → ∃ t : Dev, t.caddy = { wiping := true, held := [] } ∧
        t.mem = memClear e.mem caddyBase 0x100000 ∧ t.scbs = e.scbs ∧ t.streams = e.streams ∧
        Runs (.caddyWipe a) s ((e.streams.filter fun x => x.2.engs.any fun g => g / 16 = 0).foldl
          (fun d x => d.loseStream 8 (x.2.stageOf fun g => g / 16 = 0) x.1) t))) ∧
    (s.dev.caddy.wiping = false → Runs .caddyWipeComplete s s.dev) ∧
    (s.dev.caddy.wiping = true → ∀ f : Dev,
      f = s.dev.caddy.held.foldl (fun d g => d.setReg pgCDY g.1 g.2) (s.dev.bump pgCDY 0x058 1 0x060 0) →
      Runs .caddyWipeComplete s { f with caddy := {} })

/-- The arithmetic and logic instructions of two bytes (R330, R332): the result, kept or for a comparison not, and the flags. The sum or
difference wraps; C is the carry or the borrow, V the overflow of the signed reading; the chained forms take C in, and SUBC, CMPC and
SUBCI keep Z only while it was set; a logic operation leaves C. The PC goes on, by the loops. -/
def Obligations.CoreArithmeticCommandsExecute : Prop :=
  ∀ (s : State) (k : Fin 65) (next : BitVec 16) (e : Dev), (e.core k).smoothAt (s.dev.core k).pc next →
    let c := e.core k
    let at_ := fun i : Instr => ∃ enc, coreWords i = some (k.val, enc) ∧ s.dev.executes k enc = some (next, e)
    let done := fun (c' : Core) (wrote : List Nat) => (e.setCore k c').goesOn k (s.dev.core k).pc next wrote
    let add := fun (a b : Byte) (x : Nat) => c.flagged (decide (256 ≤ a.toNat + b.toNat + x)) (a + b + BitVec.ofNat 8 x == 0)
      (a + b + BitVec.ofNat 8 x).msb (decide (a.toInt + b.toInt + x < -128 ∨ 127 < a.toInt + b.toInt + x))
    let sub := fun (a b : Byte) (x : Nat) (z : Bool) => c.flagged (decide (a.toNat < b.toNat + x)) (z && a - b - BitVec.ofNat 8 x == 0)
      (a - b - BitVec.ofNat 8 x).msb (decide (a.toInt - b.toInt - x < -128 ∨ 127 < a.toInt - b.toInt - x))
    let logic := fun r : Byte => c.flagged c.c (r == 0) r.msb false
    let x := c.c.toNat
    ∀ rd : Fin 32, let a := c.reg rd
      (∀ rs : Fin 32, let b := c.reg rs
        (at_ (.coreAdd k rd rs) → Runs (.coreAdd k rd rs) s (done ((add a b 0).setG rd (a + b)) [rd.val])) ∧
        (at_ (.coreAddc k rd rs) → Runs (.coreAddc k rd rs) s (done ((add a b x).setG rd (a + b + BitVec.ofNat 8 x)) [rd.val])) ∧
        (at_ (.coreSub k rd rs) → Runs (.coreSub k rd rs) s (done ((sub a b 0 true).setG rd (a - b)) [rd.val])) ∧
        (at_ (.coreSubc k rd rs) → Runs (.coreSubc k rd rs) s (done ((sub a b x c.z).setG rd (a - b - BitVec.ofNat 8 x)) [rd.val])) ∧
        (at_ (.coreAnd k rd rs) → Runs (.coreAnd k rd rs) s (done ((logic (a &&& b)).setG rd (a &&& b)) [rd.val])) ∧
        (at_ (.coreOr k rd rs) → Runs (.coreOr k rd rs) s (done ((logic (a ||| b)).setG rd (a ||| b)) [rd.val])) ∧
        (at_ (.coreXor k rd rs) → Runs (.coreXor k rd rs) s (done ((logic (a ^^^ b)).setG rd (a ^^^ b)) [rd.val])) ∧
        (at_ (.coreCmp k rd rs) → Runs (.coreCmp k rd rs) s (done (sub a b 0 true) [])) ∧
        (at_ (.coreCmpc k rd rs) → Runs (.coreCmpc k rd rs) s (done (sub a b x c.z) []))) ∧
      (∀ b : Byte,
        (at_ (.coreAddi k rd b) → Runs (.coreAddi k rd b) s (done ((add a b 0).setG rd (a + b)) [rd.val])) ∧
        (at_ (.coreAddci k rd b) → Runs (.coreAddci k rd b) s (done ((add a b x).setG rd (a + b + BitVec.ofNat 8 x)) [rd.val])) ∧
        (at_ (.coreSubi k rd b) → Runs (.coreSubi k rd b) s (done ((sub a b 0 true).setG rd (a - b)) [rd.val])) ∧
        (at_ (.coreSubci k rd b) → Runs (.coreSubci k rd b) s (done ((sub a b x c.z).setG rd (a - b - BitVec.ofNat 8 x)) [rd.val])) ∧
        (at_ (.coreAndi k rd b) → Runs (.coreAndi k rd b) s (done ((logic (a &&& b)).setG rd (a &&& b)) [rd.val])) ∧
        (at_ (.coreOri k rd b) → Runs (.coreOri k rd b) s (done ((logic (a ||| b)).setG rd (a ||| b)) [rd.val])) ∧
        (at_ (.coreXori k rd b) → Runs (.coreXori k rd b) s (done ((logic (a ^^^ b)).setG rd (a ^^^ b)) [rd.val])) ∧
        (at_ (.coreCmpi k rd b) → Runs (.coreCmpi k rd b) s (done (sub a b 0 true) [])))

/-- Moves, shifts, pairs and the multiply (R330, R332). A move changes no flag. A shift or rotate by 1 to 7 places sets C to the last bit that
left, Z and N by the result, and V to 0; RCL and RCR rotate nine bits, C above bit 7. ADDP adds its signed immediate to a pair; MUL
writes a pair with the product of that pair's low register and rs. -/
def Obligations.CoreMoveAndShiftCommandsExecute : Prop :=
  ∀ (s : State) (k : Fin 65) (next : BitVec 16) (e : Dev), (e.core k).smoothAt (s.dev.core k).pc next →
    let c := e.core k
    let at_ := fun i : Instr => ∃ enc, coreWords i = some (k.val, enc) ∧ s.dev.executes k enc = some (next, e)
    let done := fun (c' : Core) (wrote : List Nat) => (e.setCore k c').goesOn k (s.dev.core k).pc next wrote
    (∀ rd : Fin 32, let a := c.reg rd
      (∀ rs : Fin 32, at_ (.coreMov k rd rs) → Runs (.coreMov k rd rs) s (done (c.setG rd (c.reg rs)) [rd.val])) ∧
      (∀ b : Byte, at_ (.coreMovi k rd b) → Runs (.coreMovi k rd b) s (done (c.setG rd b) [rd.val])) ∧
      ∀ n : Fin 8, n.val ≠ 0 →
        let fin := fun (r : Byte) (cf : Bool) => done ((c.flagged cf (r == 0) r.msb false).setG rd r) [rd.val]
        let nine : BitVec 9 := BitVec.ofBool c.c ++ a
        (at_ (.coreShl k rd n) → Runs (.coreShl k rd n) s (fin (a <<< n.val) (a.getLsbD (8 - n)))) ∧
        (at_ (.coreShr k rd n) → Runs (.coreShr k rd n) s (fin (a >>> n.val) (a.getLsbD (n - 1)))) ∧
        (at_ (.coreAsr k rd n) → Runs (.coreAsr k rd n) s (fin (a.sshiftRight n) (a.getLsbD (n - 1)))) ∧
        (at_ (.coreRol k rd n) → Runs (.coreRol k rd n) s (fin (a <<< n.val ||| a >>> (8 - n.val)) (a.getLsbD (8 - n)))) ∧
        (at_ (.coreRor k rd n) → Runs (.coreRor k rd n) s (fin (a >>> n.val ||| a <<< (8 - n.val)) (a.getLsbD (n - 1)))) ∧
        (at_ (.coreRcl k rd n) → Runs (.coreRcl k rd n) s
          (fin ((nine <<< n.val ||| nine >>> (9 - n.val)).truncate 8) (nine.getLsbD (8 - n)))) ∧
        (at_ (.coreRcr k rd n) → Runs (.coreRcr k rd n) s
          (fin ((nine >>> n.val ||| nine <<< (9 - n.val)).truncate 8) (nine.getLsbD (n - 1))))) ∧
    (∀ p : Fin 16, let a := c.pair p
      (∀ v : BitVec 16, at_ (.coreMovip k p v) → Runs (.coreMovip k p v) s (done (c.setPair p v) [2 * p.val, 2 * p.val + 1])) ∧
      (∀ i : BitVec 7, let r := a + i.signExtend 16
        at_ (.coreAddp k p i) → Runs (.coreAddp k p i) s (done ((c.flagged
          (if 0 ≤ i.toInt then decide (65536 ≤ a.toNat + i.toNat) else decide ((a.toNat : Int) + i.toInt < 0)) (r == 0) r.msb
          (decide (a.toInt + i.toInt < -32768 ∨ 32767 < a.toInt + i.toInt))).setPair p r) [2 * p.val, 2 * p.val + 1])) ∧
      ∀ (rs : Fin 32) (signed : Bool),
        let x : Int := if signed then (c.reg (2 * p.val)).toInt * (c.reg rs).toInt else (c.reg (2 * p.val)).toNat * (c.reg rs).toNat
        let r := BitVec.ofInt 16 x
        at_ (.coreMul k p rs signed) → Runs (.coreMul k p rs signed) s (done ((c.flagged
          (if signed then decide (x < -128 ∨ 127 < x) else decide (255 < x)) (decide (x = 0)) r.msb false).setPair p r)
          [2 * p.val, 2 * p.val + 1]))

/-- Loads and stores (R330, R334, R335, R344). The address of LDB, LDP, STB and STP is one of the pairs 12 to 15 plus the offset. A load that
its target serves, or that waits for a domain or for the host, is issued, to reach its registers once the instruction after it is done; a
store is done at once, posted where its target sleeps, and an error that its target reports is kept until the core takes it (R346). -/
def Obligations.CoreLoadAndStoreCommandsExecute : Prop :=
  ∀ (s : State) (k : Fin 65) (next : BitVec 16) (e : Dev),
    let c := e.core k
    let pc := (s.dev.core k).pc
    let at_ := fun i : Instr => ∃ enc, coreWords i = some (k.val, enc) ∧ s.dev.executes k enc = some (next, e)
    let loads := fun (i : Instr) (a : Nat) (dests : List Nat) => at_ i → ∀ (q : PendLoad) (e' : Dev) (bs : List Byte),
      q = { dests := dests, addr := a, pc := pc, target := if 0xF000 ≤ a then c.pageSel else c.windowAddr a } → a < 0x10000 →
      (e.viewLoad k a dests.length = .ok bs e' → (e'.core k).smooth →
        Runs i s (e'.loads k pc next { q with data := some bs, arrived := decide (a < 0x8000) })) ∧
      (e.viewLoad k a dests.length = .wait e' → c.smooth →
        Runs i s (((e.woken e').setCore k { c with order := c.order + 1 }).loads k pc next { q with order := c.order })) ∧
      (e.viewLoad k a dests.length = .host e' → (e'.core k).smooth → Runs i s (e'.loads k pc next { q with host := true }))
    let stores := fun (i : Instr) (a : Nat) (bs : List Byte) => at_ i → ∀ (e' : Dev) (x : List Byte),
      (e.viewStore k a bs = .ok x e' → (e'.core k).smoothAt pc next → Runs i s (e'.goesOn k pc next [])) ∧
      (∀ err : Nat, e.viewStore k a bs = .error err e' → ((e'.noteStoreErr k err a).core k).smoothAt pc next →
        Runs i s ((e'.noteStoreErr k err a).goesOn k pc next []))
    (∀ (r : Fin 16) (base : Fin 4) (off : Fin 32), let a := (c.pair (12 + base) + BitVec.ofNat 16 off).toNat
      loads (.coreLdb k r base off) a [r.val] ∧ loads (.coreLdp k r base off) a [2 * r.val, 2 * r.val + 1] ∧
      stores (.coreStb k r base off) a [c.reg r] ∧ stores (.coreStp k r base off) a [c.reg (2 * r), c.reg (2 * r + 1)]) ∧
    ∀ (r : Fin 32) (a : BitVec 16),
      loads (.coreLda k r false a) a.toNat [r.val] ∧ loads (.coreLda k r true a) a.toNat [r.val, r.val + 1] ∧
      stores (.coreSta k r false a) a.toNat [c.reg r] ∧ stores (.coreSta k r true a) a.toNat [c.reg r, c.reg (r + 1)]

/-- Transfers of control and loops (R331, R333, R337–R339, R351). Bcc jumps where its condition holds; JMP and CALL go to the address, or to
a pair; CALL lowers p15 by 2 and stores the return address there; RET and RETI take the PC from the stack, and RETI the flags, unless an
interrupt is due at once; LOOP sets its level's CSRs and activates it, or with a count of 0 skips the body; LPOP makes the
highest active level inactive. -/
def Obligations.CoreControlCommandsExecute : Prop :=
  ∀ (s : State) (k : Fin 65) (next : BitVec 16) (e : Dev), (e.core k).smooth →
    let c := e.core k
    let pc := (s.dev.core k).pc
    let at_ := fun i : Instr => ∃ enc, coreWords i = some (k.val, enc) ∧ s.dev.executes k enc = some (next, e)
    (∀ (cond : Fin 16) (off : BitVec 8), at_ (.coreBcc k cond off) →
      let holds := [c.z, !c.z, c.c, !c.c, c.n, !c.n, c.v, !c.v, !c.c && !c.z, c.c || c.z, c.n == c.v, c.n != c.v,
        !c.z && c.n == c.v, c.z || c.n != c.v, true].getD cond true
      let target := next + 2 * off.signExtend 16
      (holds = true → Runs (.coreBcc k cond off) s ((e.bccResolve k pc next target true).goesTo k target [])) ∧
      (holds = false → c.smoothAt pc next →
        Runs (.coreBcc k cond off) s ((e.bccResolve k pc next target false).goesOn k pc next []))) ∧
    (∀ t : CoreTarget, let target := match t with | .direct a => a | .pair p => c.pair p
      target.toNat % 2 = 0 →
      (at_ (.coreJmp k t) → Runs (.coreJmp k t) s (e.goesTo k target [])) ∧
      (at_ (.coreCall k t) → ∀ (e' : Dev) (x : List Byte),
        e.viewStore k (c.pair 15 - 2).toNat [next.truncate 8, (next >>> 8).truncate 8] = .ok x e' → (e'.core k).smooth →
        Runs (.coreCall k t) s ((e'.setCore k ((e'.core k).setPair 15 (c.pair 15 - 2))).goesTo k target [30, 31]))) ∧
    (∀ (lo hi : Byte) (e' : Dev), (∀ q ∈ c.pend, q.ofReturn = false) → e.viewLoad k (c.pair 15).toNat 2 = .ok [lo, hi] e' →
      (e'.core k).smooth →
      (at_ (.coreRet k) → lo.toNat % 2 = 0 →
        Runs (.coreRet k) s ((e'.setCore k ((e'.core k).setPair 15 ((e'.core k).pair 15 + 2))).goesTo k (hi ++ lo) [30, 31])) ∧
      (at_ (.coreReti k) → ∀ (plo phi : Byte) (g : Dev), e'.viewLoad k (c.pair 15 + 2).toNat 2 = .ok [plo, phi] g →
        (g.core k).smooth →
        (bitAt lo 4 = true → g.line k = true →
          Runs (.coreReti k) s ((g.setCore k { g.core k with i := false }).goesTo k 8 [])) ∧
        (∀ f : Core, f = { g.core k with c := bitAt lo 0, z := bitAt lo 1, n := bitAt lo 2, v := bitAt lo 3, i := bitAt lo 4 } →
          (bitAt lo 4 && g.line k) = false → plo.toNat % 2 = 0 →
          Runs (.coreReti k) s ((g.setCore k (f.setPair 15 ((g.core k).pair 15 + 4))).goesTo k (phi ++ plo) [30, 31])))) ∧
    (∀ (l : Fin 3) (count : LoopCount) (lend : BitVec 16),
      let n := match count with | .imm n => n.val | .pair p => (c.pair p).toNat
      at_ (.coreLoop k l.castSucc count lend) →
      let b := ((c.setCsrPair (0x10 + 8 * l) next.toNat).setCsrPair (0x12 + 8 * l) lend.toNat).setCsrPair (0x14 + 8 * l) n
      (∀ j : Fin 3, l ≤ j → c.loopOn j = false) → lend.toNat % 2 = 0 → next.toNat ≤ lend.toNat → lend.toNat ≤ 0x7FFE →
      (n ≠ 0 → (b.setLoop l true).smoothAt pc next →
        Runs (.coreLoop k l.castSucc count lend) s ((e.setCore k (b.setLoop l true)).goesOn k pc next [])) ∧
      (n = 0 → ∀ (w : BitVec 16) (e' : Dev), e.fetchWord k lend = .word (some w) e' →
        (b.smoothAt pc (lend + BitVec.ofNat 16 (lengthOf w))) →
        Runs (.coreLoop k l.castSucc count lend) s ((e'.setCore k b).goesOn k pc (lend + BitVec.ofNat 16 (lengthOf w)) []))) ∧
    (at_ (.coreLpop k) →
      let b := match [2, 1, 0].find? fun l => c.loopOn l with | some l => c.setLoop l false | none => c
      b.smoothAt pc next → Runs (.coreLpop k) s ((e.setCore k b).goesOn k pc next []))

/-- The instructions for interrupts, traps and CSRs (R320–R324, R345, R347–R352). EI and DI set and clear I; WAIT goes on where the request line is
asserted, and otherwise the core waits, until CORE_WAIT_WAKE; TRAP, and BREAK where the debug port does not halt the core, enter the trap
handler with the address after them; a BREAK that halts the core has it go on after the BREAK; SYNC is done once loads have
returned and stores are acknowledged; CSRR and
CSRW move a byte; CORE_PACER_ARM arms the eight bytes of PCMP, and CORE_PACER_CANCEL takes the core's entry off the wake list. -/
def Obligations.CoreSystemCommandsExecute : Prop :=
  ∀ (s : State) (k : Fin 65) (next : BitVec 16) (e : Dev),
    let c := e.core k
    let pc := (s.dev.core k).pc
    let at_ := fun i : Instr => ∃ enc, coreWords i = some (k.val, enc) ∧ s.dev.executes k enc = some (next, e)
    let trap := fun (cause : Nat) (code : Option Nat) =>
      ((e.setCore k { c.landAll c.pend with pend := [] }).countInstr k).trapEntry k cause code none pc next
    (c.smoothAt pc next →
      (at_ (.coreEi k) → Runs (.coreEi k) s ((e.setCore k { c with i := true }).goesOn k pc next [])) ∧
      (at_ (.coreDi k) → Runs (.coreDi k) s ((e.setCore k { c with i := false }).goesOn k pc next [])) ∧
      (at_ (.coreWait k) → e.line k = true → Runs (.coreWait k) s (e.goesOn k pc next [])) ∧
      (at_ (.coreWait k) → e.line k = false →
        Runs (.coreWait k) s (e.setCore k { c with state := .waiting, pc := next, skipBp := false })) ∧
      (at_ (.coreSync k) → (∀ q ∈ c.pend, q.arrived = true) → e.posting k = false → c.storeErrs = [] →
        Runs (.coreSync k) s (e.goesOn k pc next [])) ∧
      (at_ (.coreBreak k) → e.haltOnBreak k = true → ∀ f : Dev, f = e.goesOn k pc next [] → (f.core k).state = .running →
        Runs (.coreBreak k) s (f.setCore k { f.core k with state := .debugHalt, haltedIn := .running, stepping := false })) ∧
      (∀ (rd : Fin 32) (n : Fin 64) (v : Byte), at_ (.coreCsrr k rd n) → e.csrRead k n = some v →
        Runs (.coreCsrr k rd n) s ((e.setCore k (c.setG rd v)).goesOn k pc next [rd.val]))) ∧
    (∀ (rs : Fin 32) (n : Fin 64) (f : Dev), at_ (.coreCsrw k rs n) → e.csrWrite k n (c.reg rs) = some f →
      (f.core k).smoothAt pc next → Runs (.coreCsrw k rs n) s (f.goesOn k pc next [])) ∧
    (∀ (rs : Fin 32) (b f : Dev), at_ (.coreCsrw k rs 0x37) →
      b = e.setCore k { c.setCsr 0x37 (c.reg rs) with pcmp := BitVec.ofNat 64 (leNat
        ((List.range 8).map fun i => (c.setCsr 0x37 (c.reg rs)).csrByte (0x30 + i))) } →
      f = b.coreArm k → (f.core k).smoothAt pc next → Runs (.corePacerArm k rs) s (f.goesOn k pc next [])) ∧
    (∀ (rs : Fin 32) (b f : Dev), at_ (.coreCsrw k rs 0x38) → bitAt (c.reg rs) 7 = true → c.reg rs &&& 0x78 = 0 →
      b = (e.setCore k { c with refused := c.refused && !bitAt (c.reg rs) 2, fired := c.fired && !bitAt (c.reg rs) 1 }).wlRemove
        (((e.setCore k { c with refused := c.refused && !bitAt (c.reg rs) 2, fired := c.fired && !bitAt (c.reg rs) 1 })).coreTag k)
        .core k →
      f = b.setCore k { b.core k with armed := false } → (f.core k).smoothAt pc next →
      Runs (.corePacerCancel k rs) s (f.goesOn k pc next [])) ∧
    ((∀ q ∈ c.pend, q.arrived = true ∧ q.fail = none) → ∀ g : Dev,
      (at_ (.coreBreak k) → e.haltOnBreak k = false → trap 4 none = some g → Runs (.coreBreak k) s (g.stepDone k)) ∧
      (∀ code : Byte, at_ (.coreTrap k code) → trap 5 (some code.toNat) = some g → Runs (.coreTrap k code) s (g.stepDone k))) ∧
    (∀ w : Core, w = s.dev.core k → w.state = .waiting → s.dev.gate (coreDomain k) = .ok → s.dev.line k = true →
      ({ w with state := .running } : Core).smoothAt (w.pc - 2) w.pc →
      Runs (.coreWaitWake k) s ((s.dev.setCore k { w with state := .running }).goesOn k (w.pc - 2) w.pc []))

/-- What comes to a core from outside its program (R335, R346, R348, R349, R354, R355, R517). An interrupt is entered at vector 8 between
instructions; the oldest load on its way gets its data, from the host or from its target; an error that a target reports for a posted store
raises BUSERR; CORE_CTRL.RESET holds the core, its locks broken, and its release resets it and begins the boot copy; the end of the copy
starts the core, or leaves it in BOOT_ERR; BTB_OFF empties the branch target buffer. -/
def Obligations.CoreOutsideCommandsComplete : Prop :=
  (∀ (s : State) (k : Fin 65), s.dev.gate (coreDomain k) = .ok → ∀ c : Core, c = s.dev.core k →
    (c.state = .running → c.pend = [] → c.i = true → c.noInt = false → s.dev.line k = true → ∀ g : Dev,
      s.dev.entry k c.pc 8 = some g → Runs (.interruptEntry k) s g) ∧
    (∀ (q : PendLoad), c.pend.find? (fun q => !q.arrived) = some q →
      (∀ bs : List Byte, q.host = true → bs.length = q.dests.length →
        Runs (.coreLoadDataReturn k (some { status := .ok, data := bs })) s
          (((s.dev.quiesceDone (4200 + k)).setPend k { q with data := some bs, arrived := true }).atBoundary k)) ∧
      (q.host = false → (q.data.isSome ∨ q.fail.isSome) →
        Runs (.coreLoadDataReturn k none) s ((s.dev.setPend k { q with arrived := true }).atBoundary k))) ∧
    (∀ (err a : Nat) (rest : List (Nat × Nat)) (g : Dev), c.storeErrs = (err, a) :: rest → c.state = .running →
      (∀ q ∈ c.pend, q.arrived = true ∧ q.fail = none) →
      (s.dev.setCore k { c.landAll c.pend with storeErrs := rest, pend := [] }).trapEntry k 2 (some (0x80 + err)) (some a) c.pc c.pc
        = some g → Runs (.postedStoreError k) s g)) ∧
  ∀ (s : State) (k : Fin 64),
    (∀ (a : Agent) (e g : Dev) (v : Word), s.dev.arrives a (corPage k) (corOff k 0) true = some e → e.unlocked (corPage k) a →
      g = (if bitAt v 30 then
        (e.plain a (corPage k) (corOff k 0) v).setCore k { (e.plain a (corPage k) (corOff k 0) v).core k with btb := [] }
        else e.plain a (corPage k) (corOff k 0) v) →
      (v = withBit (s.dev.reg (corPage k) (corOff k 0)) 31 true → bitAt v 31 = true → e.rb (corPage k) (corOff k 0) 31 = false →
        Runs (.coreResetHold a k) s ((g.setCore k { g.core k with state := .reset, pend := [], storeErrs := [], stepping := false }).breakLocks
          fun i => i = coreAgent k)) ∧
      (v = withBit (s.dev.reg (corPage k) (corOff k 0)) 31 false → bitAt v 31 = false → e.rb (corPage k) (corOff k 0) 31 = true →
        ∀ f : Dev, f = (g.coreReset k).setCore k { (g.coreReset k).core k with
          state := if (g.coreReset k).bootLen k = 0 then .running else .booting } →
        ((g.dom (coreDomain k)).state = .off → Runs (.coreResetRelease a k) s (g.startExit (coreDomain k) false none)) ∧
        ((g.dom (coreDomain k)).state ≠ .off → (g.dom (coreDomain k)).asleep = true →
          Runs (.coreResetRelease a k) s (f.startExit (coreDomain k) false none)) ∧
        ((g.dom (coreDomain k)).state ≠ .off → (g.dom (coreDomain k)).asleep = false → Runs (.coreResetRelease a k) s f)) ∧
      (v = withBit (s.dev.reg (corPage k) (corOff k 0)) 30 true → bitAt v 30 = true → bitAt v 31 = e.rb (corPage k) (corOff k 0) 31 →
        Runs (.coreBtbDisable a k) s g)) ∧
    ((s.dev.core k).state = .booting → s.dev.gate (coreDomain k) = .ok → ∀ g : Dev,
      (s.dev.bootCopy k = .ok g → Runs (.coreBootCopyComplete k) s
        ((g.setCore k { g.core k with state := .running }).bump (corPage k) (corOff k 0x1C) 1 0x040 (16 + k % 8))) ∧
      (s.dev.bootCopy k = .err g → Runs (.coreBootCopyComplete k) s
        ((g.setCore k { g.core k with state := .bootErr }).pageEvt (corPage k) 0x10000)))

/-- The interrupt controllers (R361, R363–R368, R370, R372). EVENT_ARRIVAL is an occurrence at every enabled route, and then at each
channel engine. WICU_CLAIM of a running core answers the source of highest PRIO above THRESH and the running priority, lowest number
first, makes it ACTIVE, and pushes it, or answers 0 and changes nothing; WICU_COMPLETE takes the handled count off an edge source and
removes the stack entry, and is counted as bad where the source is not the core's; behind earlier accesses, or with the wheel's common
unit asleep, either waits, and of a core that does not run it changes nothing. PEND_SET adds an arrival to an edge source and sets a level
source's latch, PEND_CLR clears them, and MASK_SET and MASK_CLR follow their bits, the mask of a private word with a bit 0 too.
SRC_CFG_WRITE is taken unless SENSE is reserved or an ACTIVE source would change its TARGET or SENSE, and is else discarded. -/
def Obligations.InterruptCommandsComplete : Prop :=
  ∀ s : State,
    (∀ n : Fin 1024, Runs (.eventArrival n) s
      (((List.range 16).foldl (fun d g => d.engineEvent n g) (s.dev.routeEvent n)).traceEvent n)) ∧
    (∀ (k : Fin 65) (d : Dev), d = s.dev →
      ((d.core k).state ≠ .running ∨ d.gate (coreDomain k) ≠ .ok →
        Runs (.wicuClaim k) s d ∧ ∀ src n : Byte, Runs (.wicuComplete k src n) s d) ∧
      ((d.core k).state = .running → d.gate (coreDomain k) = .ok →
        (d.queues k = true → Runs (.wicuClaim k) s { d with held := d.held ++ [.claim k] } ∧
          ∀ src n : Byte, Runs (.wicuComplete k src n) s (d.postHeld k 0xC102 (.io 0xC102 [src, n]))) ∧
        (d.queues k = false → ∀ e : Dev,
          (d.ioGate k 0xC100 = (.asleep, e) → Runs (.wicuClaim k) s (d.holds e (.claim k))) ∧
          (d.ioGate k 0xC100 = (.fenced, e) → Runs (.wicuClaim k) s e) ∧
          (d.ioGate k 0xC100 = (.ok, e) →
            (∀ p src : Nat, e.claimPick k = some (p, src) → src < 256 → ∀ f : Dev,
              f = e.setSrc (coreSrcKey k src) { e.src (coreSrcKey k src) with active := some k.val, latch := false } →
              Runs (.wicuClaim k) s { f.setStack k ((p, src) :: f.stack k) with resp := [w32 src] }) ∧
            (e.claimPick k = none → Runs (.wicuClaim k) s { e with resp := [0] })) ∧
          ∀ src n : Byte,
            (d.ioGate k 0xC102 = (.asleep, e) →
              Runs (.wicuComplete k src n) s ((d.woken e).postHeld k 0xC102 (.io 0xC102 [src, n]))) ∧
            (d.ioGate k 0xC102 = (.fenced, e) → Runs (.wicuComplete k src n) s e) ∧
            (∀ (g : Dev) (v : Src), d.ioGate k 0xC102 = (.ok, e) → g = e.setCore k { e.core k with completeCnt := n } →
              v = e.src (coreSrcKey k src.toNat) →
              (src ≠ 0 → v.active = some k.val →
                ∀ f : Dev, f = g.setSrc (coreSrcKey k src.toNat) { v with
                  count := if 2 ≤ v.sense then BitVec.ofNat 8 (v.count.toNat - n.toNat) else v.count, active := none } →
                Runs (.wicuComplete k src n) s (f.setStack k (dropSrc src.toNat (f.stack k)))) ∧
              (src = 0 ∨ v.active ≠ some k.val →
                (k.val < 64 → Runs (.wicuComplete k src n) s ((g.bump (pgWICU + k / 8) 0x040 1 0x044 0).pageEvt (pgWICU + k / 8) 0x10000)) ∧
                (k.val = 64 → Runs (.wicuComplete k src n) s g)))))) ∧
    (∀ (a : Agent) (w : Fin 8) (b : SrcBank) (bits : Word) (e f : Dev), f = e.countWheelOp w (e.tagOf a) →
      let each := fun (least : Nat) (op : Src → Src) => (List.range 32).foldl (fun d i =>
        let key := match b with | .priv c => w * 512 + 256 + c * 32 + i | .shared j => w * 512 + 32 * j + i
        let exists_ := match b with | .priv _ => decide (least ≤ i) | .shared j => decide (j.val ≠ 0)
        if bitAt bits i && exists_ then d.setSrc key (op (d.src key)) else d) f
      let arrives := fun j => s.dev.arrives a (pgWICU + w) (bankOff j b) true = some e ∧ e.unlocked (pgWICU + w) a
      (arrives 0 → Runs (.pendSet a w b bits) s (each 1 fun x => if 2 ≤ x.sense then
        (if x.count = 255 then { x with ovf := true } else { x with count := x.count + 1 }) else { x with latch := true })) ∧
      (arrives 1 → Runs (.pendClr a w b bits) s (each 1 fun x =>
        if 2 ≤ x.sense then { x with count := 0 } else { x with latch := false })) ∧
      (arrives 2 → Runs (.maskSet a w b bits) s (each 0 fun x => { x with mask := true })) ∧
      (arrives 3 → Runs (.maskClr a w b bits) s (each 0 fun x => { x with mask := false }))) ∧
    (∀ (a : Agent) (w : Fin 8) (n : SrcName) (v : Word) (e f : Dev), s.dev.arrives a (pgWICU + w) (srcOff n) true = some e →
      e.unlocked (pgWICU + w) a → f = e.countWheelOp w (e.tagOf a) →
      let key := match n with | .priv c i => w * 512 + 256 + c * 32 + i | .shared i => w * 512 + i
      (match n with | .priv _ i => 1 ≤ i.val | .shared i => 32 ≤ i.val) →
      ∀ x : Src, x = f.src key →
      let target := match n with | .priv _ _ => x.target | .shared _ => fld v 8 3
      let fixed := x.active.isSome = true ∧ (target ≠ x.target ∨ fld v 4 3 ≠ x.sense)
      (4 < fld v 4 3 ∨ fixed → Runs (.srcCfgWrite a w n v) s (e.badWrite (pgWICU + w) a (srcOff n))) ∧
      (fld v 4 3 ≤ 4 → ¬fixed → ∀ y : Src, y = (if fld v 4 3 = x.sense then x
          else { x with count := 0, latch := false, sense := fld v 4 3, level := f.srcLevel key }) →
        Runs (.srcCfgWrite a w n v) s (f.setSrc key { y with target := target, prio := fld v 0 4, ovf := x.ovf && !bitAt v 31 })))

/-- Mailboxes and locks (R376, R378–R380, R382, R383). MAILBOX_POST that is accepted fills its mailbox and rings the doorbell of its
target core; one that finds it FULL, or its unit fenced, is refused, and counted. RELEASE frees a mailbox, and REPLY hands its word to the
engine that called; either changes nothing of one that is not FULL. LOCK_ACQUIRE_READ of a free lock makes the reader its owner, and of an
owned one answers the owner; LOCK_RELEASE by the owner frees it, another's is counted as misuse, with an occurrence at a spoke core that
wrote it, and a value other than 0 is discarded. -/
def Obligations.MailboxAndLockCommandsComplete : Prop :=
  ∀ (s : State) (a : Agent) (e : Dev),
    (∀ (w : Fin 8) (m : Fin 16) (c : Fin 8), s.dev.arrives a (pgWMBX + w) 0x040 true = some e → e.unlocked (pgWMBX + w) a →
      (e.isFenced (commonDom w) = true → Runs (.mailboxPost a w m c) s
        ((e.bump (pgWMBX + w) 0x04C 1 0x058 1).setBank (pgWMBX + w) 0x044 a (w32 (16 * m + 3)))) ∧
      (e.isFenced (commonDom w) = false → ∀ f : Dev, f = (e.countWheelOp w (e.tagOf a)).touch (commonDom w) →
        ((f.mbox (16 * w + m)).full = false → ∀ g : Dev, g = f.bump (pgWMBX + w) 0x048 1 0x058 0 →
          Runs (.mailboxPost a w m c) s ((((g.sample (e.tagOf a)).2.setMbox (16 * w + m) { f.mbox (16 * w + m) with
            full := true, call := false, target := c, sender := a, postTime := toDs32 (g.sample (e.tagOf a)).1,
            msg := (List.range 4).flatMap fun j => leBytes 4 (e.bank (pgWMBX + w) (0x060 + 4 * j) a).toNat }).doorbell
            (16 * w + m)).setBank (pgWMBX + w) 0x044 a (w32 (16 * m + 1)))) ∧
        ((f.mbox (16 * w + m)).full = true →
          Runs (.mailboxPost a w m c) s ((f.bump (pgWMBX + w) 0x04C 1 0x058 1).setBank (pgWMBX + w) 0x044 a (w32 (16 * m + 2)))))) ∧
    (∀ (w : Fin 8) (m : Fin 16) (f : Dev) (x : Mbox), s.dev.arrives a (pgWMBX + w) (0x10C + 32 * m) true = some e →
      e.unlocked (pgWMBX + w) a → f = e.countWheelOp w (e.tagOf a) → x = f.mbox (16 * w + m) →
      (x.full = false → Runs (.release a w m) s f ∧ Runs (.reply a w m) s f) ∧
      (x.full = true → ∀ g : Dev, g = (f.setMbox (16 * w + m) { x with full := false, call := false }).srcFalls →
        (x.call = false → Runs (.release a w m) s g ∧ Runs (.reply a w m) s g) ∧
        (x.call = true →
          let reply := fun word => g.spokeReply (16 * w + m) x.sender (leNat ((x.msg.drop 12).take 2)) word
          Runs (.release a w m) s (reply 0xFFFFFFFF) ∧ Runs (.reply a w m) s (reply x.reply)))) ∧
    (∀ (l : LockName) (p : Nat × Nat) (i : Nat),
      (p, i) = (match l with
        | .wheel w k => ((pgWMBX + w.val, 0x300 + 4 * k.val), 16 * w.val + k.val)
        | .global k => ((pgKTL, 0x300 + 4 * k.val), 128 + k.val)) →
      ∀ f : Dev, f = (match l with | .wheel w _ => e.countWheelOp w (e.tagOf a) | .global _ => e) →
      (s.dev.arrives a p.1 p.2 false = some e →
        ((f.lock i).owner = none → Answers (.lockAcquireRead a l) s
          ((f.sample (e.tagOf a)).2.setLock i { f.lock i with owner := some a.val, time := toDs32 (f.sample (e.tagOf a)).1 })
          (w32 (256 * (f.lock i).broken.toNat))) ∧
        (∀ o, (f.lock i).owner = some o → Answers (.lockAcquireRead a l) s f (w32 o))) ∧
      (s.dev.arrives a p.1 p.2 true = some e → e.unlocked p.1 a →
        (∀ v : Word, v ≠ 0 → Runs (.lockRelease a l v) s (e.badWrite p.1 a p.2)) ∧
        ((f.lock i).owner = some a.val →
          Runs (.lockRelease a l 0) s ((f.setLock i { f.lock i with owner := none, broken := false, lastOwner := a }).lockFreed i)) ∧
        ((f.lock i).owner ≠ some a.val → ∀ g : Dev,
          g = (match l with
            | .wheel w _ => (f.bump (pgWMBX + w) 0x050 1 0x058 2).pageEvt (pgWMBX + w) 0x10000
            | .global _ => f.bump pgKTL 0x3C0 1 0x3C4 0) →
          Runs (.lockRelease a l 0) s
            (if 1 ≤ a.val ∧ a.val ≤ 64 then g.srcOccur (privSrc ((a.val - 1) / 8) ((a.val - 1) % 8) 18) else g))))

/-- Memory requests from outside (R391, R392, R411, R473, R519–R521). HOST_MEMORY_READ of BAR4 answers the bytes of its blocks, marked
poisoned where one is, or is refused by the first block that is not served; HOST_MEMORY_WRITE lands block by block; HWT_ENTRY_WRITE
follows the table's own rule, through BAR4 or by the kettle core, and changes nothing of another agent. Each waits for the domains on
its way, is aborted or lost at a fence, and in DEVICE_HALT; before HOST_PATH a write lands in the staging area alone. DOWNSTREAM_MEMORY_READ
and DOWNSTREAM_MEMORY_WRITE reach BAR4 where PEER_CTRL lets their port and its ACS controls pass them; under Translation Blocking a
translated request is refused, under Source Validation one from a bus not below the port is, and PEER_CTRL's refusal is counted.
DOWNSTREAM_MESSAGE passes upstream. -/
def Obligations.MemoryRequestsComplete : Prop :=
  ∀ (s : State) (e : Dev),
    (∀ (o : BitVec 26) (n : Nat) (halt : Bool), n ≤ 4096 → e = s.dev.linkWake 6 → halt = e.faults.halted →
      (halt = true → Runs (.hostMemoryRead o n) s { e with cpl := .abort, resp := [] }) ∧
      (halt = false → ∀ g : Dev,
        (e.knockEach (bar4Doms o.toNat n) = (true, g) → Runs (.hostMemoryRead o n) s (e.holds g (.host o.toNat (.read n)))) ∧
        (e.knockEach (bar4Doms o.toNat n) = (false, g) →
          (g.fencedOn [3, 4] = true → Runs (.hostMemoryRead o n) s { g with cpl := .abort, resp := [] }) ∧
          (g.fencedOn [3, 4] = false → ∀ (f h : Dev), f = (g.count 1 2 (agentTag agHost) 2).count 1 3 (agentTag agHost) ((n + 31) / 32) →
            (∀ bs p, f.blockReads .host 4 (blocksOf o.toNat n) = .ok bs p h → Runs (.hostMemoryRead o n) s
              { h with cpl := if p then .poisoned else .success, resp := bytesWords bs bs.length }) ∧
            (f.blockReads .host 4 (blocksOf o.toNat n) = .wait h → Runs (.hostMemoryRead o n) s (e.holds h (.host o.toNat (.read n)))) ∧
            (∀ c, f.blockReads .host 4 (blocksOf o.toNat n) = .refuse c h →
              Runs (.hostMemoryRead o n) s { h with cpl := c, resp := [] }))))) ∧
    (∀ (q : Instr) (o : Nat) (bs : List Byte) (ep lost : Bool), e = s.dev.linkWake 6 →
      ((∃ off : BitVec 26, q = .hostMemoryWrite off bs ep ∧ o = off.toNat) ∨
        (∃ off : BitVec 19, q = .hwtEntryWrite 0x7E off bs ∧ o = hwtBase + off.toNat ∧ ep = false)) →
      lost = (e.faults.halted || (e.boot.hostPath && !decide (stagingBase ≤ o ∧ o + bs.length ≤ stagingBase + stagingSize))) →
      (lost = true → Runs q s { e with cpl := .success, resp := [] }) ∧
      (lost = false → ∀ (b : Bool) (g : Dev), e.knockEach (bar4Doms o bs.length) = (b, g) →
        (b = true ∨ (e.caddy.wiping = true ∧ plainRange o = .caddy) → Runs q s (e.holds g (.host o (.write bs ep)))) ∧
        (b = false → (e.caddy.wiping = true → plainRange o ≠ .caddy) →
          (g.fencedOn [3, 4] = true → Runs q s { g with cpl := .success, resp := [] }) ∧
          (g.fencedOn [3, 4] = false → ∀ f : Dev, f = (g.count 1 2 (agentTag agHost) 1).count 1 3 (agentTag agHost) ((bs.length + 31) / 32) →
            (plainRange o = .hwt → ep = true → Runs q s { f with cpl := .success, resp := [] }) ∧
            (plainRange o = .hwt → ep = false → Runs q s { f.hwtWrite agHost (o - hwtBase) bs with cpl := .success, resp := [] }) ∧
            (plainRange o ≠ .hwt → Runs q s
              { (f.blockWrites .host 4 ep (beatParts o bs (bs.length / 32 + 2))).2 with cpl := .success, resp := [] }))))) ∧
    (∀ (o : BitVec 19) (bs : List Byte),
      (s.dev.knock 3 = (.ok, e) → Runs (.hwtEntryWrite 0x41 o bs) s (e.hwtWrite agKettle o.toNat bs)) ∧
      (s.dev.knock 3 = (.asleep, e) → Runs (.hwtEntryWrite 0x41 o bs) s (s.dev.holds e (.table 0x41 o.toNat bs))) ∧
      (s.dev.knock 3 = (.fenced, e) → Runs (.hwtEntryWrite 0x41 o bs) s s.dev) ∧
      (∀ a : Agent, a ≠ 0x7E → a ≠ 0x41 → Runs (.hwtEntryWrite a o bs) s s.dev)) ∧
    (∀ (q : Instr) (p : Fin 6) (id : PeerId) (addr : BitVec 64) (r : MemReq) (lost : Cpl),
      ((∃ n, n ≤ 4096 ∧ q = .downstreamMemoryRead p id addr n ∧ r = .read n ∧ lost = .abort) ∨
        (∃ bs ep, q = .downstreamMemoryWrite p id addr bs ep ∧ r = .write bs ep ∧ bs ≠ [] ∧ lost = .success)) →
      (s.dev.linkActive p = false → Runs q s s.dev) ∧
      (s.dev.linkActive p = true → e = s.dev.linkWake p →
        (e.faults.halted = true → Runs q s { e with cpl := lost, resp := [] }) ∧
        (e.faults.halted = false → e.acs p 1 = true → id.addrType ≠ 0 → Runs q s { e with cpl := .unsupported, resp := [] }) ∧
        (e.faults.halted = false → (e.acs p 1 = true → id.addrType = 0) → e.acs p 0 = true → e.busBelow p id.bus = false →
          Runs q s { e with cpl := lost, resp := [] }) ∧
        (e.faults.halted = false → (e.acs p 1 = true → id.addrType = 0) → (e.acs p 0 = true → e.busBelow p id.bus = true) →
          ∀ o : Nat, e.busRoute addr.toNat = .bar4 o →
          (e.rb pgPSW 0x040 p = false → Runs q s { e.bump pgPSW 0x044 1 0x048 0 with cpl := .unsupported, resp := [] }) ∧
          (e.rb pgPSW 0x040 p = true → Runs q s (e.peerAccess p 4 o r))))) ∧
    (∀ (p : Fin 6) (o : Nat) (g : Dev),
      (∀ (n : Nat) (f : Dev),
        e.knockEach ([8 + p.val, 3, 4] ++ (blocksOf o n).flatMap fun x => pathTo 4 x.1) = (false, g) → g.fencedOn [8 + p, 3, 4] = false →
        f = (g.count 2 2 tagOwn 1).count 2 3 tagOwn 0 →
        ∀ bs po h, f.blockReads .peer 4 (blocksOf o n) = .ok bs po h → e.peerAccess p 4 o (.read n) =
          { (h.count 2 2 tagOwn 1).count 2 3 tagOwn ((n + 31) / 32) with
            cpl := if po then .poisoned else .success, resp := bytesWords bs bs.length }) ∧
      (∀ (bs : List Byte) (ep : Bool) (f : Dev) (q : List (Nat × Nat) × Dev),
        e.knockEach ([8 + p.val, 3, 4] ++ (blocksOf o bs.length).flatMap fun x => pathTo 4 x.1) = (false, g) →
        g.fencedOn [8 + p, 3, 4] = false → f = (g.count 2 2 tagOwn 1).count 2 3 tagOwn ((bs.length + 31) / 32) →
        q = f.blockWrites .peer 4 ep (beatParts o bs (bs.length / 32 + 2)) → q.1 ≠ [] →
        e.peerAccess p 4 o (.write bs ep) = { q.2.watchWrite p q.1 with cpl := .success, resp := [] })) ∧
    (∀ p : Fin 6,
      (s.dev.linkActive p = true → s.dev.faults.halted = false → Runs (.downstreamMessage p) s
        { (((s.dev.linkWake p).linkWake 6).count 2 2 tagOwn 1).count 2 3 tagOwn 0 with cpl := .forwarded, resp := [] }) ∧
      (s.dev.linkActive p = false ∨ s.dev.faults.halted = true → Runs (.downstreamMessage p) s s.dev))

/-- The hub (R26, R395, R400, R401, R416, R427–R430, R434, R461). HUB_RESPONSE goes on with the work of its requester, an engine, a mover or
a core, and changes nothing of another agent's; one lost to a bridge lane's parity error ends the access with the fenced error and raises a
fault, an error in a word counts and raises a fault, and an uncorrectable one poisons the word or fails the access, and a logic or
protocol error raises a fault and goes on. ARBITER_GRANT grants the port that the search of R427 finds in the highest class that presents a
request, after a reload where none of that class has credit: a credit is spent, the pointer stays while credit is left and otherwise moves
on, and the port waits no longer, while those passed over wait one more grant; with the target fenced or asleep nothing is granted.
A local RAM's step that its core leaves free serves the hub, and one that the core takes is one more that the hub waits.
DRAM_TRAINING_COMPLETE trains a channel that is to be trained, and changes nothing of another. -/
def Obligations.HubCommandsComplete : Prop :=
  ∀ s : State,
    (∀ (a : Agent) (sub : Fin 256) (n : Nat), let goesOn := fun d : Dev => d.accessGoesOn a sub n
      Runs (.hubResponse a sub n none) s (goesOn s.dev) ∧
      (∀ d : Dev, (0x50 ≤ a.val → a.val < 0x60 → goesOn d = d.engineBeats ((a - 0x50) * 256 + sub) n) ∧
        (0x60 ≤ a.val → a.val < 0x70 → goesOn d = d.mvBeats (a - 0x60) n) ∧
        (1 ≤ a.val → a.val ≤ 0x41 → 0 < n → goesOn d = d.loadArrives (a - 1) none) ∧
        ((a.val = 0 ∨ (0x41 < a.val ∧ a.val < 0x50) ∨ 0x70 ≤ a.val ∨ (a.val ≤ 0x41 ∧ n = 0)) → goesOn d = d)) ∧
      (∀ (lane : Fin 16) (e : Dev),
        e = ((((s.dev.bump pgBRG 0x05C 1 0x060 0).bump16 pgBRG (0x100 + 4 * lane) 0 1).setRf pgBRG (0x100 + 4 * lane) 31 1 1).raiseFault
          { kind := 26, page := pgBRG, source := 0, info := w32 lane, unit := some 150 }) →
        Runs (.hubResponse a sub n (some (.bridge lane))) s (e.accessFails a sub true) ∧
        (0x50 ≤ a.val → a.val < 0x60 → (e.ctx ((a - 0x50) * 256 + sub)).phase = .running →
          Runs (.hubResponse a sub n (some (.bridge lane))) s (e.failAccess ((a - 0x50) * 256 + sub) xENGINE 3))) ∧
      (∀ (w : BitVec 48) (unc : Bool), checkerOf w.toNat = none → Runs (.hubResponse a sub n (some (.memory w unc))) s (goesOn s.dev)) ∧
      (∀ (w : BitVec 48) (unc : Bool) (c : Checker) (e : Dev), checkerOf w.toNat = some c →
        e = (s.dev.eccCount c.page (if unc then c.unc else c.corr)).raiseFault
          { kind := if unc then c.ue else c.ce, page := c.page, source := c.source, info := w32 c.info, unit := c.unit } →
        (unc = false → Runs (.hubResponse a sub n (some (.memory w unc))) s (goesOn e)) ∧
        (unc = true → c.keeps = true → Runs (.hubResponse a sub n (some (.memory w unc))) s (goesOn (e.setPoison (w.toNat / 8 * 8) true))) ∧
        (unc = true → c.keeps = false → Runs (.hubResponse a sub n (some (.memory w unc))) s (e.accessFails a sub false))) ∧
      (∀ (dom : Fin 152) (st : BitVec 16), Runs (.hubResponse a sub n (some (.logic dom st))) s (goesOn (s.dev.raiseFault
        (if dom.val = 0 then { kind := 28, page := pgKTL, source := st.toNat, info := 0, unit := none }
          else { kind := 21, page := unitPage dom, source := dom, info := w32 st.toNat, unit := some dom.val })))) ∧
      (∀ (port : Fin 16) (detail : Word), Runs (.hubResponse a sub n (some (.protocol port detail))) s (goesOn (s.dev.raiseFault
        { kind := 30, page := pgHUB, source := port, info := detail, unit := none }))) ∧
      (s.dev.portA = none → Runs (.hubResponse a sub n (some .sameStep)) s (goesOn s.dev))) ∧
    (∀ (arb : ArbName) (a : Nat) (present : BitVec 16) (f : Dev) (req : List Nat), a = arbNum arb → a < 64 →
      f = s.dev.setArb a { s.dev.arb a with
        waited := (s.dev.arb a).waited.filter fun e => !((arbPorts a).filter fun p => s.dev.portMasked a p).contains e.1 } →
      req = (arbPorts a).filter (fun p => present.getLsbD p && !((arbPorts a).filter fun p => s.dev.portMasked a p).contains p) →
      (s.dev.gate (arbTarget a) ≠ .ok → Runs (.arbiterGrant arb present) s s.dev) ∧
      (s.dev.gate (arbTarget a) = .ok →
        (req = [] → Runs (.arbiterGrant arb present) s f) ∧
        (∀ (k p : Nat) (g : Dev), (∀ q ∈ req, f.portClass a q ≤ k) → (∃ q ∈ req, f.portClass a q = k) →
          g = (if (req.filter fun p => f.portClass a p = k).any fun p => decide (0 < (f.arb a).creditOf p) then f
            else f.reload a ((arbPorts a).filter fun p => f.portClass a p = k)) →
          (g.arb a).search (smGet (g.arb a).ptr k 0) (req.filter fun p => f.portClass a p = k) = some p →
          ∀ (v : Arb) (c : Nat), v = g.arb a → c = v.creditOf p - 1 →
          Runs (.arbiterGrant arb present) s ((req.filter (· ≠ p)).foldl (fun d q => d.passOver a q) (g.setArb a { v.setCredit p c with
            ptr := smSet v.ptr k (if 0 < c then p else (p + 1) % 16) 0, waited := smSet v.waited p 0 0
            told := v.told.filter (· ≠ p) }))))) ∧
    (∀ (w c : Fin 8) (present : BitVec 16) (v : Arb), v = s.dev.arb (64 + w) →
      (s.dev.gate (coreDom w c) ≠ .ok ∨ present.getLsbD 1 = false → Runs (.arbiterGrant (.lram w c) present) s s.dev) ∧
      (s.dev.gate (coreDom w c) = .ok → present.getLsbD 1 = true →
        (present.getLsbD 0 = false → Runs (.arbiterGrant (.lram w c) present) s
          (s.dev.setArb (64 + w) { v with waited := smSet v.waited c 0 0, told := v.told.filter (· ≠ c.val) })) ∧
        (present.getLsbD 0 = true → ∀ (n l : Nat) (f : Dev), n = smGet v.waited c 0 + 1 → l = s.dev.rf (pgWARB + w) 0x200 16 8 →
          f = s.dev.setArb (64 + w) { v with waited := smSet v.waited c n 0 } →
          (l ≠ 0 ∧ 16 * l < n ∧ v.told.contains c.val = false →
            Runs (.arbiterGrant (.lram w c) present) s (f.starve (64 + w) c (pgWARB + w) 0x204 0x208 2)) ∧
          (l = 0 ∨ n ≤ 16 * l ∨ v.told.contains c.val = true → Runs (.arbiterGrant (.lram w c) present) s f)))) ∧
    (∀ c : Fin 2, (s.dev.dramState c = 1 →
        Runs (.dramTrainingComplete c) s { s.dev with links := { s.dev.links with trained := s.dev.links.trained ++ [c.val] } }) ∧
      (s.dev.dramState c ≠ 1 → Runs (.dramTrainingComplete c) s s.dev))

/-- The derailleur (R436–R439, R441–R444, R446, R449). IDLE_HOLD_EXPIRY makes an idle, waking domain that no fence holds eligible.
DERAILLEUR_EVALUATION of an eligible domain moves it toward the state that it selects, and sets its scheduled wake by the known event, or
starts its exit where that is due; SCHEDULED_WAKE starts it. SCHEDULE_SLOT_REACHED uses a slot up whose time has come, or moves it on by its
period. DOMAIN_ENTRY_STEP_COMPLETE goes one state deeper, and ends at the goal; DOMAIN_EXIT_COMPLETE ends in FREEWHEEL, the latency
measured. Each changes nothing where there is nothing for it to do. -/
def Obligations.DerailleurCommandsComplete : Prop :=
  ∀ (s : State) (c : Counts) (k : Fin 152) (d : Dev) (u : Dom), d = s.dev.atCounts c → u = d.dom k →
    (∀ (v : Dom) (may : Bool), v = s.dev.dom k →
      may = (decide (k.val ≠ 0) && s.dev.isIdle k && !v.asleep && !s.dev.isFenced k) →
      Runs (.idleHoldExpiry k) s (if may then s.dev.setDom k { v with eligible := true } else s.dev)) ∧
    (k.val = 0 ∨ u.eligible = false ∨ d.isFenced k = true ∨ u.cycling = true → Runs (.derailleurEvaluation c k) s d) ∧
    (∀ (e f : Dev) (best now : Nat), k.val ≠ 0 → u.eligible = true → d.isFenced k = false → u.cycling = false →
      e = d.bump pgDRL 0x050 1 0x060 0 → best = e.selection k → now = max 1 u.state.code →
      f = (match u.trans with
        | .exiting _ _ => e
        | .entering _ => if now < best then e.setDom k { u with trans := .entering (PState.ofCode best) } else e.startExit k false none
        | .none => if now < best then e.setDom k { u with trans := .entering (PState.ofCode best) }
          else if best < now then e.startExit k false none else e) →
      (e.knownEvent k = none ∨ best = 1 → Runs (.derailleurEvaluation c k) s (f.setDom k { f.dom k with wakeAt := none })) ∧
      (∀ t wake : DT, e.knownEvent k = some t → best ≠ 1 →
        wake = t - BitVec.ofNat 64 ((f.lat k best + (f.reg pgDRL 0x044).toNat) * 256) →
        (reached f.now wake = false →
          Runs (.derailleurEvaluation c k) s (f.setDom k { f.dom k with wakeAt := some wake, wakeFor := t })) ∧
        (reached f.now wake = true → Runs (.derailleurEvaluation c k) s (f.startExit k false (some t))))) ∧
    (u.wakeAt = none → Runs (.scheduledWake c k) s d) ∧
    (∀ t : DT, u.wakeAt = some t →
      (reached d.now t = false ∨ d.isFenced k = true → Runs (.scheduledWake c k) s d) ∧
      (reached d.now t = true → d.isFenced k = false → Runs (.scheduledWake c k) s (d.startExit k false (some u.wakeFor)) ∧
        (u.cycling = false → u.trans = .none → (u.state = .doze ∨ u.state = .nap ∨ u.state = .off) → Runs (.scheduledWake c k) s
          (d.setDom k { u with trans := .exiting false (some u.wakeFor), wakeAt := none, eligible := false })))) ∧
    (∀ i : Fin 32, (smFind d.slots i = none → Runs (.scheduleSlotReached c i) s d) ∧
      ∀ x : Slot, smFind d.slots i = some x →
      (reached d.now x.time = false → Runs (.scheduleSlotReached c i) s d) ∧
      (reached d.now x.time = true → d.reg pgDRL (0x200 + 16 * i + 8) = 0 → Runs (.scheduleSlotReached c i) s
        { d.setRf pgDRL (0x200 + 16 * i + 0xC) 31 1 0 with slots := smErase d.slots i }) ∧
      (∀ (t : DT) (f : Dev), reached d.now x.time = true → d.reg pgDRL (0x200 + 16 * i + 8) ≠ 0 →
        t = x.time + ds32Dur (d.reg pgDRL (0x200 + 16 * i + 8)) →
        f = (if d.reg pgDRL (0x200 + 16 * i) = lo32 x.time then d.setReg pgDRL (0x200 + 16 * i) (lo32 t) else d) →
        Runs (.scheduleSlotReached c i) s
          { f.setReg pgDRL (0x200 + 16 * i + 4) (hi32 t) with slots := smPut f.slots i { x with time := t } })) ∧
    (∀ (v : Dom) (pj : Option Nat), v = s.dev.dom k →
      ((∀ goal, v.trans ≠ .entering goal) ∨ v.cycling = true ∨ s.dev.isFenced k = true → Runs (.domainEntryStepComplete k pj) s s.dev) ∧
      (∀ (goal : PState) (f : Dev), v.trans = .entering goal → v.cycling = false → s.dev.isFenced k = false →
        f = ((s.dev.chargeTrans k (s.dev.ein k v.state.deeper.code)).measureIn k v.state.deeper.code pj).setDom k
          { v with state := v.state.deeper, trans := if v.state.deeper = goal then .none else .entering goal } →
        (v.state.deeper ≠ .off → Runs (.domainEntryStepComplete k pj) s f) ∧
        (v.state.deeper = .off → Runs (.domainEntryStepComplete k pj) s (f.breakLocks fun a => agentDom a = some k.val)))) ∧
    (∀ (lat : Nat) (pj : List (Option Nat)),
      ((∀ dem known, u.trans ≠ .exiting dem known) ∨ (d.isFenced k = true ∧ u.cycling = false) →
        Runs (.domainExitComplete c k lat pj) s d) ∧
      (∀ (dem : Bool) (known : Option DT) (e : Dev), u.trans = .exiting dem known → d.isFenced k = false ∨ u.cycling = true →
        (u.state = .off → d.comeUp k = (false, e) → Runs (.domainExitComplete c k lat pj) s e) ∧
        (∀ f g : Dev, (u.state ≠ .off ∧ e = d ∨ u.state = .off ∧ d.comeUp k = (true, e)) →
          f = e.exitEnergies k u.state.code pj →
          g = (if 2 ≤ u.state.code then { f with lats := smPut f.lats (estKey k u.state.code) (window (f.latWindow k u.state.code)
            { lat := (lat + 255) / 256, volt := f.volt k, temp := f.temp k }) } else f).countExit k u.trans →
          ∀ h : Dev, h = g.setDom k { g.dom k with
            state := .freewheel, trans := .none, eligible := false, wakeAt := none, cycling := false } →
          Runs (.domainExitComplete c k lat pj) s (if u.cycling then h.liftFence k .fault else h))))

/-- Control of the domains and their voltages (R17, R446, R447, R450, R454–R456, R461, R479, R498, R569). DOMAIN_CYCLE takes a domain to OFF
and back; DOMAIN_RESET resets its unit, clears the host window table with domain 3, takes a port's link down, and keeps the kettle core
(log 51); both are discarded for domain 0, with a bad floor, and in a wheel's fence, and DOMAIN_RESET of a fenced domain. A write of an
estimate fills its window with the value at the present voltage and temperature. VDD_CORE is written to the power controller, is in force
after a lowering at once and after a raise when PMIC_SETTLE has passed, and is written again, up to twice, where it was not
acknowledged; then it is a fault. THERMAL_SAMPLE judges the sensors of every region. HANDSHAKE_TIMEOUT of an awake domain, or
LDO_REGULATION_FAULT of more than 25 mV, is a fault. -/
def Obligations.PowerControlCommandsComplete : Prop :=
  ∀ (s : State) (a : Agent) (e : Dev),
    (∀ (q : Instr) (bit : Nat) (k : Fin 152) (w : Word) (f : Dev), (q = .domainCycle a k ∧ bit = 31) ∨ (q = .domainReset a k ∧ bit = 30) →
      s.dev.arrives a pgPWD (0x100 + 16 * k) true = some e → e.unlocked pgPWD a →
      f = e.plain a pgPWD (0x100 + 16 * k) w → w = withBit (s.dev.reg pgPWD (0x100 + 16 * k)) bit true → bitAt w bit = true →
      (k.val = 0 ∨ within 1 4 (fld w 0 3) = false → Runs q s (e.badWrite pgPWD a (0x100 + 16 * k))) ∧
      (k.val ≠ 0 → within 1 4 (fld w 0 3) = true →
        (bitAt w 31 = true →
          (f.faults.halted = true → Runs q s f) ∧
          (f.faults.halted = false → f.wheelFenced k = true → Runs q s (e.badWrite pgPWD a (0x100 + 16 * k))) ∧
          (f.faults.halted = false → f.wheelFenced k = false → (f.dom k).cycling = true → Runs q s f) ∧
          (∀ g : Dev, f.faults.halted = false → f.wheelFenced k = false → (f.dom k).cycling = false →
            g = ((f.workLost k).chargeToOff k).breakLocks (fun x => agentDom x = some k.val) →
            Runs q s (g.setDom k { g.dom k with
              state := .off, trans := .exiting false none, cycling := true, eligible := false, wakeAt := none }))) ∧
        (bitAt w 31 = false →
          ((f.dom k).fenced = true ∨ f.wheelFenced k = true → Runs q s (e.badWrite pgPWD a (0x100 + 16 * k))) ∧
          ((f.dom k).fenced = false → f.wheelFenced k = false →
            ((f.dom k).cycling = true ∨ (f.dom k).state = .off ∨ k.val = 1 → Runs q s f) ∧
            (∀ g h : Dev, (f.dom k).cycling = false → (f.dom k).state ≠ .off → k.val ≠ 1 → g = (f.workLost k).unitReset k .dreset →
              h = (if k.val = 3 then g.clearHwt else g) →
              Runs q s (if 8 ≤ k.val ∧ k.val < 14 then h.portDown (k - 8) else h)))))) ∧
    (∀ (v : Word) (key : Nat), key = estKey e.selDom e.selState → e.unlocked pgPWD a →
      (s.dev.arrives a pgPWD 0x044 true = some e → Runs (.estLatWrite a v) s 
        { e with lats := smPut e.lats key (List.replicate 16 { lat := fld v 0 16, volt := e.volt e.selDom, temp := e.temp e.selDom }) }) ∧
      (s.dev.arrives a pgPWD 0x048 true = some e → Runs (.estEinWrite a v) s 
        { e with eins := smPut e.eins key (List.replicate 16 { pj := fld v 0 24, volt := e.volt e.selDom }) }) ∧
      (s.dev.arrives a pgPWD 0x04C true = some e → Runs (.estEoutWrite a v) s 
        { e with eouts := smPut e.eouts key (List.replicate 16 { pj := fld v 0 24, volt := e.volt e.selDom }) })) ∧
    (∀ p : Pmic, p = s.dev.pmic →
      (s.dev.pmicOn = false ∨ p.busy.isSome = true ∨ p.settling.isSome = true ∨ s.dev.vcoreWanted = p.now → Runs .pmicWrite s s.dev) ∧
      (s.dev.pmicOn = true → p.busy = none → p.settling = none → s.dev.vcoreWanted ≠ p.now →
        (s.dev.knock 16 = (.ok, e) → Runs .pmicWrite s (({ e with pmic := { e.pmic with
          req := s.dev.vcoreWanted, busy := some s.dev.vcoreWanted, nacks := 0 } }).countSerial (regionTag 3) 2)) ∧
        (∀ x, x ≠ .ok → s.dev.knock 16 = (x, e) → Runs .pmicWrite s e)) ∧
      (p.busy = none → ∀ ack, Runs (.pmicWriteComplete ack) s s.dev) ∧
      (∀ (t : Nat) (f g : Dev), p.busy = some t → f = s.dev.bump pgI3C 0x3A4 1 0x3AC 1 → g = s.dev.bump pgI3C 0x3A0 1 0x3AC 0 →
        (p.now < t → Runs (.pmicWriteComplete true) s { f with pmic := { p with busy := none, settling := some t } }) ∧
        (t ≤ p.now → Runs (.pmicWriteComplete true) s { f with pmic := { p with busy := none, now := t } }) ∧
        (p.nacks < 2 → Runs (.pmicWriteComplete false) s
          (({ g with pmic := { p with nacks := p.nacks + 1 } }).countSerial (regionTag 3) 2)) ∧
        (2 ≤ p.nacks → Runs (.pmicWriteComplete false) s
          ((({ g with pmic := { p with busy := none, req := p.now, nacks := 0 } }).bump pgDRL 0x05C 1 0x060 3).raiseFault
            { kind := 15, page := pgDRL, source := 0, info := w32 (stepMv t), unit := none }))) ∧
      (p.settling = none → Runs .pmicSettleExpiry s s.dev) ∧
      (∀ t : Nat, p.settling = some t → Runs .pmicSettleExpiry s { s.dev with pmic := { p with settling := none, now := t } })) ∧
    (∀ raw : List (BitVec 16), raw.length = 36 → Runs (.thermalSample raw) s
      ((List.range 9).foldl (fun d r => d.sampleRegion r ((raw.drop (4 * r)).take 4)) s.dev)) ∧
    (∀ (k : Fin 152) (stage : Word),
      (k.val = 0 → Runs (.handshakeTimeout k stage) s (s.dev.free.2.raiseFault
        { kind := 28, page := pgKTL, source := (s.dev.free.1.truncate 16 : BitVec 16).toNat, info := stage, unit := none })) ∧
      (k.val ≠ 0 → (s.dev.dom k).asleep = false → s.dev.isFenced k = false → Runs (.handshakeTimeout k stage) s (s.dev.raiseFault
        { kind := 20, page := unitPage k, source := k, info := stage, unit := some k.val })) ∧
      (k.val ≠ 0 → ((s.dev.dom k).asleep = true ∨ s.dev.isFenced k = true) → Runs (.handshakeTimeout k stage) s s.dev)) ∧
    (∀ (r : Fin 9) (mv v : Nat), v = stepMv (s.dev.region r).volt →
      (5 ≤ r.val → (v + 25 < mv ∨ mv + 25 < v) →
        Runs (.ldoRegulationFault r mv) s ((s.dev.setRegion r { s.dev.region r with meas := some mv }).raiseFault
          { kind := 25, page := pgTHM, source := r, info := w32 mv, unit := none })) ∧
      ((r.val < 5 ∨ (v ≤ mv + 25 ∧ mv ≤ v + 25)) → Runs (.ldoRegulationFault r mv) s s.dev))

/-- The common header and plain registers (R3–R6, R14, R25, R26, R474, R482, R534–R540). PAGE_ENABLE and PAGE_DRAIN enable or drain a
page, FENCE_REQUEST and FENCE_REQUEST_RELEASE request or release the fence of its unit; EN waits while the page drains, and each is
discarded where the page cannot drain or its unit not be fenced. CAPTURE_CLEAR has PG_FIRST capture anew; ERROR_INJECT takes a code that its
page's checkers have while injection is enabled, and is else discarded; PAGE_COMMIT of the page's own number brings the shadows into force;
PG_EVT_SET and PG_EVT_CLR act on the events of the page, and discard other bits; PAGE_LOCK is set by the kettle core alone. REGISTER_WRITE of a
register whose bits only obey their access codes changes those bits; of one that has no writable bit it is discarded, and counted as bad. A
register access that finds a domain on its way asleep starts that domain's exit, and is held behind the requests that wait already (R25); one
that a fence stops is dropped, or read in error (R26); and an agent that makes no such access changes nothing. -/
def Obligations.HeaderCommandsComplete : Prop :=
  ∀ (s : State) (a : Agent) (p : Fin 96) (e : Dev),
    (∀ (q : Instr) (v held : Word), held = withBit (s.dev.reg p 0x008) 0 (s.dev.rb p 0x008 0 || s.dev.enPend.contains p.val) →
      (q = .pageDrain a p ∧ v = withBit held 0 false) ∨ (q = .pageEnable a p ∧ v = withBit held 0 true) ∨
        (q = .fenceRequest a p ∧ v = withBit held 1 true) ∨ (q = .fenceRequestRelease a p ∧ v = withBit held 1 false) →
      s.dev.arrives a p 0x008 true = some e → e.unlocked p a →
      let waits := bitAt v 0 && e.draining p
      let others := e.enPend.filter (· ≠ p.val)
      let f : Dev := { e.setReg p 0x008 ((if waits then withBit v 0 false else v) &&& 3) with
        enPend := if waits then others ++ [p.val] else others }
      let g := if e.pageEn p && !bitAt v 0 && pgCE ≤ p.val && p.val < pgWICU then f.engineDrain (p - pgCE) else f
      let t := (pageDoms p).foldl (fun d k => if bitAt v 1 then d.fenceUnit k .request false
        else if (d.dom k).fenceReq && !d.otherRequest p k then d.liftFence k .request else d) g
      let bad := (!bitAt v 0 && !pageDrains p) || (bitAt v 1 && !pageFenceable p)
      Runs q s (if bad then e.badWrite p a 0x008 else t)) ∧
    (s.dev.arrives a p 0x020 true = some e → e.unlocked p a →
      Runs (.captureClear a p) s ((e.setReg p 0x020 0).setReg p 0x024 0)) ∧
    (∀ v : Word, s.dev.arrives a p 0x02C true = some e → e.unlocked p a →
      let good := e.rb pgFLT 0x040 0 && decide (fld v 4 2 ≠ 3) && decide (fld v 8 8 < pageCheckers p) && !(bitAt v 3 && parityPage p)
      Runs (.errorInject a p v) s (if good then e.plain a p 0x02C v else e.badWrite p a 0x02C)) ∧
    (∀ v : Word, s.dev.arrives a p 0x034 true = some e → e.unlocked p a →
      Runs (.pageCommit a p v) s (if v = pageId p ∧ pageCommits p = true then e.commit p else e.badWrite p a 0x034)) ∧
    (∀ v : Word, e.unlocked p a →
      (s.dev.arrives a p 0x014 true = some e → Runs (.pgEvtSet a p v) s
        (if v &&& ~~~evtMask p = 0 then e.pageEvt p v.toNat else e.badWrite p a 0x014)) ∧
      (s.dev.arrives a p 0x018 true = some e → Runs (.pgEvtClr a p v) s
        (if v &&& ~~~evtMask p = 0 then e.setReg p 0x010 (e.reg p 0x010 &&& ~~~v) else e.badWrite p a 0x018))) ∧
    (∀ v : Word, s.dev.arrives a p 0x03C true = some e → e.unlocked p a →
      (bitAt v 0 = false → Runs (.pageLock a p v) s e) ∧
      (bitAt v 0 = true → Runs (.pageLock a p v) s (if a.val = agKettle then e.setRf p 0x03C 0 1 1 else e.badWrite p a 0x03C))) ∧
    (∀ (i : Fin 1024) (v : Word) (r : RegRow), s.dev.arrives a p (4 * i) true = some e → regRow p (4 * i) = some r →
      (e.unlocked p a → ¬ (r.rw = 0 ∧ r.w1c = 0 ∧ r.wo = 0) → 0x040 ≤ 4 * i.val → r.banked = false → r.rws = false →
        e.writeBlock a (e.tagOf a) p (4 * i) v = some (e.plain a p (4 * i) v) →
        Runs (.registerWrite a p i v) s (e.setReg p (4 * i) ((e.reg p (4 * i) &&& ~~~w32 r.rw &&& ~~~(w32 r.w1c &&& v)) ||| (v &&& w32 r.rw)))) ∧
      (r.rw = 0 → r.w1c = 0 → r.wo = 0 → Runs (.registerWrite a p i v) s (e.badWrite p a (4 * i)))) ∧
    (∀ (i : Fin 1024) (v : Word) (may : Bool), may = (s.dev.canAccess a && !(decide (a.val = agDebug) && !s.dev.debugMay p (4 * i))) →
      (may = false → Runs (.registerWrite a p i v) s s.dev ∧ Runs (.registerRead a p i) s s.dev) ∧
      (may = true →
        (s.dev.regReach a p (4 * i) true = (.asleep, e) → Runs (.registerWrite a p i v) s (s.dev.holds e (.regWrite a p (4 * i) v))) ∧
        (s.dev.regReach a p (4 * i) true = (.fenced, e) → Runs (.registerWrite a p i v) s e) ∧
        (s.dev.regReach a p (4 * i) false = (.asleep, e) → Runs (.registerRead a p i) s (s.dev.holds e (.regRead a p (4 * i)))) ∧
        (s.dev.regReach a p (4 * i) false = (.fenced, e) → Runs (.registerRead a p i) s { e with cpl := .abort, resp := [] }) ∧
        (∀ k : Nat, a.val ≠ agHost → regPath a p (4 * i) = [] → regDoms p (4 * i) = [k] → s.dev.gate k = .asleep →
          let w := s.dev.demandWake k
          Runs (.registerWrite a p i v) s { s.dev with doms := w.doms, held := s.dev.held ++ [.regWrite a p (4 * i) v] } ∧
          Runs (.registerRead a p i) s { s.dev with doms := w.doms, held := s.dev.held ++ [.regRead a p (4 * i)] })))

/-- Fault handling (R466, R480, R502, R545). FAULT_LOG_CONSUME moves the log's consumer up to its producer, and is discarded beyond it.
WHEEL_STEEP_EXPIRY of a fenced wheel has it recover when its steep time has passed, or be held at its limit with a notice; WHEEL_RECOVER has
it recover at once; WHEEL_RECOVERY_COMPLETE brings the wheel back, counted, logged and noticed, and its cores boot; where there is nothing
for them to do, or the device is halted, they change nothing. RAIL_FAULT is a fault of the kettle, its SOURCE a free value (log 11).
TAMPER_EVENT wipes the caddy and shuts the debug port in the field. -/
def Obligations.FaultCommandsComplete : Prop :=
  ∀ (s : State) (a : Agent) (e : Dev),
    let starts := fun (d : Dev) (w : Nat) => (wheelDoms w).foldl (fun d k =>
      let d := (d.chargeToOff k).breakLocks fun x => agentDom x = some k
      d.setDom k { d.dom k with state := .off, trans := .none, cycling := true, eligible := false, wakeAt := none })
      (d.setWfault w { d.wfault w with recovering := true })
    (∀ v : Word, s.dev.arrives a pgFLT 0x04C true = some e → e.unlocked pgFLT a →
      ((v - e.reg pgFLT 0x04C).toNat ≤ (e.faults.logProd - e.reg pgFLT 0x04C).toNat →
        Runs (.faultLogConsume a v) s (e.setReg pgFLT 0x04C v)) ∧
      ((e.faults.logProd - e.reg pgFLT 0x04C).toNat < (v - e.reg pgFLT 0x04C).toNat →
        Runs (.faultLogConsume a v) s (e.badWrite pgFLT a 0x04C))) ∧
    (∀ (w : Fin 8) (v : Word) (f : Dev), s.dev.arrives a (pgWARB + w) 0x400 true = some e → e.unlocked (pgWARB + w) a →
      v = withBit (s.dev.reg (pgWARB + w) 0x400) 31 true → bitAt v 31 = true → f = e.plain a (pgWARB + w) 0x400 v →
      ((f.wfault w).fenced = true → (f.wfault w).recovering = false → f.faults.halted = false → Runs (.wheelRecover a w) s (starts f w)) ∧
      ((f.wfault w).fenced = false ∨ (f.wfault w).recovering = true ∨ f.faults.halted = true → Runs (.wheelRecover a w) s f)) ∧
    (∀ (w : Fin 8) (c : Counts) (d : Dev) (x : WheelFault) (early : Prop), d = s.dev.atCounts c → x = d.wfault w →
      (early ↔ (toDl32 d.now - x.steepStart).toNat < (d.reg (pgWARB + w) 0x404).toNat) →
      (x.fenced = false ∨ x.recovering = true ∨ x.held = true ∨ d.faults.halted = true ∨ early → Runs (.wheelSteepExpiry c w) s d) ∧
      (x.fenced = true → x.recovering = false → x.held = false → d.faults.halted = false → ¬early →
        ((d.reg pgFLT (0x0A0 + 4 * w)).toNat < d.rf (pgWARB + w) 0x400 0 8 → Runs (.wheelSteepExpiry c w) s (starts d w)) ∧
        (d.rf (pgWARB + w) 0x400 0 8 ≤ (d.reg pgFLT (0x0A0 + 4 * w)).toNat →
          Runs (.wheelSteepExpiry c w) s ((d.setWfault w { x with held := true }).notice 7)))) ∧
    (∀ w : Fin 8, ((s.dev.wfault w).recovering = false ∨ s.dev.faults.halted = true → Runs (.wheelRecoveryComplete w) s s.dev) ∧
      ∀ (f g : Dev) (l : LogEntry), (s.dev.wfault w).recovering = true → s.dev.faults.halted = false →
      f = ((s.dev.recoverReset w).recoverLift w).bump pgFLT (0x0A0 + 4 * w) 1 0x060 (1 + w) →
      l = { info := f.reg pgFLT (0x0A0 + 4 * w), source := BitVec.ofNat 16 w, page := BitVec.ofNat 8 (pgWARB + w), cls := 0x30 } →
      g = (f.logEntry l).2.notice 6 →
      Runs (.wheelRecoveryComplete w) s
        ((rangeFrom (8 * w) 8).foldl (fun d k => if d.rb (corPage k) (corOff k 0) 31 then d else d.coreRelease k) g)) ∧
    (∀ rail : Fin 5, Runs (.railFault rail) s (s.dev.free.2.raiseFault
      { kind := 28, page := pgKTL, source := (s.dev.free.1.truncate 16 : BitVec 16).toNat, info := w32 (rail + 1), unit := none })) ∧
    (∀ (b : Fin 5) (f : Dev), f = ((s.dev.setRf pgLCS 0x04C b 1 1).bump pgLCS 0x054 1 0x058 0).wipe →
      Runs (.tamperEvent b) s (if f.lifeCycle = lcFIELD then { f with boot := { f.boot with dbgShut := true } } else f))

/-- The resets (R487, R489, R494, R496, R497, R499, R503, R514, R552). COLD_RESET: power returns to empty memories, registers and engines, both
LPDDR5X channels OFF, the crystal as its ball selects it, and what was blown in the fuses; TEST_EN raised wipes the caddy as tamper
source 4; a fuse row that cannot be repaired is a fault, and so is a repair that names no free row, with a row that is a free value
(log 11); otherwise the PMIC is addressed and the boot source is tried. UPSTREAM_PERST ends the rings, the streams and the configuration;
UPSTREAM_PERST_RELEASE brings nothing back; UPSTREAM_LINK_LOSS is both; FUNCTION_LEVEL_RESET puts HOST to sleep, resets the
rings and the endpoint, and clears the host window table. -/
def Obligations.ResetCommandsComplete : Prop :=
  ∀ s : State,
    (∀ b : ColdBoard,
      let tam := fun x : Dev => if b.testEn = true then x.tamper 4 else x
      let d := s.dev.powerOn b.bypass
      let f := tam d.loadFuses
      let bad := fun (x : Dev) (row : Nat) => (x.setRf pgFUS 0x040 0 8 row).raiseFault
        { kind := 29, page := pgFUS, source := row, info := 0, unit := none }
      (d.mem = [] ∧ d.regs = [] ∧ d.scbs = [] ∧ d.cores = [] ∧ d.wl = [] ∧ (d.dom 26).state = .off ∧ (d.dom 27).state = .off ∧
        d.pacer.extClock = b.bypass ∧ d.boot.fuses = s.dev.boot.fuses) ∧
      (∀ r : BitVec 8, b.badRow = some r → Runs (.coldReset b) s (bad (tam d) r.toNat)) ∧
      (b.badRow = none →
        (∀ r, r < 192 → f.repairBad r = true →
          Runs (.coldReset b) s (bad f.free.2 (f.free.1.truncate 8 : BitVec 8).toNat)) ∧
        ((∀ r, r < 192 → f.repairBad r = false) →
          Runs (.coldReset b) s (((if f.lifeCycle = lcRETURN then f.wipe else f).loadPmic b.pmicAck).bootFrom b.flashA b.flashB)))) ∧
    (∃ t : Dev, Runs .upstreamPerst s t ∧ t.hif = {} ∧ t.cfg = [] ∧ t.streams = [] ∧ t.streamWait = [] ∧ t.banked = [] ∧
      t.links.perst = true ∧ Runs .upstreamLinkLoss s { t with links := { t.links with perst := false } }) ∧
    Runs .upstreamPerstRelease s { s.dev with links := { s.dev.links with perst := false } } ∧
    (∀ f : Dev, f = ((((s.dev.breakLocks (· = agHost)).hostAsleep).resetHif .dreset).resetEndpoint).clearHwt →
      Runs .functionLevelReset s (f.setRf pgKTL 0x04C 2 1 1))

/-- Start-up, life-cycle and the kettle's devices (R490–R495, R500, R503–R505, R507). CFG_READY_SET sets CFG_READY; HOST_BOOT of a good length while
the host path is open checks the staged image, and copies one that passes; ROM_EXIT starts the kettle core at ENTRY, with FUS and LCS
locked in FIELD and RETURN; LIFE_CYCLE_ADVANCE goes one state on, SVN_ADVANCE one version on, and KEY_FUSE_WRITE blows a key word in
PROVISION, once, each by the kettle core; KETTLE_TIMER_ARM arms a timer in the wake list, fires one whose time has come, and is refused
by a full list; KETTLE_TIMER_CANCEL cancels; QSPI_TRANSFER starts a flash transfer, and QSPI_TRANSFER_COMPLETE ends it with the
data in the kettle core's local RAM. One that is not as these say is discarded, and counted as bad. -/
def Obligations.BootCommandsComplete : Prop :=
  ∀ (s : State) (a : Agent) (e : Dev),
    (s.dev.arrives a pgKTL 0x044 true = some e → e.unlocked pgKTL a → Runs (.cfgReadySet a) s (e.setRf pgKTL 0x044 31 1 1)) ∧
    (∀ len : Word, s.dev.arrives a pgKTL 0x048 true = some e → e.unlocked pgKTL a →
      let h := e.peek stagingBase 0x260
      let b := e.peek stagingBase (imgLen h)
      let err := if imgHeaderErr h ≠ 0 then imgHeaderErr h else e.imgErr b
      let good := 0x300 ≤ len.toNat ∧ len.toNat ≤ 0x400000 ∧ len.toNat % 32 = 0 ∧ e.boot.hostPath = true ∧ e.boot.loaded = none
      (¬good → Runs (.hostBoot a len) s (e.badWrite pgKTL a 0x048)) ∧
      (good → err = 0 → Runs (.hostBoot a len) s
        { e.copySegs b with boot := { e.boot with loaded := some (3, imgSvn b, imgEntry b), hostPath := false } }) ∧
      (good → err ≠ 0 → Runs (.hostBoot a len) s (e.setRf pgKTL 0x040 16 8 err))) ∧
    (s.dev.boot.loaded = none → Runs .romExit s s.dev) ∧
    (∀ (src svn entry : Nat) (f g h : Dev), s.dev.boot.loaded = some (src, svn, entry) →
      f = (if s.dev.lifeCycle = lcFIELD ∨ s.dev.lifeCycle = lcRETURN then (s.dev.setReg pgFUS 0x03C 1).setReg pgLCS 0x03C 1
        else s.dev) →
      g = f.setReg pgKTL 0x040 (w32 (2 ^ 30 + fput 28 2 src + fput 16 8 (f.rf pgKTL 0x040 16 8) + fput 8 8 svn)) →
      h = { g with boot := { g.boot with loaded := none, hostPath := false } } →
      Runs .romExit s (h.setCore 64 { state := .running, pc := BitVec.ofNat 16 entry,
                                      completeCnt := (g.core 64).completeCnt, kThresh := (g.core 64).kThresh })) ∧
    (∀ v : Word, s.dev.arrives a pgLCS 0x044 true = some e → e.unlocked pgLCS a →
      let t := e.lifeCycle + 1
      let good := a.val = agKettle ∧ fld v 16 16 = 0x4C43 ∧ fld v 0 4 = t ∧ t ≤ 3 ∧ e.rf pgLCS 0x040 4 4 = e.lifeCycle
      (good → Runs (.lifeCycleAdvance a v) s
        (((e.blow 0x044 (withFld (e.blownWord 0x044) 4 4 t)).setRf pgLCS 0x040 4 4 t).wipe)) ∧
      (¬good → Runs (.lifeCycleAdvance a v) s (e.badWrite pgLCS a 0x044))) ∧
    (s.dev.arrives a pgLCS 0x048 true = some e → e.unlocked pgLCS a →
      let n := e.rf pgLCS 0x048 0 6
      (a.val = agKettle ∧ n ≠ 63 →
        Runs (.svnAdvance a) s ((e.blow 0x044 (withFld (e.blownWord 0x044) 8 6 (n + 1))).setRf pgLCS 0x048 0 6 (n + 1))) ∧
      (¬(a.val = agKettle ∧ n ≠ 63) → Runs (.svnAdvance a) s (e.badWrite pgLCS a 0x048))) ∧
    (∀ (i : Fin 40) (v : Word) (o : Nat), o = (if i.val < 32 then 0x080 + 4 * i.val else 0x100 + 4 * (i.val - 32)) →
      s.dev.arrives a pgFUS o true = some e → e.unlocked pgFUS a →
      let good := a.val = agKettle ∧ e.lifeCycle = lcPROVISION ∧ e.boot.written.contains o = false
      let f := e.blow o (e.blownWord o ||| v)
      (good → Runs (.keyFuseWrite a i v) s { f with boot := { f.boot with written := o :: f.boot.written } }) ∧
      (¬good → Runs (.keyFuseWrite a i v) s (e.badWrite pgFUS a o))) ∧
    (∀ v : Word, s.dev.arrives a pgKTL 0x070 true = some e → e.unlocked pgKTL a →
      let len := fld v 0 13
      let buf := e.rf pgKTL 0x06C 0 15
      let cmd := e.reg pgKTL 0x064
      let good := e.boot.qspi = none ∧ len ≤ 4096 ∧ fld cmd 21 3 ≤ 4 ∧ fld cmd 14 2 ≠ 3 ∧ buf + len ≤ 0x8000
      let f := e.setReg pgKTL 0x070 (w32 (0x80000000 + len))
      (a.val = agKettle ∧ bitAt v 31 = true ∧ good → Runs (.qspiTransfer a v) s
        { f with boot := { f.boot with qspi := some (buf, len, bitAt cmd 13) } }) ∧
      (a.val = agKettle ∧ bitAt v 31 = false → Runs (.qspiTransfer a v) s
        (if e.boot.qspi.isSome then e else e.setReg pgKTL 0x070 (w32 len))) ∧
      (¬(a.val = agKettle ∧ (bitAt v 31 = true → good)) → Runs (.qspiTransfer a v) s (e.badWrite pgKTL a 0x070))) ∧
    (∀ (k : Fin 8) (hi : Word), s.dev.arrives a pgKTL (0x104 + 16 * k) true = some e → e.unlocked pgKTL a →
      let w := e.plain a pgKTL (0x104 + 16 * k) hi
      let f := ((w.wlRemove (w.coreTag 64) .ktimer k).setRf pgKTL (0x108 + 16 * k) 0 1 1).setRf pgKTL (0x108 + 16 * k) 1 1 0
      let t := cat64 (f.reg pgKTL (0x104 + 16 * k)) (f.reg pgKTL (0x100 + 16 * k))
      let r := f.wlInsert (f.coreTag 64) { target := t, kind := .ktimer, id := k }
      let g := r.2.setRf pgKTL (0x108 + 16 * k) 0 1 0
      Runs (.kettleTimerArm a k hi) s (match r.1 with
        | .inserted => r.2
        | .reached => (g.setRf pgKTL (0x108 + 16 * k) 1 1 1).srcOccur (privSrc 8 0 (20 + k))
        | .refused => g.setRf pgKTL (0x108 + 16 * k) 2 1 1)) ∧
    (∀ (k : Fin 8) (f : Dev), s.dev.arrives a pgKTL (0x108 + 16 * k) true = some e → e.unlocked pgKTL a →
      f = e.setReg pgKTL (0x108 + 16 * k) (e.reg pgKTL (0x108 + 16 * k) &&& ~~~(0x80 &&& 6 : Word)) →
      Runs (.kettleTimerCancel a k) s ((f.wlRemove (f.coreTag 64) .ktimer k).setRf pgKTL (0x108 + 16 * k) 0 1 0)) ∧
    (∀ data : List Byte, (s.dev.boot.qspi = none → Runs (.qspiTransferComplete data) s s.dev) ∧
      ∀ (buf len : Nat) (write : Bool) (f g : Dev), s.dev.boot.qspi = some (buf, len, write) →
        g = s.dev.setRf pgKTL 0x070 31 1 0 → f = { g with boot := { g.boot with qspi := none } } →
        Runs (.qspiTransferComplete data) s (if write then f else (f.localWrite 64 buf (data.take len)).2))

/-- The debug port (R501, R508, R509). DAP_ACCESS starts one access at a time, and DAP_ACCESS_COMPLETE ends it: with the word it read or wrote, with
ERROR where its range answers so, or REFUSED where the operation, the address or the life cycle does not allow it; while it waits for a
domain it stays BUSY. UNLOCK_CHALLENGE gives a challenge of free values (log 11), UNLOCK_CHECK takes a response, and UNLOCK_CHECK_RESULT
opens the port for one that is signed, counts another, and the third is tamper source 3. HALT_REQ, DEBUG_RESUME and DEBUG_STEP write a
core's control register, and a halted core goes on, or executes one instruction. DEBUG_REG_ACCESS reads and writes a halted core's
registers. What these do not allow is discarded, and counted as bad. -/
def Obligations.DebugCommandsComplete : Prop :=
  ∀ (s : State) (a : Agent) (e : Dev),
    (∀ (op : Fin 4) (addr : BitVec 48) (data : Word), Runs (.dapAccess op addr data) s
      (if s.dev.dap.status = dapBusy then s.dev else
      { s.dev with dap := { op := op, addr := addr.toNat, data := if op = 1 then data else s.dev.dap.data, status := dapBusy } })) ∧
    (∀ x : Dap, x = s.dev.dap →
      let ends := fun (d : Dev) (st : Nat) (v : Word) => { d with dap := { d.dap with status := st, data := v } }
      let inPages := pagesBase ≤ x.addr ∧ x.addr < pagesBase + numPages * 4096
      (x.status ≠ dapBusy → Runs .dapAccessComplete s s.dev) ∧
      (x.status = dapBusy → 2 ≤ x.op ∨ x.addr % 4 ≠ 0 → Runs .dapAccessComplete s (ends s.dev dapRefused x.data)) ∧
      (x.status = dapBusy → x.op < 2 → x.addr % 4 = 0 →
        (∀ p o : Nat, p < numPages → o < 4096 → x.addr = pagesBase + 4096 * p + o →
          (s.dev.debugMay p o = false → Runs .dapAccessComplete s (ends s.dev dapRefused x.data)) ∧
          (s.dev.debugMay p o = true →
            let r := if x.op = 1 then s.dev.regWrite agDebug p o x.data else s.dev.regRead agDebug p o
            Runs .dapAccessComplete s (match r with
              | .ok w f => ends f dapOk (if x.op = 1 then x.data else w)
              | .wait f => s.dev.woken f
              | .abort f => ends f dapError x.data
              | .none => ends s.dev dapRefused x.data))) ∧
        (¬inPages → s.dev.dbgAccess ≠ 2 → Runs .dapAccessComplete s (ends s.dev dapRefused x.data)) ∧
        (¬inPages → s.dev.dbgAccess = 2 →
          (rangeOf x.addr = .unmapped → Runs .dapAccessComplete s (ends s.dev dapError x.data)) ∧
          (∀ al, rangeOf x.addr = .sram al ∨ (∃ w, rangeOf x.addr = .xram w al) ∨ (∃ l, rangeOf x.addr = .lram l) ∨
              (rangeOf x.addr = .dram ∧ s.dev.dramHas x.addr = true) →
            let m := s.dev.reach 0 x.addr
            let c := m.2.countAccess (agentTag agDebug) 0 (decide (x.op = 1)) x.addr 4
            (m.1 = .asleep → Runs .dapAccessComplete s (s.dev.woken m.2)) ∧
            (m.1 = .fenced → Runs .dapAccessComplete s (ends m.2 dapError x.data)) ∧
            (m.1 = .ok → x.op = 1 → Runs .dapAccessComplete s
              (let w := c.memWrite x.addr (leBytes 4 x.data.toNat)
              if w.1 then ends w.2 dapError x.data else ends w.2 dapOk x.data)) ∧
            (m.1 = .ok → x.op = 0 → Runs .dapAccessComplete s
              (let r := c.memRead x.addr 4
              if r.2.1 then ends r.2.2 dapError x.data else ends r.2.2 dapOk (w32 (leNat r.1)))))))) ∧
    (s.dev.arrives a pgDBG 0x040 true = some e → e.unlocked pgDBG a →
      Runs (.unlockChallenge a) s (if e.rf pgLCS 0x050 0 2 = 3 ∨ e.rf pgDBG 0x044 0 2 = 2 then e.badWrite pgDBG a 0x040 else
        ((List.range 8).foldl (fun d i => d.free.2.setReg pgDBG (0x080 + 4 * i) (d.free.1.truncate 32)) e).setRf pgDBG 0x044 0 2 1) ∧
      Runs (.unlockCheck a) s (if e.rf pgDBG 0x044 0 2 = 1 then e.setRf pgDBG 0x044 0 2 2 else e.badWrite pgDBG a 0x040)) ∧
    (s.dev.rf pgDBG 0x044 0 2 ≠ 2 → Runs .unlockCheckResult s s.dev) ∧
    (∀ (n : Nat) (f : Dev), s.dev.rf pgDBG 0x044 0 2 = 2 →
      (s.dev.responseOk = true → ∀ g : Dev, g = s.dev.setReg pgDBG 0x044 0 →
        Runs .unlockCheckResult s { g with boot := { g.boot with unlocked := true } }) ∧
      (s.dev.responseOk = false → n = s.dev.rf pgLCS 0x050 0 2 + 1 →
        f = (s.dev.setReg pgDBG 0x044 4).setRf pgLCS 0x050 0 2 (min n 3) →
        Runs .unlockCheckResult s (if n = 3 then f.tamper 3 else f))) ∧
    (∀ (k : Fin 65) (o : Nat), o = 0x110 + 16 * k.val → s.dev.arrives a pgDBG o true = some e → e.unlocked pgDBG a →
      (e.debugReaches k = false → ∀ q : Instr, q = .haltReq a k ∨ q = .debugResume a k ∨ q = .debugStep a k →
        Runs q s (e.badWrite pgDBG a o)) ∧
      (e.debugReaches k = true →
        let wrote := fun held bits : Word => e.plain a pgDBG o ((s.dev.reg pgDBG o &&& held) ||| bits)
        let goes := fun (f : Dev) (one : Bool) => if (f.core k).state = .debugHalt then
          f.setCore k { f.core k with state := (f.core k).haltedIn, skipBp := true, stepping := one } else f
        Runs (.haltReq a k) s (wrote 0x10000000 0x80000000) ∧
        Runs (.debugResume a k) s (goes (wrote 0x10000000 0x40000000) false) ∧
        Runs (.debugStep a k) s (goes (wrote 0x90000000 0x20000000) true))) ∧
    (∀ sel : Word, sel = e.reg pgDBG 0x600 →
      let k := fld sel 8 8 - 1
      let n := fld sel 0 6
      let may := fld sel 8 8 ≠ 0 ∧ fld sel 8 8 ≤ 65 ∧ e.debugReaches k = true ∧ (e.core k).state = .debugHalt
      (s.dev.arrives a pgDBG 0x604 true = some e → e.unlocked pgDBG a → ∀ v : Byte,
        let bad := e.badWrite pgDBG a 0x604
        (¬may → Runs (.debugRegAccess a (some v)) s bad) ∧
        (may → bitAt sel 7 = true → Runs (.debugRegAccess a (some v)) s ((e.csrWrite k n v).getD bad)) ∧
        (may → bitAt sel 7 = false → Runs (.debugRegAccess a (some v)) s
          (if n < 32 then e.setCore k ((e.core k).setG n v) else bad))) ∧
      (s.dev.arrives a pgDBG 0x604 false = some e →
        (¬may → Answers (.debugRegAccess a none) s e 0) ∧
        (may → bitAt sel 7 = true → Answers (.debugRegAccess a none) s e (w32 ((e.csrRead k n).getD 0).toNat)) ∧
        (may → bitAt sel 7 = false → Answers (.debugRegAccess a none) s e (if n < 32 then w32 ((e.core k).reg n).toNat else 0))))

/-- The links and the lanes behind them (R522–R524, R531). UPSTREAM_LINK_L0 and DOWNSTREAM_LINK_UP train a link that is down to a width and a
speed it may have, where its reset is released, and bring one in L1 back to L0; DOWNSTREAM_LINK_DOWN takes one down, and ends the operations
behind it; DOWNSTREAM_WAKE, DOWNSTREAM_WAKE_RELEASE and DOWNSTREAM_CLKREQ show in STAT, and CLKREQ_N low brings the link back from L1;
LINK_L1_ENTRY has an idle link enter the state of L1 that ASPM allows; LANE_MARGIN_RUN starts a margining run on a lane in L0, refuses a GO
with STEPS out of range, and leaves the run of a lane that cannot take it; LANE_MARGIN_DONE ends it with its steps and errors;
PHY_RECALIBRATE has a quad calibrated once its lanes carry no symbols. One that finds nothing to do changes nothing. -/
def Obligations.LinkCommandsComplete : Prop :=
  ∀ (s : State) (d : Dev), d = s.dev →
    let back := fun (d : Dev) (p pg o : Nat) => ((d.setRf pg o 4 4 0).idleLanes p false).syncLinks
    (∀ width speed : Fin 16,
      let good := (width.val = 1 ∨ width.val = 2 ∨ width.val = 4) ∧ 1 ≤ speed.val ∧ speed.val ≤ 4
      let train := fun (p pg o : Nat) =>
        (((d.setRf pg o 0 16 (4096 * width + 256 * speed + 1)).trainLanes p width speed).syncLinks)
      Runs (.upstreamLinkL0 width speed) s (if d.links.perst = true then d else if d.linkActive 6 = true then back d 6 pgPUP 0x040
        else if good then train 6 pgPUP 0x040 else d) ∧
      (∀ p : Fin 6, Runs (.downstreamLinkUp p width speed) s (if d.rb (pgPDN + p) 0x040 31 = false then d
        else if d.linkActive p = true then back d p (pgPDN + p) 0x044
        else if good ∧ (width.val = 1 ∨ p.val < 2) then train p (pgPDN + p) 0x044 else d))) ∧
    (∀ p : Fin 6,
      Runs (.downstreamLinkDown p) s (if d.linkActive p = true then
        (((d.setRf (pgPDN + p) 0x044 0 16 0x50).dropLanes p).portLost p).syncLinks else d) ∧
      Runs (.downstreamWake p) s (d.setRf (pgPDN + p) 0x044 16 1 1).syncLinks ∧
      Runs (.downstreamWakeRelease p) s (d.setRf (pgPDN + p) 0x044 16 1 0).syncLinks ∧
      Runs (.downstreamClkreq p false) s (d.setRf (pgPDN + p) 0x044 17 1 0) ∧
      (∀ f : Dev, f = d.setRf (pgPDN + p) 0x044 17 1 1 → Runs (.downstreamClkreq p true) s
        (if f.linkActive p = true ∧ f.pmState p ≠ 0 then back f p (pgPDN + p) 0x044 else f))) ∧
    (∀ (p : Fin 7) (l : Fin 3) (pg o : Nat), (pg, o) = (if p = 6 then (pgPUP, 0x040) else (pgPDN + p.val, 0x044)) →
      Runs (.linkL1Entry p l) s (if d.linkActive p = true ∧ d.pmState p = 0 ∧ d.l1Allowed p l = true ∧ ¬(p = 6 ∧ d.pacer.ptmBusy = true)
        then ((d.setRf pg o 4 4 (1 + l)).idleLanes p true).syncLinks else d)) ∧
    (∀ (l : Fin 16) (o : Nat), o = 0x408 + 16 * l →
      (∀ (a : Agent) (v : Word) (e f : Dev), d.arrives a pgPHY o true = some e → e.unlocked pgPHY a → f = e.plain a pgPHY o v →
        let good := 1 ≤ fld v 20 8 ∧ fld v 20 8 ≤ (if bitAt v 30 then 40 else 32)
        let takes := f.links.margin.contains l.val = false ∧ f.laneIdle l = false ∧ f.pmState (Dev.lanePort l) = 0
        let g : Dev := { f with links := { f.links with margin := l :: f.links.margin } }
        (bitAt v 31 = true → ¬good → Runs (.laneMarginRun a l v) s (e.badWrite pgPHY a o)) ∧
        (bitAt v 31 = true → good → takes → Runs (.laneMarginRun a l v) s (g.setReg pgPHY o (f.reg pgPHY o &&& 0x6FF00000))) ∧
        (bitAt v 31 = false ∨ (good ∧ ¬takes) → Runs (.laneMarginRun a l v) s f)) ∧
      (∀ (steps errors : Fin 256) (g : Dev),
        (d.links.margin.contains l.val = false → Runs (.laneMarginDone l steps errors) s d) ∧
        (d.links.margin.contains l.val = true →
          g = { d with links := { d.links with margin := d.links.margin.filter (· ≠ l) } } → Runs (.laneMarginDone l steps errors) s
            (g.setReg pgPHY o ((d.reg pgPHY o &&& 0x6FF00000) ||| w32 (fput 31 1 1 + fput 28 1 (if 4 ≤ errors.val then 1 else 0) +
              fput 12 8 (min steps.val (fld (d.reg pgPHY o) 20 8)) + min errors.val 4)))))) ∧
    (∀ (a : Agent) (q : Fin 4) (e : Dev), d.arrives a pgPHY (0x100 + 32 * q) true = some e → e.unlocked pgPHY a →
      Runs (.phyRecalibrate a q) s { e with links := { e.links with zcal := q :: e.links.zcal.filter (· ≠ q) } }.zcalPending)

/-- The host's link (R511, R516–R519, R528, R529, R559). CONFIG_REQUEST reads or writes its word byte by byte, is retried by the coprocessor
function before CFG_READY, is refused where no function is, and can reset the function, or take a downstream link down.
HOST_COMPLETION_RECEIVED goes to the engine, the mover, the core or the debug port that asked, and one that none asked for, or of another
length, changes nothing; UPSTREAM_COMPLETION_TIMEOUT ends the access. HOST_REQUEST_THROUGH_SWITCH reaches the registers through BAR0, the
window of BAR2, the table and memory through BAR4, or a downstream port, and one that names nothing is refused. DOWNSTREAM_COMPLETION
passes, over the upstream port where ACS says so. PCIE_ERROR_DETECTED shows in AER and as a fault event. -/
def Obligations.HostLinkCommandsComplete : Prop :=
  ∀ (s : State) (d : Dev), d = s.dev →
    (∀ (fn : CfgFn) (reg : Fin 1024) (n : Nat) (e : Dev) (wr : Option (Word × BitVec 4)), e = d.linkWake 6 →
      Runs (.configRequest .absent reg wr) s { d with cpl := .unsupported, resp := [] } ∧
      (e.rb pgKTL 0x044 31 = false → Runs (.configRequest .coprocessor reg wr) s { e with cpl := .retry, resp := [] }) ∧
      (((fn = .upstream ∧ n = 0) ∨ (fn = .coprocessor ∧ n = 1 ∧ e.rb pgKTL 0x044 31 = true) ∨ (∃ p, fn = .downstream p ∧ n = 2 + p)) →
        Runs (.configRequest fn reg none) s { e with cpl := .success, resp := bytesWords (leBytes 4 (e.cfgWord n reg).toNat) 4 } ∧
        (∀ (v : Word) (be : BitVec 4), cfgRow n reg = none →
          Runs (.configRequest fn reg (some (v, be))) s { e with cpl := .success, resp := [] }) ∧
        (∀ (v m old w : Word) (be : BitVec 4) (r : CfgReg), cfgRow n reg = some r → m = w32 (byteMask be) → old = e.cfgHeld n reg →
          w = ((old &&& ~~~(w32 r.rw &&& m)) ||| (v &&& (w32 r.rw &&& m))) &&& ~~~(v &&& w32 r.w1c &&& m) →
          let link := 2 ≤ n ∧ reg = 0x18
          let f := e.setCfg n reg (if n = 1 ∧ reg = 0x16 then withFld w 15 1 0 else if link then withFld w 5 1 0 else w)
          let g := if n = 1 ∧ reg = 0x16 ∧ bitAt v 15 = true ∧ bitAt m 15 = true then f.flr
            else if (link ∧ bitAt w 4 = true ∧ bitAt old 4 = false) ∨ (2 ≤ n ∧ reg = 15 ∧ bitAt w 22 = true ∧ bitAt old 22 = false)
            then f.linkDrop (n - 2) else f
          Runs (.configRequest fn reg (some (v, be))) s { g with cpl := .success, resp := [] }))) ∧
    (∀ (a : Agent) (sub : Fin 256) (r : HostReply) (q : Instr),
      q = .hostCompletionReceived a sub r ∨ (q = .upstreamCompletionTimeout a sub ∧ r = { status := .timeout, data := [] }) →
      let err : Option PcieError := match r.status with
        | .ok => none
        | .poisoned => some .poisonedTlp
        | .refused => some .unsupportedRequest
        | .aborted => some .completerAbort
        | .timeout => some .completionTimeout
      let ends := fun j : Nat => match err with
        | none => d.quiesceDone j
        | some x => (d.quiesceDone j).pcieError 6 x
      let fits := fun n : Nat => r.status ≠ .ok ∨ r.data.length = n
      (∀ (i : Nat) (x : Ctx), 0x50 ≤ a.val → a.val < 0x60 → i = (a - 0x50) * 256 + sub → x = d.ctx i →
        (d.gate (ceDom (a - 0x50)) ≠ .ok → Runs q s d) ∧
        (d.gate (ceDom (a - 0x50)) = .ok → d.fetchesHost i = true →
          (fits 32 ∧ d.activeSub (i / 256) = some i → Runs q s ((ends i).fetchComplete (i / 256) (some r))) ∧
          (¬(fits 32 ∧ d.activeSub (i / 256) = some i) → Runs q s d)) ∧
        (d.gate (ceDom (a - 0x50)) = .ok → d.fetchesHost i = false → x.hostReq = none → Runs q s d) ∧
        (∀ at_ n : Nat, d.gate (ceDom (a - 0x50)) = .ok → d.fetchesHost i = false → x.hostReq = some (at_, n) →
          (x.phase ≠ .flush → ¬fits n → Runs q s d) ∧
          (x.phase ≠ .flush → fits n → x.ccw.op = 0x09 ∨ x.ccw.op = 0x0A → Runs q s ((ends i).conditionHost i (some r))) ∧
          (x.phase = .flush ∨ (fits n ∧ x.ccw.op ≠ 0x09 ∧ x.ccw.op ≠ 0x0A) →
            let g := (ends i).setCtx i { x with hostReq := none }
            let b := g.dropBurst i
            let y := (b.ctx i).ccw
            let res := if x.phase = .flush then 0 else x.remaining
            (r.status = .ok → x.phase = .flush → Runs q s (g.ccwDone i)) ∧
            (r.status = .ok → x.phase ≠ .flush → Runs q s (g.setCtx i { g.ctx i with hostGot := some (at_, r.data) })) ∧
            (r.status = .poisoned → Runs q s ((if x.phase = .running ∧ y.op ≠ 0x40 ∧ y.op ≠ 0x43 ∧ (y.idal = false ∨ (b.ctx i).area.left ≠ 0)
              then b.inputPoisoned i else b).raiseExc i xDATA 0 res true)) ∧
            (r.status ≠ .ok → r.status ≠ .poisoned → Runs q s (b.raiseExc i xADDRESS 0x8009 res true))))) ∧
      (∀ m : Nat, 0x60 ≤ a.val → a.val < 0x70 → m = a - 0x60 →
        (d.gate (moverDom (m / 2)) ≠ .ok ∨ (d.mover m).cur = none → Runs q s d) ∧
        (∀ x : MvDesc, d.gate (moverDom (m / 2)) = .ok → (d.mover m).cur = some x →
          (x.hostReq = none → Runs q s d) ∧
          (∀ at_ n : Nat, x.hostReq = some (at_, n) →
            let y := { x with hostReq := none, flushTo := none }
            let put := fun z : MvDesc => (ends (4096 + m)).setMover m { d.mover m with cur := some z }
            (x.flushTo = none → ¬fits n → Runs q s d) ∧
            (x.flushTo ≠ none ∨ fits n →
              (r.status = .ok → ∀ k, x.flushTo = some k → Runs q s (put { y with acked := k })) ∧
              (r.status = .ok → x.flushTo = none → Runs q s (put { y with hostGot := some (at_, r.data) })) ∧
              (r.status = .poisoned → Runs q s (put { y with err := 8 })) ∧
              (r.status ≠ .ok → r.status ≠ .poisoned → Runs q s (put { y with err := 7 })))))) ∧
      (∀ k : Nat, 1 ≤ a.val → a.val ≤ 0x41 → k = a - 1 →
        (d.gate (coreDomain k) ≠ .ok ∨ (d.core k).pend.find? (·.out) = none → Runs q s d) ∧
        (∀ x : PendLoad, d.gate (coreDomain k) = .ok → (d.core k).pend.find? (·.out) = some x →
          (x.host = true ∧ fits x.dests.length → Runs q s (((ends (4200 + k)).setPend k (x.answered r)).atBoundary k)) ∧
          (¬(x.host = true ∧ fits x.dests.length) → Runs q s d))) ∧
      (a.val = agDebug →
        let c := d.countAccess (agentTag agDebug) 0 false d.dap.addr 4
        let asks := c.dap.status = dapBusy ∧ c.dap.op = 0 ∧ c.dbgAccess = 2 ∧ rangeOf c.dap.addr = .hostwin ∧ r.data.length = 4
        (asks → r.status = .ok → Runs q s { c with dap := { c.dap with status := dapOk, data := w32 (leNat r.data) } }) ∧
        (asks → r.status ≠ .ok → Runs q s { c with dap := { c.dap with status := dapError } }) ∧
        (¬asks → Runs q s d)) ∧
      (a.val = 0 ∨ (0x41 < a.val ∧ a.val < 0x50) ∨ (0x70 ≤ a.val ∧ a.val ≠ agDebug) → Runs q s d)) ∧
    (∀ (addr : BitVec 64) (q : MemReq → Instr), q = .hostRequestThroughSwitch addr →
      let h := d.faults.halted
      let tells := fun (f : Dev) (c : Cpl) (ws : List Word) => { f with cpl := c, resp := ws }
      let tlp := fun (f : Dev) (heads n : Nat) => (f.count 1 2 (agentTag agHost) heads).count 1 3 (agentTag agHost) ((n + 31) / 32)
      (∀ o : Nat, d.busRoute addr.toNat = .bar4 o →
        (∀ n, Runs (q (.read n)) s (d.hostRead o n)) ∧ (∀ bs ep, Runs (q (.write bs ep)) s (d.hostWrite o bs ep))) ∧
      (∀ o : Nat, d.busRoute addr.toNat = .bar2 o → (∀ n, Runs (q (.read n)) s (d.bar2Read o n)) ∧
        (∀ bs ep, Runs (q (.write bs ep)) s (if h then d else tells (d.badWrite pgHIF agHost (o % 4096)) .success []))) ∧
      (∀ o : Nat, d.busRoute addr.toNat = .bar0 o →
        (∀ n : Nat, n ≠ 4 ∨ o % 4 ≠ 0 → Runs (q (.read n)) s (if h then tells d .abort [] else tells (tlp d 2 0) .unsupported [])) ∧
        (∀ bs ep, h = true → Runs (q (.write bs ep)) s (tells d .success [])) ∧
        (∀ bs ep, h = false → bs.length ≠ 4 ∨ o % 4 ≠ 0 ∨ ep = true →
          Runs (q (.write bs ep)) s (tells (tlp d 1 bs.length) .success [])) ∧
        (o % 4 = 0 → 0x60000 ≤ o →
          Runs (q (.read 4)) s (if h then tells d .abort [] else tells (tlp (d.badWrite pgDEV agHost (o % 4096)) 2 4) .success [0]) ∧
          ∀ bs, h = false → bs.length = 4 →
            Runs (q (.write bs false)) s (tells (tlp (d.badWrite pgDEV agHost (o % 4096)) 1 4) .success [])) ∧
        (o % 4 = 0 → o < 0x60000 → ∀ p w : Nat, p = o / 4096 → w = o % 4096 →
          Runs (q (.read 4)) s (match d.regRead agHost p w with
            | .ok v e => tells e .success (bytesWords (leBytes 4 v.toNat) 4)
            | .wait e => d.holds e (.bus addr.toNat (.read 4))
            | .abort e => tells e .abort []
            | .none => d) ∧
          ∀ bs, h = false → bs.length = 4 → Runs (q (.write bs false)) s (match d.regWrite agHost p w (w32 (leNat bs)) with
            | .ok _ e => tells e .success []
            | .wait e => d.holds e (.bus addr.toNat (.write bs false))
            | .abort e => tells e .success []
            | .none => d))) ∧
      (∀ (p n : Nat) (r : MemReq) (e : Dev), d.busRoute addr.toNat = .port p → e = d.linkWake 6 →
        n = (match r with | .read _ => 0 | .write bs _ => bs.length) →
        let k := e.knockEach [3, 8 + p]
        let c := k.2.linkWake p
        (e.faults.halted = true → Runs (q r) s (tells e .abort [])) ∧
        (e.faults.halted = false → k.1 = true → Runs (q r) s (e.holds k.2 (.port p (agentTag agHost) n))) ∧
        (e.faults.halted = false → k.1 = false → k.2.fencedOn [3, 8 + p] = true → Runs (q r) s (tells k.2 .abort [])) ∧
        (e.faults.halted = false → k.1 = false → k.2.fencedOn [3, 8 + p] = false →
          (e.linkActive p = false → Runs (q r) s (tells k.2 .unsupported [])) ∧
          (e.linkActive p = true → Runs (q r) s
            (tells ((c.count 2 2 (agentTag agHost) 1).count 2 3 (agentTag agHost) ((n + 31) / 32)) .forwarded [])))) ∧
      (∀ (r : MemReq) (o : Nat), d.busRoute addr.toNat = .aperture o → Runs (q r) s (tells d .unsupported [])) ∧
      (∀ r : MemReq, d.busRoute addr.toNat = .other → Runs (q r) s (tells d (if h then .abort else .unsupported) []))) ∧
    (∀ (p : Fin 6) (dest : Option (Fin 6)) (n : Nat) (out : Nat),
      out = (match dest with
        | some q => if q = p ∨ d.acs p 3 = true then 6 else q.val
        | none => 6) →
      (d.linkActive p = true → d.faults.halted = false → Runs (.downstreamCompletion p dest n) s
        { (((d.linkWake p).linkWake out).count 2 2 tagOwn 1).count 2 3 tagOwn ((n + 31) / 32) with cpl := .forwarded, resp := [] }) ∧
      (d.linkActive p = false ∨ d.faults.halted = true → Runs (.downstreamCompletion p dest n) s d)) ∧
    (∀ (p : Fin 7) (x : PcieError) (fn pg dom : Nat) (u : Nat → Nat → FaultEv),
      (fn, pg, dom) = (if p = 6 then (0, pgPUP, 3) else (2 + p.val, pgPDN + p.val, 8 + p.val)) →
      (∀ k b, u k b = { kind := k, page := pg, source := p, info := w32 (2 ^ b), unit := some dom }) →
      let sets := fun b : Nat => d.aerSet fn 0x41 b
      let fatal := fun b : Nat => bitAt (d.cfgHeld fn 0x43) b
      let loud := fun b : Nat => (sets b).aerSet fn 0x16 (if fatal b then 18 else 17)
      (∀ b : Nat, (x, b) = (.receiver, 0) ∨ (x, b) = (.badTlp, 6) ∨ (x, b) = (.badDllp, 7) ∨ (x, b) = (.replayRollover, 8) ∨
          (x, b) = (.replayTimer, 12) →
        Runs (.pcieErrorDetected p x) s (((d.aerSet fn 0x44 b).aerSet fn 0x16 16).raiseFault (u 17 b))) ∧
      (∀ b : Nat, (x, b) = (.malformedTlp, 18) ∨ (x, b) = (.receiverOverflow, 17) ∨ (x, b) = (.acsViolation, 21) →
        Runs (.pcieErrorDetected p x) s ((loud b).raiseFault (if p = 6 ∧ x ≠ .acsViolation
          then { kind := 30, page := pgHUB, source := 6, info := w32 (2 ^ b), unit := none } else u 18 b))) ∧
      (∀ b : Nat, (x, b) = (.poisonedTlp, 12) ∨ (x, b) = (.completionTimeout, 14) ∨ (x, b) = (.completerAbort, 15) ∨
          (x, b) = (.unexpectedCompletion, 16) ∨ (x, b) = (.unsupportedRequest, 20) →
        (fatal b = true → Runs (.pcieErrorDetected p x) s ((loud b).raiseFault (u 18 b))) ∧
        (fatal b = false →
          let f := (d.aerSet fn 0x44 13).aerSet fn 0x16 16
          Runs (.pcieErrorDetected p x) s ((if bitAt (f.cfgHeld fn 0x45) 13 then f else f.aerSet fn 0x41 b).raiseFault (u 17 13)))))

/-- Two instruction commands with the same core and the same words are the same command: no bit of an operand is dropped by an encoding, and
no two of them share a word (R330). -/
def Obligations.CoreEncodingsAreDistinct : Prop :=
  ∀ (i j : Instr) (x : Nat × List (BitVec 16)), coreWords i = some x → coreWords j = some x → i = j

/-- The words of an instruction command have the length that their first word gives, and they raise ILLEGAL by their encoding just where
an operand is one that R330 leaves undefined: a shift by 0, the condition 15, a pair named by an odd register, the loop level 3. -/
def Obligations.CoreWordsAreLegal : Prop :=
  ∀ (i : Instr) (k : Nat) (w e : BitVec 16) (l : List (BitVec 16)), coreWords i = some (k, w :: l) → e = l.headD 0 →
    lengthOf w = 2 * (1 + l.length) ∧ w.toNat ≠ 0 ∧
    (illegalWord w e = true ↔
      (∃ (c : Fin 65) (r : Fin 32), i = .coreShl c r 0 ∨ i = .coreShr c r 0 ∨ i = .coreAsr c r 0 ∨ i = .coreRol c r 0 ∨ i = .coreRor c r 0 ∨
        i = .coreRcl c r 0 ∨ i = .coreRcr c r 0) ∨
      (∃ (c : Fin 65) (off : BitVec 8), i = .coreBcc c 15 off) ∨
      (∃ (c : Fin 65) (r : Fin 32) (a : BitVec 16), r.val % 2 = 1 ∧ (i = .coreLda c r true a ∨ i = .coreSta c r true a)) ∨
      (∃ (c : Fin 65) (n : LoopCount) (a : BitVec 16), i = .coreLoop c 3 n a))

/-- Trap and interrupt entry (R348), of a core whose stack lies in its local RAM, where no word is poisoned and no injection is armed: p15 falls by
4; the frame holds FLAGS, 0 and the return address, low byte first; every other byte of memory is as it was; I is clear, and the PC is at the
vector. -/
def Obligations.EntryBuildsTheFrame : Prop :=
  ∀ (d : Dev) (k : Fin 65) (ret vec : BitVec 16) (c : Core) (sp a : Nat), c = d.core k → c.state = .running → Memory.wf d.mem →
    sp = (c.pair 15 - 4).toNat → sp + 3 < 0x8000 → a = coreLram k + sp → (∀ x, x < 4 → d.poisoned (a + x) = false) →
    d.rf pgMEM 0x02C 4 2 = 0 → d.rf pgKTL 0x02C 4 2 = 0 →
    ∃ g : Dev, d.entry k ret vec = some g ∧ g.peek a 4 = [c.flags, 0, ret.truncate 8, (ret >>> 8).truncate 8] ∧
      (∀ x, x < a ∨ a + 4 ≤ x → memByte g.mem x = memByte d.mem x) ∧
      g.core k = { c.setPair 15 (c.pair 15 - 4) with i := false, pc := vec, noInt := false } ∧
      g.regs = d.regs ∧ g.poison = d.poison ∧ ∀ j, j ≠ k.val → g.core j = d.core j

/-- A statistics counter holds at its maximum, its SAT bit is set in the step that reaches the maximum, and no other register
changes (R75, R78). -/
def Obligations.CountersSaturate : Prop :=
  ∀ (d : Dev) (p o n so sb : Nat), smSorted none d.regs = true → 0 < n → sb < 32 → rk p so ≠ rk p o →
    ((d.bump p o n so sb).reg p o).toNat = min ((d.reg p o).toNat + n) 0xFFFFFFFF ∧
    (0xFFFFFFFF ≤ (d.reg p o).toNat + n → (d.bump p o n so sb).reg p so = d.reg p so ||| BitVec.ofNat 32 (2 ^ sb)) ∧
    ((d.reg p o).toNat + n < 0xFFFFFFFF → (d.bump p o n so sb).reg p so = d.reg p so) ∧
    ∀ q x, rk q x ≠ rk p o → rk q x ≠ rk p so → (d.bump p o n so sb).reg q x = d.reg q x

/-- DS32 and DL32 durations convert exactly (R30), and a target time is reached where the signed difference from now is not negative, so any less than
2^31 s, that is 2^63 units, in the past is, across the wrap as well (R32). -/
def Obligations.TimesConvertAndAreReached : Prop :=
  (∀ o : Word, (ds32Dur o).toNat = o.toNat * 2 ^ 8 ∧ (dl32Dur o).toNat = o.toNat * 2 ^ 24) ∧
  (∀ now t : DT, reached now t = true ↔ 0 ≤ (now - t).toInt) ∧
  (∀ (t : DT) (ago : Nat), ago < 2 ^ 63 → reached (t + BitVec.ofNat 64 ago) t = true)

/-- A write of PCR.RATE_ADJ outside its range is discarded as a whole, with the page's BAD_WRITE event (R37, R6). -/
def Obligations.RateOutOfRangeIsDiscarded : Prop :=
  ∀ (s : State) (a : Agent) (v : Word) (e : Dev), s.dev.arrives a pgPCR 0x050 true = some e → e.unlocked pgPCR a →
    (v.toInt < -1099511627 ∨ 1099511627 < v.toInt) →
    Runs (.registerWrite a ⟨pgPCR, by decide⟩ 0x14 v) s (e.badWrite pgPCR a 0x050) ∧
    bitAt ((e.badWrite pgPCR a 0x050).reg pgPCR 0x010) 0 = true

/-- A wake list of 512 entries refuses a further insertion, and WL_REFUSED counts it: a subchannel's wait ends with PROGRAM_CHECK and DEVSTAT 0x200, and
a core's compare sets its refusal flag (R55). -/
def Obligations.FullWakeListRefuses : Prop :=
  ∀ (d f : Dev), 512 ≤ d.wl.length → f = d.bump pgPCR 0x078 1 0x084 1 →
    (∀ (tag : Nat) (e : WlEntry), reached d.now e.target = false → d.wlInsert tag e = (.refused, f)) ∧
    (∀ (i : Nat) (t : DT) (c : Cause) (g : Dev → Dev), reached d.now t = false →
      d.waitTime i t c g = f.raiseExc i xPROGRAM 0x200 (f.ctx i).ccw.count) ∧
    (∀ (e : Dev) (k : Fin 65) (c : Core), c = e.core k → d = (e.wlRemove (e.coreTag k) .core k).setCore k { c with armed := true, fired := false } →
      d.core k = { c with armed := true, fired := false } → reached d.now c.pcmp = false →
      e.coreArm k = f.setCore k { f.core k with armed := false, refused := true })
end

