-- ==== Sys2Proof/Laws/Access.lean ====
section
/-!
SUPPORT. What a register access does once it has arrived: one lemma for a write, one for a read, and the ways a write of a
block register ends.
-/

namespace Sys2Proof.Machine

/-- Counting an event changes the ledger alone. -/
theorem count_eq (d : Dev) (r k t n) : d.count r k t n = { d with ledger := (d.count r k t n).ledger } := by
  unfold Dev.count; split <;> rfl
/-- Counting the transfers of segments one after another changes the ledger alone. -/
theorem counts_eq (l : List Nat) (f : Nat → Nat × Nat) (t n : Nat) (d : Dev) :
    l.foldl (fun d k => d.count (f k).1 (f k).2 t n) d =
      { d with ledger := (l.foldl (fun d k => d.count (f k).1 (f k).2 t n) d).ledger } := by
  induction l generalizing d with
  | nil => rfl
  | cons k l ih => rw [List.foldl_cons, ih, count_eq]
/-- Counting the transfers of a path changes the ledger and the bridge's counters alone. -/
theorem countHub_eq (d : Dev) (t s e l w n) :
    d.countHub t s e l w n = { d with ledger := (d.countHub t s e l w n).ledger, wide := (d.countHub t s e l w n).wide } := by
  unfold Dev.countHub
  dsimp only
  split
  · rw [counts_eq]
  · unfold Dev.wideAdd; rw [count_eq, counts_eq]
/-- So does counting an access. -/
theorem countReg_eq (d : Dev) (a p o w) :
    d.countReg a p o w = { d with ledger := (d.countReg a p o w).ledger, wide := (d.countReg a p o w).wide } := by
  unfold Dev.countReg Dev.countTlp
  dsimp only
  split
  · rw [count_eq, count_eq, countHub_eq, count_eq]
  · rw [countHub_eq, count_eq]
/-- It changes no agent's tag. -/
@[simp] theorem countReg_tagOf (d : Dev) (a p o w b) : (d.countReg a p o w).tagOf b = d.tagOf b := by
  rw [countReg_eq]; rfl
/-- A write that arrives is the register's own write. -/
theorem regWrite_arrives {d e : Dev} {a p o : Nat} {v : Word} (h : d.arrives a p o true = some e) :
    d.regWrite a p o v = .ok 0 (e.writeReg a (e.tagOf a) p o v) := by
  unfold Dev.arrives at h
  unfold Dev.regWrite
  by_cases h1 : (!d.canAccess a) = true ∨ a = agDebug ∧ (!d.debugMay p o) = true
  · rw [if_pos h1] at h; cases h
  · rw [if_neg h1] at h ⊢
    unfold Dev.regPut
    rcases hr : d.regReach a p o true with ⟨g, e'⟩
    rw [hr] at h
    cases g <;> simp only [reduceCtorEq] at h ⊢
    split at h
    · cases h
    · rename_i h2
      cases h
      rw [if_neg h2, countReg_tagOf]
/-- A write command whose access arrives. -/
theorem wr_arrives {d e : Dev} {a p o : Nat} {v : Word} (h : d.arrives a p o true = some e) :
    d.wr a p o v = e.writeReg a (e.tagOf a) p o v := by
  unfold Dev.wr; rw [regWrite_arrives h]
/-- A read that arrives is the register's own read. -/
theorem regRead_arrives {d e : Dev} {a p o : Nat} (h : d.arrives a p o false = some e) (hq : ¬ (p = pgHWT ∧ o = 0x040))
    (hr : (regRow p o).isSome = true) :
    d.regRead a p o = .ok (e.readReg a (e.tagOf a) p o).1 (e.readReg a (e.tagOf a) p o).2 := by
  unfold Dev.arrives at h
  unfold Dev.regRead
  by_cases h1 : (!d.canAccess a) = true ∨ a = agDebug ∧ (!d.debugMay p o) = true
  · rw [if_pos h1] at h; cases h
  · rw [if_neg h1] at h ⊢
    rcases hr' : d.regReach a p o false with ⟨g, e'⟩
    rw [hr'] at h
    cases g <;> simp only [reduceCtorEq] at h ⊢
    split at h
    · cases h
    · rename_i h2
      cases h
      have h3 : ¬ (p = pgHWT ∧ o = 0x040 ∧ (smFind e'.quiesce a).isSome = true) := fun x => hq ⟨x.1, x.2.1⟩
      have h4 : (regRow p o).isNone = false := by cases h5 : regRow p o <;> simp_all
      simp only [if_neg h2, if_neg h3, if_neg hq, h4, countReg_tagOf]
      rfl
/-- A read command whose access arrives. -/
theorem rd_arrives {d e : Dev} {a p o : Nat} (h : d.arrives a p o false = some e) (hq : ¬ (p = pgHWT ∧ o = 0x040))
    (hr : (regRow p o).isSome = true) :
    d.rd a p o = { (e.readReg a (e.tagOf a) p o).2 with cpl := .success, resp := [(e.readReg a (e.tagOf a) p o).1] } := by
  unfold Dev.rd
  rw [regRead_arrives h hq hr]

/-- A write of a block register that the page's lock does not hold is the block's own write, or BAD_WRITE (R538). -/
theorem writeReg_block {d : Dev} {a tag p o : Nat} {v : Word} {r : RegRow} (hr : regRow p o = some r)
    (hw : ¬ (r.rw = 0 ∧ r.w1c = 0 ∧ r.wo = 0)) (hl : d.unlocked p a) (ho : ¬ o < 0x040) :
    d.writeReg a tag p o v = (d.writeBlock a tag p o v).getD (d.badWrite p a o) := by
  unfold Dev.writeReg
  simp only [hr]
  have h2 : ¬ (d.rb p 0x03C 0 = true ∧ a ≠ agKettle ∧ r.rw ≠ 0 ∧ lockedOff o = true) := by
    rintro ⟨x, y, _⟩
    rcases hl with h | h
    · rw [h] at x; cases x
    · exact y h
  rw [if_neg hw, if_neg h2, if_neg ho]
  cases d.writeBlock a tag p o v <;> rfl

/-- A write of a header register that the page's lock does not hold. -/
theorem writeReg_header {d : Dev} {a tag p o : Nat} {v : Word} {r : RegRow} (hr : regRow p o = some r)
    (hw : ¬ (r.rw = 0 ∧ r.w1c = 0 ∧ r.wo = 0)) (hl : d.unlocked p a) (ho : o < 0x040) :
    d.writeReg a tag p o v = (d.writeHeader a p o v).getD (d.badWrite p a o) := by
  unfold Dev.writeReg
  simp only [hr]
  have h2 : ¬ (d.rb p 0x03C 0 = true ∧ a ≠ agKettle ∧ r.rw ≠ 0 ∧ lockedOff o = true) := by
    rintro ⟨x, y, _⟩
    rcases hl with h | h
    · rw [h] at x; cases x
    · exact y h
  rw [if_neg hw, if_neg h2, if_pos ho]
  cases d.writeHeader a p o v <;> rfl

end Sys2Proof.Machine
end

