-- ==== Sys2Proof/Laws/Maps.lean ====
section
/-!
SUPPORT. Sparse maps: what a lookup finds after a put, an erase or a set, and that each keeps the canonical form.
-/

namespace Sys2Proof.Machine

variable {α : Type}

/-- A put key is found, whatever the list. -/
@[simp] theorem smFind_smPut_same (m : SMap α) (k : Nat) (v : α) : smFind (smPut m k v) k = some v := by
  induction m with
  | nil => simp [smPut, smFind]
  | cons e m ih =>
    obtain ⟨k', v'⟩ := e
    unfold smPut
    split
    · simp [smFind]
    · split
      · simp [smFind]
      · rename_i h1 h2
        simp only [smFind, if_neg h1, if_neg h2, ih]

/-- A put changes no other key's lookup, whatever the list. -/
theorem smFind_smPut_other (m : SMap α) {j k : Nat} (v : α) (h : j ≠ k) : smFind (smPut m k v) j = smFind m j := by
  induction m with
  | nil => simp [smPut, smFind, h]
  | cons e m ih =>
    obtain ⟨k', v'⟩ := e
    unfold smPut
    split
    · rename_i h1
      subst h1
      simp [smFind, h]
    · split
      · rename_i h1 h2
        simp only [smFind, if_neg h]
        by_cases h3 : j < k
        · rw [if_pos h3, if_neg (by omega), if_pos (by omega)]
        · rw [if_neg h3]
      · simp only [smFind, ih]

/-- A set to a value other than the default is read back, whatever the list. -/
theorem smGet_smSet_of_ne [DecidableEq α] (m : SMap α) (k : Nat) {v d : α} (h : v ≠ d) : smGet (smSet m k v d) k d = v := by
  simp [smGet, smSet, h]

/-- Every key of a list sorted above a bound is above it. -/
theorem smFind_none_of_sorted {m : SMap α} {b j : Nat} (h : smSorted (some b) m = true) (hj : j ≤ b) : smFind m j = none := by
  cases m with
  | nil => rfl
  | cons e m =>
    obtain ⟨k', v'⟩ := e
    simp only [smSorted, Bool.and_eq_true, decide_eq_true_eq] at h
    unfold smFind
    rw [if_neg (by omega), if_pos (by omega)]

/-- A bound may be lowered. -/
theorem smSorted_weaken {m : SMap α} {b c : Nat} (h : smSorted (some b) m = true) (hc : c ≤ b) : smSorted (some c) m = true := by
  cases m with
  | nil => rfl
  | cons e m =>
    obtain ⟨k', v'⟩ := e
    simp only [smSorted, Bool.and_eq_true, decide_eq_true_eq] at h ⊢
    exact ⟨by omega, h.2⟩

/-- A bound may be dropped. -/
theorem smSorted_drop {m : SMap α} {o : Option Nat} (h : smSorted o m = true) : smSorted none m = true := by
  cases m with
  | nil => rfl
  | cons e m =>
    obtain ⟨k', v'⟩ := e
    cases o with
    | none => exact h
    | some b =>
      simp only [smSorted, Bool.and_eq_true] at h ⊢
      exact h.2

/-- What follows the head is sorted above it. -/
theorem smSorted_tail {k : Nat} {v : α} {m : SMap α} {o : Option Nat} (h : smSorted o ((k, v) :: m) = true) :
    smSorted (some k) m = true := by
  cases o with
  | none => exact h
  | some b =>
    simp only [smSorted, Bool.and_eq_true] at h
    exact h.2

/-- In a sorted list an erased key is not found, and every other key is found as before. -/
theorem smFind_smErase {m : SMap α} {o : Option Nat} (h : smSorted o m = true) (j k : Nat) :
    smFind (smErase m k) j = if j = k then none else smFind m j := by
  induction m generalizing o with
  | nil => simp [smErase, smFind]
  | cons e m ih =>
    obtain ⟨k', v'⟩ := e
    have ht := smSorted_tail h
    unfold smErase
    split
    · rename_i h1
      subst h1
      by_cases h2 : j = k
      · subst h2
        rw [if_pos rfl, smFind_none_of_sorted ht (Nat.le_refl j)]
      · rw [if_neg h2]
        conv => rhs; unfold smFind
        rw [if_neg h2]
        split
        · rename_i h3
          exact smFind_none_of_sorted ht (Nat.le_of_lt h3)
        · rfl
    · split
      · rename_i h1 h2
        by_cases h3 : j = k
        · subst h3
          rw [if_pos rfl]
          unfold smFind
          rw [if_neg h1, if_pos h2]
        · rw [if_neg h3]
      · rename_i h1 h2
        unfold smFind
        rw [ih ht]
        by_cases h3 : j = k
        · subst h3
          rw [if_neg h1, if_neg h2, if_pos rfl, if_pos rfl]
        · rw [if_neg h3, if_neg h3]

/-- What a key reads as after a set, in a sorted list. -/
theorem smGet_smSet [DecidableEq α] {m : SMap α} {o : Option Nat} (h : smSorted o m = true) (j k : Nat) (v d : α) :
    smGet (smSet m k v d) j d = if j = k then v else smGet m j d := by
  unfold smGet smSet
  by_cases hv : v = d
  · rw [if_pos hv, smFind_smErase h]
    by_cases hj : j = k
    · simp [hj, hv]
    · simp [hj]
  · rw [if_neg hv]
    by_cases hj : j = k
    · subst hj
      simp
    · rw [smFind_smPut_other m v hj, if_neg hj]

/-- A put keeps a list sorted. -/
theorem smSorted_smPut {m : SMap α} {o : Option Nat} {k : Nat} {v : α} (h : smSorted o m = true) (hk : ∀ b, o = some b → b < k) :
    smSorted o (smPut m k v) = true := by
  induction m generalizing o with
  | nil => cases o <;> simp [smPut, smSorted] <;> exact hk _ rfl
  | cons e m ih =>
    obtain ⟨k', v'⟩ := e
    have ht := smSorted_tail h
    unfold smPut
    split
    · rename_i h1
      subst h1
      cases o with
      | none => exact ht
      | some b => simp only [smSorted, Bool.and_eq_true, decide_eq_true_eq]; exact ⟨hk b rfl, ht⟩
    · split
      · rename_i h1 h2
        have h3 : smSorted (some k) ((k', v') :: m) = true := by
          simp only [smSorted, Bool.and_eq_true, decide_eq_true_eq]
          exact ⟨h2, ht⟩
        cases o with
        | none => exact h3
        | some b => simp only [smSorted, Bool.and_eq_true, decide_eq_true_eq] at h3 ⊢; exact ⟨hk b rfl, h3⟩
      · rename_i h1 h2
        have h3 := ih (o := some k') ht (by intro b hb; cases hb; omega)
        cases o with
        | none => exact h3
        | some b =>
          simp only [smSorted, Bool.and_eq_true, decide_eq_true_eq] at h ⊢
          exact ⟨h.1, h3⟩

/-- An erase keeps a list sorted. -/
theorem smSorted_smErase {m : SMap α} {o : Option Nat} {k : Nat} (h : smSorted o m = true) : smSorted o (smErase m k) = true := by
  induction m generalizing o with
  | nil => cases o <;> rfl
  | cons e m ih =>
    obtain ⟨k', v'⟩ := e
    have ht := smSorted_tail h
    unfold smErase
    split
    · cases o with
      | none => exact smSorted_drop ht
      | some b =>
        simp only [smSorted, Bool.and_eq_true, decide_eq_true_eq] at h
        exact smSorted_weaken ht (Nat.le_of_lt h.1)
    · split
      · exact h
      · have h3 := ih ht
        cases o with
        | none => exact h3
        | some b =>
          simp only [smSorted, Bool.and_eq_true, decide_eq_true_eq] at h ⊢
          exact ⟨h.1, h3⟩

/-- The entries after a put are the one put and entries of before. -/
theorem mem_smPut {m : SMap α} {k : Nat} {v : α} {e : Nat × α} (h : e ∈ smPut m k v) : e = (k, v) ∨ e ∈ m := by
  induction m with
  | nil => simpa [smPut] using h
  | cons x m ih =>
    obtain ⟨k', v'⟩ := x
    unfold smPut at h
    split at h
    · rcases List.mem_cons.mp h with h | h
      · exact .inl h
      · exact .inr (List.mem_cons_of_mem _ h)
    · split at h
      · rcases List.mem_cons.mp h with h | h
        · exact .inl h
        · exact .inr h
      · rcases List.mem_cons.mp h with h | h
        · exact .inr (h ▸ List.mem_cons_self)
        · rcases ih h with h | h
          · exact .inl h
          · exact .inr (List.mem_cons_of_mem _ h)

/-- The entries after an erase are entries of before. -/
theorem mem_smErase {m : SMap α} {k : Nat} {e : Nat × α} (h : e ∈ smErase m k) : e ∈ m := by
  induction m with
  | nil => exact h
  | cons x m ih =>
    obtain ⟨k', v'⟩ := x
    unfold smErase at h
    split at h
    · exact List.mem_cons_of_mem _ h
    · split at h
      · exact h
      · rcases List.mem_cons.mp h with h | h
        · exact h ▸ List.mem_cons_self
        · exact List.mem_cons_of_mem _ (ih h)

/-- A set keeps the canonical form. -/
theorem smWf_smSet [DecidableEq α] {m : SMap α} {d : α} (h : smWf d m = true) (k : Nat) (v : α) : smWf d (smSet m k v d) = true := by
  simp only [smWf, Bool.and_eq_true, List.all_eq_true, decide_eq_true_eq] at h ⊢
  unfold smSet
  split
  · exact ⟨smSorted_smErase h.1, fun e he => h.2 e (mem_smErase he)⟩
  · rename_i hv
    refine ⟨smSorted_smPut h.1 (by intro b hb; cases hb), fun e he => ?_⟩
    rcases mem_smPut he with rfl | he
    · exact hv
    · exact h.2 e he

/-- Dropping entries keeps a list sorted. -/
theorem smSorted_filter {m : SMap α} {o : Option Nat} (f : Nat × α → Bool) (h : smSorted o m = true) :
    smSorted o (m.filter f) = true := by
  induction m generalizing o with
  | nil => cases o <;> rfl
  | cons e m ih =>
    obtain ⟨k', v'⟩ := e
    have ht := smSorted_tail h
    rw [List.filter_cons]
    split
    · cases o with
      | none => exact ih ht
      | some b =>
        simp only [smSorted, Bool.and_eq_true, decide_eq_true_eq] at h ⊢
        exact ⟨h.1, ih ht⟩
    · cases o with
      | none => exact smSorted_drop (ih ht)
      | some b =>
        simp only [smSorted, Bool.and_eq_true, decide_eq_true_eq] at h
        exact smSorted_weaken (ih ht) (Nat.le_of_lt h.1)

/-- Dropping entries keeps the canonical form. -/
theorem smWf_filter [DecidableEq α] {m : SMap α} {d : α} (f : Nat × α → Bool) (h : smWf d m = true) : smWf d (m.filter f) = true := by
  simp only [smWf, Bool.and_eq_true, List.all_eq_true] at h ⊢
  exact ⟨smSorted_filter f h.1, fun e he => h.2 e (List.mem_filter.mp he).1⟩

end Sys2Proof.Machine
end

