-- ==== Sys2Proof/Laws/Cores.lean ====
section
/-!
SUPPORT. Executing an instruction: what `Dev.coreStep` and `Dev.finish` come to on a core that nothing stands in the way of.
-/

namespace Sys2Proof.Machine

/-- The instruction at the PC is carried out as its own effect says. -/
theorem coreStep_executes {d e : Dev} {k : Nat} {enc : List (BitVec 16)} {next : BitVec 16} (h : d.executes k enc = some (next, e))
    (act : BitVec 16 → BitVec 16 → Dev → Act) : d.coreStep k enc act = d.perform k (d.core k).pc next (act (d.core k).pc next e) := by
  unfold Dev.executes at h
  unfold Dev.coreStep
  by_cases hm : (!d.mayExec k) = true
  · rw [if_pos hm] at h; cases h
  rw [if_neg hm] at h
  simp only []
  rw [if_neg hm]
  cases hf : d.fetchWord k (d.core k).pc with
  | wait _ => rw [hf] at h; cases h
  | fail _ _ => rw [hf] at h; cases h
  | word w d1 =>
    rw [hf] at h
    simp only [] at h ⊢
    by_cases hx : (!hasExt (w.getD (enc.headD 0))) = true
    · rw [if_pos hx] at h ⊢
      by_cases hl : illegalWord (w.getD (enc.headD 0)) 0 = false ∧ enc = [w.getD (enc.headD 0)]
      · rw [if_pos hl] at h; cases h; rw [if_neg (by rw [hl.1]; decide), if_pos hl.2]
      · rw [if_neg hl] at h; cases h
    · rw [if_neg hx] at h ⊢
      cases hf2 : d1.fetchWord k ((d.core k).pc + 2) with
      | wait _ => rw [hf2] at h; cases h
      | fail _ _ => rw [hf2] at h; cases h
      | word x d2 =>
        rw [hf2] at h
        simp only [] at h ⊢
        split at h
        · rename_i hl; cases h; rw [if_neg (by rw [hl.1]; decide), if_pos hl.2]
        · cases h

/-- A core that is not all at its reset values reads back. -/
theorem core_setCore (d : Dev) (k : Nat) (v : Core) (h : v ≠ {}) : (d.setCore k v).core k = v := smGet_smSet_of_ne _ _ h
/-- A running core is not at its reset values. -/
theorem core_ne_of_running {v : Core} (h : v.state = .running) : v ≠ {} := by
  intro h2; rw [h2] at h; exact absurd h (by decide)
/-- Counting an event leaves every core alone. -/
@[simp] theorem count_core (d : Dev) (r k t n j) : (d.count r k t n).core j = d.core j := by rw [count_eq]; rfl
@[simp] theorem countInstr_core (d : Dev) (k j : Nat) : (d.countInstr k).core j = d.core j := count_core ..

/-- Landing changes only registers. -/
theorem land_shape (c : Core) (q : PendLoad) : c.land q = { c with g := (c.land q).g } := by
  unfold Core.land
  generalize q.dests.zip (q.data.getD []) = l
  suffices h : ∀ (l : List (Nat × Byte)) (c c0 : Core), c = { c0 with g := c.g } →
      l.foldl (fun c p => if q.over_.contains p.1 then c else c.setG p.1 p.2) c =
        { c0 with g := (l.foldl (fun c p => if q.over_.contains p.1 then c else c.setG p.1 p.2) c).g } from h l c c rfl
  intro l
  induction l with
  | nil => intro c c0 h; exact h
  | cons x xs ih =>
    intro c c0 h
    rw [List.foldl_cons]
    apply ih
    split
    · exact h
    · unfold Core.setG; rw [h]

/-- Loads that land change registers, and leave the list of loads in progress. -/
theorem retireList_shape (l : List PendLoad) (c : Core) :
    retireList l c = { c with g := (retireList l c).g, pend := (retireList l c).pend } ∧
      ∀ q ∈ (retireList l c).pend, q ∈ l := by
  induction l generalizing c with
  | nil => exact ⟨rfl, fun q h => h⟩
  | cons x xs ih =>
    unfold retireList
    split
    · obtain ⟨h1, h2⟩ := ih (c.land x)
      refine ⟨?_, fun q h => List.mem_cons_of_mem _ (h2 q h)⟩
      rw [h1, land_shape]
    · exact ⟨rfl, fun q h => h⟩

theorem retire_state (c : Core) : c.retire.state = c.state := by
  unfold Core.retire; rw [(retireList_shape c.pend c).1]
theorem retire_pc (c : Core) : c.retire.pc = c.pc := by
  unfold Core.retire; rw [(retireList_shape c.pend c).1]

/-- Loads of which none has failed cause no trap at a boundary. -/
theorem boundary_smooth {d : Dev} {k : Nat} (h : ∀ q ∈ (d.core k).pend, q.fail = none) :
    d.boundary k = some (d.setCore k (d.core k).retire) := by
  unfold Dev.boundary
  have h2 := (retireList_shape (d.core k).pend (d.core k)).2
  simp only []
  split
  · rfl
  · rename_i q qs hq
    have : q.fail = none := h q (h2 q (by show q ∈ (d.core k).retire.pend; rw [hq]; exact List.mem_cons_self))
    rw [this]

theorem setCsrPair_shape (c : Core) (n v : Nat) : c.setCsrPair n v = { c with csr := (c.setCsrPair n v).csr } := rfl
theorem setLoop_shape (c : Core) (n : Nat) (b : Bool) : c.setLoop n b = { c with csr := (c.setLoop n b).csr } := rfl

/-- The loop hardware changes only CSRs. -/
theorem loopBack_shape (c : Core) (pc next : BitVec 16) (l : Nat) :
    (c.loopBack pc next l).1 = { c with csr := (c.loopBack pc next l).1.csr } := by
  induction l generalizing c with
  | zero => rfl
  | succ l ih =>
    unfold Core.loopBack
    simp only []
    split
    · exact ih c
    · split
      · rfl
      · split
        · dsimp only []; exact setCsrPair_shape ..
        · split
          · have h := ih ((c.setCsrPair (lCount l) 0).setLoop l false)
            generalize (((c.setCsrPair (lCount l) 0).setLoop l false).loopBack pc next l).1 = r at h ⊢
            rw [setLoop_shape, setCsrPair_shape] at h
            exact h
          · rfl

/-- The loop hardware looks at CSRs alone. -/
theorem loopBack_congr {c c' : Core} (h : c'.csr = c.csr) (pc next : BitVec 16) (l : Nat) :
    (c'.loopBack pc next l).2 = (c.loopBack pc next l).2 := by
  induction l generalizing c c' with
  | zero => rfl
  | succ l ih =>
    have hb : ∀ n, c'.csrByte n = c.csrByte n := fun n => by unfold Core.csrByte; rw [h]
    have hs : ∀ {a a' : Core} (n v), a'.csr = a.csr → (a'.setCsr n v).csr = (a.setCsr n v).csr := fun n v h => by
      unfold Core.setCsr; simp only []; rw [h]
    have hp : (c'.setCsrPair (lCount l) 0).csr = (c.setCsrPair (lCount l) 0).csr := hs _ _ (hs _ _ h)
    have hq : (c'.setCsrPair (lCount l) 0).csrByte 0x08 = (c.setCsrPair (lCount l) 0).csrByte 0x08 := by
      unfold Core.csrByte; rw [hp]
    have h2 := ih (c := (c.setCsrPair (lCount l) 0).setLoop l false) (c' := (c'.setCsrPair (lCount l) 0).setLoop l false)
      (by unfold Core.setLoop; rw [hq]; exact hs _ _ hp)
    unfold Core.loopBack Core.loopOn Core.csrPair
    simp only [hb]
    split
    · exact ih h
    · split
      · rfl
      · split
        · rfl
        · split
          · exact h2
          · rfl

/-- An instruction's end on a smooth core, at an even address. -/
theorem finish_smooth {d0 d : Dev} {k : Nat} {wrote : List Nat} {next : BitVec 16} (h : (d.core k).smooth) (hn : next.toNat % 2 = 0) :
    d0.finish d k wrote next = d.goesTo k next wrote := by
  have hc : ((d.setCore k { (d.core k).passed wrote with pc := next, noInt := false }).countInstr k).core k =
      { (d.core k).passed wrote with pc := next, noInt := false } := by
    rw [countInstr_core]; exact core_setCore _ _ _ (core_ne_of_running h.1)
  unfold Dev.finish
  simp only []
  rw [boundary_smooth]
  · dsimp only []; rw [if_neg (fun hh => by omega)]; rfl
  · rw [hc]
    intro q hq
    obtain ⟨r, hr, rfl⟩ := List.mem_map.mp hq
    have := h.2 r hr
    split <;> exact this

/-- An instruction that goes on, on a smooth core. -/
theorem perform_seq {d0 d : Dev} {k : Nat} {wrote : List Nat} {pc next : BitVec 16} (h : (d.core k).smoothAt pc next) :
    d0.perform k pc next (.seq d wrote) = d.goesOn k pc next wrote := by
  have hc : (d.setCore k ((d.core k).loopBack pc next 3).1).core k = ((d.core k).loopBack pc next 3).1 :=
    core_setCore _ _ _ (core_ne_of_running (by rw [loopBack_shape]; exact h.1.1))
  unfold Dev.perform
  simp only []
  rw [finish_smooth ?_ h.2]
  · rfl
  · rw [hc, loopBack_shape]; exact h.1

/-- A load issued on a smooth core. -/
theorem perform_load {d0 d : Dev} {k : Nat} {pc next : BitVec 16} {q : PendLoad} (h : (d.core k).smooth) (hq : q.fail = none) :
    d0.perform k pc next (.load d q) = d.loads k pc next q := by
  have hb := loopBack_shape (d.core k) pc next 3
  have hst : ((d.core k).loopBack pc next 3).1.state = .running := by rw [hb]; exact h.1
  have hpe : ((d.core k).loopBack pc next 3).1.pend = (d.core k).pend := by rw [hb]
  unfold Dev.perform Dev.loads
  simp only []
  rw [boundary_smooth]
  rw [countInstr_core]
  generalize ((d.core k).loopBack pc next 3).1 = r at hst hpe
  rw [core_setCore d k { r.passed [] with
    pc := ((d.core k).loopBack pc next 3).2, pend := (r.passed []).pend ++ [q], noInt := true } (core_ne_of_running hst)]
  intro x hx
  rcases List.mem_append.mp hx with hx | hx
  · obtain ⟨y, hy, rfl⟩ := List.mem_map.mp hx
    have := h.2 y (by rw [← hpe]; exact hy)
    split <;> exact this
  · rw [List.mem_singleton.mp hx]; exact hq

/-- An instruction that transfers control, on a smooth core. -/
theorem perform_jump {d0 d : Dev} {k : Nat} {pc next target : BitVec 16} {wrote : List Nat} (h : (d.core k).smooth)
    (ht : target.toNat % 2 = 0) : d0.perform k pc next (.jump d target wrote) = d.goesTo k target wrote := by
  unfold Dev.perform; exact finish_smooth h ht

/-- A word that is fetched lies at an even address. -/
theorem fetchWord_even {d d' : Dev} {k : Nat} {a : BitVec 16} {w} (h : d.fetchWord k a = .word w d') : a.toNat % 2 = 0 := by
  by_cases h0 : a.toNat % 2 = 1
  · rw [show d.fetchWord k a = .fail beFetch d from if_pos (.inl h0)] at h; cases h
  · exact Nat.mod_two_ne_one.mp h0

/-- The address after an instruction is even. -/
theorem executes_even {d e : Dev} {k : Nat} {enc : List (BitVec 16)} {next : BitVec 16} (h : d.executes k enc = some (next, e)) :
    next.toNat % 2 = 0 := by
  unfold Dev.executes at h
  split at h
  · cases h
  cases hf : d.fetchWord k (d.core k).pc with
  | wait _ => rw [hf] at h; cases h
  | fail _ _ => rw [hf] at h; cases h
  | word w d1 =>
    have he := fetchWord_even hf
    rw [hf] at h
    simp only [] at h
    split at h
    · split at h
      · cases h; rw [BitVec.toNat_add]; simp; omega
      · cases h
    · split at h
      · split at h
        · cases h; rw [BitVec.toNat_add]; simp; omega
        · cases h
      · cases h

/-! ### An instruction command on its core -/

/-- An instruction command whose core is about to execute it completes with what its effect comes to. -/
theorem runs_core {i : Instr} {s : State} {k : Nat} {enc : List (BitVec 16)} {act} {next : BitVec 16} {e : Dev} {f : Dev}
    (hx : exec i s = s.run fun d => d.coreStep k enc act)
    (hw : coreWords i = some (k, enc))
    (h : ∃ enc, coreWords i = some (k, enc) ∧ s.dev.executes k enc = some (next, e))
    (hf : f = s.dev.perform k (s.dev.core k).pc next (act (s.dev.core k).pc next e)) : Runs i s f := by
  obtain ⟨enc', h1, h2⟩ := h
  rw [hw] at h1; cases h1
  have : s.dev.coreStep k enc act = f := by rw [hf]; exact coreStep_executes h2 act
  subst this; exact hx

/-- One whose effect changes the core's own registers and goes on. -/
theorem runs_core_seq {i : Instr} {s : State} {k : Nat} {enc : List (BitVec 16)} {act} {next : BitVec 16} {e : Dev} {c' : Core}
    {wrote : List Nat}
    (hs : (e.core k).smoothAt (s.dev.core k).pc next)
    (hx : exec i s = s.run fun d => d.coreStep k enc act)
    (hw : coreWords i = some (k, enc))
    (h : ∃ enc, coreWords i = some (k, enc) ∧ s.dev.executes k enc = some (next, e))
    (ha : act (s.dev.core k).pc next e = .seq (e.setCore k c') wrote)
    (h1 : c'.state = (e.core k).state) (h2 : c'.pend = (e.core k).pend) (h3 : c'.csr = (e.core k).csr) :
    Runs i s ((e.setCore k c').goesOn k (s.dev.core k).pc next wrote) := by
  refine runs_core hx hw h ?_
  rw [ha, perform_seq]
  have hc : (e.setCore k c').core k = c' := core_setCore _ _ _ (core_ne_of_running (h1.trans hs.1.1))
  rw [hc]
  exact ⟨⟨h1.trans hs.1.1, by rw [h2]; exact hs.1.2⟩, by rw [loopBack_congr h3]; exact hs.2⟩

end Sys2Proof.Machine
end

