-- ==== Sys2Proof/Laws/Memory.lean ====
section
/-!
SUPPORT. Memory: every operation keeps its canonical form, a read after a write finds what was written, and every other byte
is as it was.
-/

namespace Sys2Proof.Machine

/-- One byte read after one byte written. -/
theorem memByte_memPut {m : List Host.Cell} (h : Memory.wf m) (a x : Nat) (b : Byte) :
    memByte (memPut m a b) x = if x = a then b else memByte m x := by
  have hs : smSorted none m = true := by
    unfold Memory.wf smWf at h; simp only [Bool.and_eq_true] at h; exact h.1
  exact smGet_smSet hs x a b memDefault

/-- Writing one byte keeps the canonical form. -/
theorem memPut_wf {m : List Host.Cell} (h : Memory.wf m) (a : Nat) (b : Byte) : Memory.wf (memPut m a b) := smWf_smSet h a b

/-- Writing bytes keeps the canonical form. -/
theorem memPutAll_wf {m : List Host.Cell} (h : Memory.wf m) (a : Nat) (bs : List Byte) : Memory.wf (memPutAll m a bs) := by
  induction bs generalizing m a with
  | nil => exact h
  | cons b bs ih => exact ih (memPut_wf h a b) (a + 1)

/-- Clearing a range keeps the canonical form. -/
theorem memClear_wf {m : List Host.Cell} (h : Memory.wf m) (a n : Nat) : Memory.wf (memClear m a n) := smWf_filter _ h

/-- A byte outside the bytes written is as it was. -/
theorem memByte_memPutAll_other {m : List Host.Cell} (h : Memory.wf m) {a x : Nat} (bs : List Byte) (hx : x < a ∨ a + bs.length ≤ x) :
    memByte (memPutAll m a bs) x = memByte m x := by
  induction bs generalizing m a with
  | nil => rfl
  | cons b bs ih =>
    simp only [List.length_cons] at hx
    unfold memPutAll
    rw [ih (memPut_wf h a b) (by omega), memByte_memPut h, if_neg (by omega)]

/-- The bytes written are read back. -/
theorem memBytes_memPutAll {m : List Host.Cell} (h : Memory.wf m) (a : Nat) (bs : List Byte) :
    memBytes (memPutAll m a bs) a bs.length = bs := by
  induction bs generalizing m a with
  | nil => rfl
  | cons b bs ih =>
    simp only [List.length_cons, memBytes]
    unfold memPutAll
    rw [ih (memPut_wf h a b) (a + 1), memByte_memPutAll_other (memPut_wf h a b) bs (by omega), memByte_memPut h, if_pos rfl]

/-- Bytes are written one part after another. -/
theorem memPutAll_append (m : List Host.Cell) (a : Nat) (bs cs : List Byte) :
    memPutAll m a (bs ++ cs) = memPutAll (memPutAll m a bs) (a + bs.length) cs := by
  induction bs generalizing m a with
  | nil => rfl
  | cons b bs ih =>
    simp only [List.cons_append, memPutAll, List.length_cons]
    rw [ih, Nat.add_assoc, Nat.add_comm 1]

/-- Writing to device memory changes its bytes alone, and keeps the canonical form. -/
theorem poke_wf {d : Dev} (h : Memory.wf d.mem) (a : Nat) (bs : List Byte) : Memory.wf (d.poke a bs).mem := memPutAll_wf h _ bs

/-- Clearing device memory keeps the canonical form. -/
theorem clearMem_wf {d : Dev} (h : Memory.wf d.mem) (a n : Nat) : Memory.wf (d.clearMem a n).mem := memClear_wf h a n

/-- Memory at reset lists nothing, and so has the canonical form. -/
theorem reset_mem_wf : Memory.wf State.reset.dev.mem := by decide

/-- No check meets an injection where none is armed (R483). -/
theorem takeInject_none {d : Dev} {p c : Nat} (h : d.rf p 0x02C 4 2 = 0) : d.takeInject p c = (none, d) := by
  unfold Dev.takeInject
  simp only []
  rw [if_neg (by omega)]

/-- The check of a word that is not poisoned, where its page has no injection armed, finds nothing (R395, R483). -/
theorem checkWord_clean {d : Dev} {a : Nat} (hp : d.poisoned a = false) (hi : ∀ c, checkerOf a = some c → d.rf c.page 0x02C 4 2 = 0) :
    d.checkWord a = (false, d) := by
  unfold Dev.checkWord
  cases hc : checkerOf a with
  | none => simp only [hp]
  | some c => simp only [takeInject_none (hi c hc), hp]

/-- A part of a word below the alias addresses is written as it stands (R394). -/
theorem writeWord_clean {d : Dev} {a : Nat} {bs : List Byte} (ha : a < 2 ^ 45) (hl : bs.length < 8) (hp : d.poisoned (a / 8 * 8) = false)
    (hi : ∀ c, checkerOf (a / 8 * 8) = some c → d.rf c.page 0x02C 4 2 = 0) : d.writeWord a bs = (false, d.poke a bs) := by
  unfold Dev.writeWord
  rw [if_neg (by omega)]
  split
  · rfl
  · simp only [checkWord_clean hp hi]
    have hm : d.merged a bs = bs := by
      unfold Dev.merged Dev.peek
      generalize plainAddr a = x
      induction bs generalizing x with
      | nil => rfl
      | cons b bs ih =>
        simp only [List.length_cons, memBytes, List.zipWith_cons_cons]
        rw [ih (by simp only [List.length_cons] at hl; omega)]
        unfold aliasByte
        rw [if_pos ha]
    rw [hm]; rfl

end Sys2Proof.Machine
end

