-- ==== Sys2Proof/Laws/State.lean ====
section
/-!
SUPPORT. What an update of one field of the device leaves as it was: for each update, every other field.
-/

namespace Sys2Proof.Machine

variable (d : Dev)

/-! `setReg` -/

@[simp] theorem Dev.setReg_enPend (p o : Nat) (v : Word) : (d.setReg p o v).enPend = d.enPend := rfl
@[simp] theorem Dev.setReg_cfg (p o : Nat) (v : Word) : (d.setReg p o v).cfg = d.cfg := rfl
@[simp] theorem Dev.setReg_shadow (p o : Nat) (v : Word) : (d.setReg p o v).shadow = d.shadow := rfl
@[simp] theorem Dev.setReg_banked (p o : Nat) (v : Word) : (d.setReg p o v).banked = d.banked := rfl
@[simp] theorem Dev.setReg_mem (p o : Nat) (v : Word) : (d.setReg p o v).mem = d.mem := rfl
@[simp] theorem Dev.setReg_poison (p o : Nat) (v : Word) : (d.setReg p o v).poison = d.poison := rfl
@[simp] theorem Dev.setReg_hostMem (p o : Nat) (v : Word) : (d.setReg p o v).hostMem = d.hostMem := rfl
@[simp] theorem Dev.setReg_pacer (p o : Nat) (v : Word) : (d.setReg p o v).pacer = d.pacer := rfl
@[simp] theorem Dev.setReg_wl (p o : Nat) (v : Word) : (d.setReg p o v).wl = d.wl := rfl
@[simp] theorem Dev.setReg_ledger (p o : Nat) (v : Word) : (d.setReg p o v).ledger = d.ledger := rfl
@[simp] theorem Dev.setReg_gov (p o : Nat) (v : Word) : (d.setReg p o v).gov = d.gov := rfl
@[simp] theorem Dev.setReg_scbs (p o : Nat) (v : Word) : (d.setReg p o v).scbs = d.scbs := rfl
@[simp] theorem Dev.setReg_ctxs (p o : Nat) (v : Word) : (d.setReg p o v).ctxs = d.ctxs := rfl
@[simp] theorem Dev.setReg_engines (p o : Nat) (v : Word) : (d.setReg p o v).engines = d.engines := rfl
@[simp] theorem Dev.setReg_images (p o : Nat) (v : Word) : (d.setReg p o v).images = d.images := rfl
@[simp] theorem Dev.setReg_hif (p o : Nat) (v : Word) : (d.setReg p o v).hif = d.hif := rfl
@[simp] theorem Dev.setReg_srcs (p o : Nat) (v : Word) : (d.setReg p o v).srcs = d.srcs := rfl
@[simp] theorem Dev.setReg_prioStacks (p o : Nat) (v : Word) : (d.setReg p o v).prioStacks = d.prioStacks := rfl
@[simp] theorem Dev.setReg_mboxes (p o : Nat) (v : Word) : (d.setReg p o v).mboxes = d.mboxes := rfl
@[simp] theorem Dev.setReg_locks (p o : Nat) (v : Word) : (d.setReg p o v).locks = d.locks := rfl
@[simp] theorem Dev.setReg_caddy (p o : Nat) (v : Word) : (d.setReg p o v).caddy = d.caddy := rfl
@[simp] theorem Dev.setReg_cores (p o : Nat) (v : Word) : (d.setReg p o v).cores = d.cores := rfl
@[simp] theorem Dev.setReg_gpi (p o : Nat) (v : Word) : (d.setReg p o v).gpi = d.gpi := rfl
@[simp] theorem Dev.setReg_uarts (p o : Nat) (v : Word) : (d.setReg p o v).uarts = d.uarts := rfl
@[simp] theorem Dev.setReg_spis (p o : Nat) (v : Word) : (d.setReg p o v).spis = d.spis := rfl
@[simp] theorem Dev.setReg_i3cs (p o : Nat) (v : Word) : (d.setReg p o v).i3cs = d.i3cs := rfl
@[simp] theorem Dev.setReg_ecp (p o : Nat) (v : Word) : (d.setReg p o v).ecp = d.ecp := rfl
@[simp] theorem Dev.setReg_lqs (p o : Nat) (v : Word) : (d.setReg p o v).lqs = d.lqs := rfl
@[simp] theorem Dev.setReg_lastCqe (p o : Nat) (v : Word) : (d.setReg p o v).lastCqe = d.lastCqe := rfl
@[simp] theorem Dev.setReg_wide (p o : Nat) (v : Word) : (d.setReg p o v).wide = d.wide := rfl
@[simp] theorem Dev.setReg_movers (p o : Nat) (v : Word) : (d.setReg p o v).movers = d.movers := rfl
@[simp] theorem Dev.setReg_mchans (p o : Nat) (v : Word) : (d.setReg p o v).mchans = d.mchans := rfl
@[simp] theorem Dev.setReg_fifos (p o : Nat) (v : Word) : (d.setReg p o v).fifos = d.fifos := rfl
@[simp] theorem Dev.setReg_xdt (p o : Nat) (v : Word) : (d.setReg p o v).xdt = d.xdt := rfl
@[simp] theorem Dev.setReg_streams (p o : Nat) (v : Word) : (d.setReg p o v).streams = d.streams := rfl
@[simp] theorem Dev.setReg_streamWait (p o : Nat) (v : Word) : (d.setReg p o v).streamWait = d.streamWait := rfl
@[simp] theorem Dev.setReg_linkLevel (p o : Nat) (v : Word) : (d.setReg p o v).linkLevel = d.linkLevel := rfl
@[simp] theorem Dev.setReg_doms (p o : Nat) (v : Word) : (d.setReg p o v).doms = d.doms := rfl
@[simp] theorem Dev.setReg_lats (p o : Nat) (v : Word) : (d.setReg p o v).lats = d.lats := rfl
@[simp] theorem Dev.setReg_eins (p o : Nat) (v : Word) : (d.setReg p o v).eins = d.eins := rfl
@[simp] theorem Dev.setReg_eouts (p o : Nat) (v : Word) : (d.setReg p o v).eouts = d.eouts := rfl
@[simp] theorem Dev.setReg_slots (p o : Nat) (v : Word) : (d.setReg p o v).slots = d.slots := rfl
@[simp] theorem Dev.setReg_regions (p o : Nat) (v : Word) : (d.setReg p o v).regions = d.regions := rfl
@[simp] theorem Dev.setReg_pmic (p o : Nat) (v : Word) : (d.setReg p o v).pmic = d.pmic := rfl
@[simp] theorem Dev.setReg_faults (p o : Nat) (v : Word) : (d.setReg p o v).faults = d.faults := rfl
@[simp] theorem Dev.setReg_arbs (p o : Nat) (v : Word) : (d.setReg p o v).arbs = d.arbs := rfl
@[simp] theorem Dev.setReg_boot (p o : Nat) (v : Word) : (d.setReg p o v).boot = d.boot := rfl
@[simp] theorem Dev.setReg_dap (p o : Nat) (v : Word) : (d.setReg p o v).dap = d.dap := rfl
@[simp] theorem Dev.setReg_links (p o : Nat) (v : Word) : (d.setReg p o v).links = d.links := rfl
@[simp] theorem Dev.setReg_hwtHeld (p o : Nat) (v : Word) : (d.setReg p o v).hwtHeld = d.hwtHeld := rfl
@[simp] theorem Dev.setReg_quiesce (p o : Nat) (v : Word) : (d.setReg p o v).quiesce = d.quiesce := rfl
@[simp] theorem Dev.setReg_held (p o : Nat) (v : Word) : (d.setReg p o v).held = d.held := rfl
@[simp] theorem Dev.setReg_portA (p o : Nat) (v : Word) : (d.setReg p o v).portA = d.portA := rfl
@[simp] theorem Dev.setReg_portB (p o : Nat) (v : Word) : (d.setReg p o v).portB = d.portB := rfl
@[simp] theorem Dev.setReg_sent (p o : Nat) (v : Word) : (d.setReg p o v).sent = d.sent := rfl
@[simp] theorem Dev.setReg_cpl (p o : Nat) (v : Word) : (d.setReg p o v).cpl = d.cpl := rfl
@[simp] theorem Dev.setReg_resp (p o : Nat) (v : Word) : (d.setReg p o v).resp = d.resp := rfl
@[simp] theorem Dev.setReg_freeCtr (p o : Nat) (v : Word) : (d.setReg p o v).freeCtr = d.freeCtr := rfl
@[simp] theorem Dev.setReg_seq (p o : Nat) (v : Word) : (d.setReg p o v).seq = d.seq := rfl

/-! `setBank` -/

@[simp] theorem Dev.setBank_regs (p o a : Nat) (v : Word) : (d.setBank p o a v).regs = d.regs := rfl
@[simp] theorem Dev.setBank_enPend (p o a : Nat) (v : Word) : (d.setBank p o a v).enPend = d.enPend := rfl
@[simp] theorem Dev.setBank_cfg (p o a : Nat) (v : Word) : (d.setBank p o a v).cfg = d.cfg := rfl
@[simp] theorem Dev.setBank_shadow (p o a : Nat) (v : Word) : (d.setBank p o a v).shadow = d.shadow := rfl
@[simp] theorem Dev.setBank_mem (p o a : Nat) (v : Word) : (d.setBank p o a v).mem = d.mem := rfl
@[simp] theorem Dev.setBank_poison (p o a : Nat) (v : Word) : (d.setBank p o a v).poison = d.poison := rfl
@[simp] theorem Dev.setBank_hostMem (p o a : Nat) (v : Word) : (d.setBank p o a v).hostMem = d.hostMem := rfl
@[simp] theorem Dev.setBank_pacer (p o a : Nat) (v : Word) : (d.setBank p o a v).pacer = d.pacer := rfl
@[simp] theorem Dev.setBank_wl (p o a : Nat) (v : Word) : (d.setBank p o a v).wl = d.wl := rfl
@[simp] theorem Dev.setBank_ledger (p o a : Nat) (v : Word) : (d.setBank p o a v).ledger = d.ledger := rfl
@[simp] theorem Dev.setBank_gov (p o a : Nat) (v : Word) : (d.setBank p o a v).gov = d.gov := rfl
@[simp] theorem Dev.setBank_scbs (p o a : Nat) (v : Word) : (d.setBank p o a v).scbs = d.scbs := rfl
@[simp] theorem Dev.setBank_ctxs (p o a : Nat) (v : Word) : (d.setBank p o a v).ctxs = d.ctxs := rfl
@[simp] theorem Dev.setBank_engines (p o a : Nat) (v : Word) : (d.setBank p o a v).engines = d.engines := rfl
@[simp] theorem Dev.setBank_images (p o a : Nat) (v : Word) : (d.setBank p o a v).images = d.images := rfl
@[simp] theorem Dev.setBank_hif (p o a : Nat) (v : Word) : (d.setBank p o a v).hif = d.hif := rfl
@[simp] theorem Dev.setBank_srcs (p o a : Nat) (v : Word) : (d.setBank p o a v).srcs = d.srcs := rfl
@[simp] theorem Dev.setBank_prioStacks (p o a : Nat) (v : Word) : (d.setBank p o a v).prioStacks = d.prioStacks := rfl
@[simp] theorem Dev.setBank_mboxes (p o a : Nat) (v : Word) : (d.setBank p o a v).mboxes = d.mboxes := rfl
@[simp] theorem Dev.setBank_locks (p o a : Nat) (v : Word) : (d.setBank p o a v).locks = d.locks := rfl
@[simp] theorem Dev.setBank_caddy (p o a : Nat) (v : Word) : (d.setBank p o a v).caddy = d.caddy := rfl
@[simp] theorem Dev.setBank_cores (p o a : Nat) (v : Word) : (d.setBank p o a v).cores = d.cores := rfl
@[simp] theorem Dev.setBank_gpi (p o a : Nat) (v : Word) : (d.setBank p o a v).gpi = d.gpi := rfl
@[simp] theorem Dev.setBank_uarts (p o a : Nat) (v : Word) : (d.setBank p o a v).uarts = d.uarts := rfl
@[simp] theorem Dev.setBank_spis (p o a : Nat) (v : Word) : (d.setBank p o a v).spis = d.spis := rfl
@[simp] theorem Dev.setBank_i3cs (p o a : Nat) (v : Word) : (d.setBank p o a v).i3cs = d.i3cs := rfl
@[simp] theorem Dev.setBank_ecp (p o a : Nat) (v : Word) : (d.setBank p o a v).ecp = d.ecp := rfl
@[simp] theorem Dev.setBank_lqs (p o a : Nat) (v : Word) : (d.setBank p o a v).lqs = d.lqs := rfl
@[simp] theorem Dev.setBank_lastCqe (p o a : Nat) (v : Word) : (d.setBank p o a v).lastCqe = d.lastCqe := rfl
@[simp] theorem Dev.setBank_wide (p o a : Nat) (v : Word) : (d.setBank p o a v).wide = d.wide := rfl
@[simp] theorem Dev.setBank_movers (p o a : Nat) (v : Word) : (d.setBank p o a v).movers = d.movers := rfl
@[simp] theorem Dev.setBank_mchans (p o a : Nat) (v : Word) : (d.setBank p o a v).mchans = d.mchans := rfl
@[simp] theorem Dev.setBank_fifos (p o a : Nat) (v : Word) : (d.setBank p o a v).fifos = d.fifos := rfl
@[simp] theorem Dev.setBank_xdt (p o a : Nat) (v : Word) : (d.setBank p o a v).xdt = d.xdt := rfl
@[simp] theorem Dev.setBank_streams (p o a : Nat) (v : Word) : (d.setBank p o a v).streams = d.streams := rfl
@[simp] theorem Dev.setBank_streamWait (p o a : Nat) (v : Word) : (d.setBank p o a v).streamWait = d.streamWait := rfl
@[simp] theorem Dev.setBank_linkLevel (p o a : Nat) (v : Word) : (d.setBank p o a v).linkLevel = d.linkLevel := rfl
@[simp] theorem Dev.setBank_doms (p o a : Nat) (v : Word) : (d.setBank p o a v).doms = d.doms := rfl
@[simp] theorem Dev.setBank_lats (p o a : Nat) (v : Word) : (d.setBank p o a v).lats = d.lats := rfl
@[simp] theorem Dev.setBank_eins (p o a : Nat) (v : Word) : (d.setBank p o a v).eins = d.eins := rfl
@[simp] theorem Dev.setBank_eouts (p o a : Nat) (v : Word) : (d.setBank p o a v).eouts = d.eouts := rfl
@[simp] theorem Dev.setBank_slots (p o a : Nat) (v : Word) : (d.setBank p o a v).slots = d.slots := rfl
@[simp] theorem Dev.setBank_regions (p o a : Nat) (v : Word) : (d.setBank p o a v).regions = d.regions := rfl
@[simp] theorem Dev.setBank_pmic (p o a : Nat) (v : Word) : (d.setBank p o a v).pmic = d.pmic := rfl
@[simp] theorem Dev.setBank_faults (p o a : Nat) (v : Word) : (d.setBank p o a v).faults = d.faults := rfl
@[simp] theorem Dev.setBank_arbs (p o a : Nat) (v : Word) : (d.setBank p o a v).arbs = d.arbs := rfl
@[simp] theorem Dev.setBank_boot (p o a : Nat) (v : Word) : (d.setBank p o a v).boot = d.boot := rfl
@[simp] theorem Dev.setBank_dap (p o a : Nat) (v : Word) : (d.setBank p o a v).dap = d.dap := rfl
@[simp] theorem Dev.setBank_links (p o a : Nat) (v : Word) : (d.setBank p o a v).links = d.links := rfl
@[simp] theorem Dev.setBank_hwtHeld (p o a : Nat) (v : Word) : (d.setBank p o a v).hwtHeld = d.hwtHeld := rfl
@[simp] theorem Dev.setBank_quiesce (p o a : Nat) (v : Word) : (d.setBank p o a v).quiesce = d.quiesce := rfl
@[simp] theorem Dev.setBank_held (p o a : Nat) (v : Word) : (d.setBank p o a v).held = d.held := rfl
@[simp] theorem Dev.setBank_portA (p o a : Nat) (v : Word) : (d.setBank p o a v).portA = d.portA := rfl
@[simp] theorem Dev.setBank_portB (p o a : Nat) (v : Word) : (d.setBank p o a v).portB = d.portB := rfl
@[simp] theorem Dev.setBank_sent (p o a : Nat) (v : Word) : (d.setBank p o a v).sent = d.sent := rfl
@[simp] theorem Dev.setBank_cpl (p o a : Nat) (v : Word) : (d.setBank p o a v).cpl = d.cpl := rfl
@[simp] theorem Dev.setBank_resp (p o a : Nat) (v : Word) : (d.setBank p o a v).resp = d.resp := rfl
@[simp] theorem Dev.setBank_freeCtr (p o a : Nat) (v : Word) : (d.setBank p o a v).freeCtr = d.freeCtr := rfl
@[simp] theorem Dev.setBank_seq (p o a : Nat) (v : Word) : (d.setBank p o a v).seq = d.seq := rfl

/-! `poke` -/

@[simp] theorem Dev.poke_regs (a : Nat) (bs : List Byte) : (d.poke a bs).regs = d.regs := rfl
@[simp] theorem Dev.poke_enPend (a : Nat) (bs : List Byte) : (d.poke a bs).enPend = d.enPend := rfl
@[simp] theorem Dev.poke_cfg (a : Nat) (bs : List Byte) : (d.poke a bs).cfg = d.cfg := rfl
@[simp] theorem Dev.poke_shadow (a : Nat) (bs : List Byte) : (d.poke a bs).shadow = d.shadow := rfl
@[simp] theorem Dev.poke_banked (a : Nat) (bs : List Byte) : (d.poke a bs).banked = d.banked := rfl
@[simp] theorem Dev.poke_poison (a : Nat) (bs : List Byte) : (d.poke a bs).poison = d.poison := rfl
@[simp] theorem Dev.poke_hostMem (a : Nat) (bs : List Byte) : (d.poke a bs).hostMem = d.hostMem := rfl
@[simp] theorem Dev.poke_pacer (a : Nat) (bs : List Byte) : (d.poke a bs).pacer = d.pacer := rfl
@[simp] theorem Dev.poke_wl (a : Nat) (bs : List Byte) : (d.poke a bs).wl = d.wl := rfl
@[simp] theorem Dev.poke_ledger (a : Nat) (bs : List Byte) : (d.poke a bs).ledger = d.ledger := rfl
@[simp] theorem Dev.poke_gov (a : Nat) (bs : List Byte) : (d.poke a bs).gov = d.gov := rfl
@[simp] theorem Dev.poke_scbs (a : Nat) (bs : List Byte) : (d.poke a bs).scbs = d.scbs := rfl
@[simp] theorem Dev.poke_ctxs (a : Nat) (bs : List Byte) : (d.poke a bs).ctxs = d.ctxs := rfl
@[simp] theorem Dev.poke_engines (a : Nat) (bs : List Byte) : (d.poke a bs).engines = d.engines := rfl
@[simp] theorem Dev.poke_images (a : Nat) (bs : List Byte) : (d.poke a bs).images = d.images := rfl
@[simp] theorem Dev.poke_hif (a : Nat) (bs : List Byte) : (d.poke a bs).hif = d.hif := rfl
@[simp] theorem Dev.poke_srcs (a : Nat) (bs : List Byte) : (d.poke a bs).srcs = d.srcs := rfl
@[simp] theorem Dev.poke_prioStacks (a : Nat) (bs : List Byte) : (d.poke a bs).prioStacks = d.prioStacks := rfl
@[simp] theorem Dev.poke_mboxes (a : Nat) (bs : List Byte) : (d.poke a bs).mboxes = d.mboxes := rfl
@[simp] theorem Dev.poke_locks (a : Nat) (bs : List Byte) : (d.poke a bs).locks = d.locks := rfl
@[simp] theorem Dev.poke_caddy (a : Nat) (bs : List Byte) : (d.poke a bs).caddy = d.caddy := rfl
@[simp] theorem Dev.poke_cores (a : Nat) (bs : List Byte) : (d.poke a bs).cores = d.cores := rfl
@[simp] theorem Dev.poke_gpi (a : Nat) (bs : List Byte) : (d.poke a bs).gpi = d.gpi := rfl
@[simp] theorem Dev.poke_uarts (a : Nat) (bs : List Byte) : (d.poke a bs).uarts = d.uarts := rfl
@[simp] theorem Dev.poke_spis (a : Nat) (bs : List Byte) : (d.poke a bs).spis = d.spis := rfl
@[simp] theorem Dev.poke_i3cs (a : Nat) (bs : List Byte) : (d.poke a bs).i3cs = d.i3cs := rfl
@[simp] theorem Dev.poke_ecp (a : Nat) (bs : List Byte) : (d.poke a bs).ecp = d.ecp := rfl
@[simp] theorem Dev.poke_lqs (a : Nat) (bs : List Byte) : (d.poke a bs).lqs = d.lqs := rfl
@[simp] theorem Dev.poke_lastCqe (a : Nat) (bs : List Byte) : (d.poke a bs).lastCqe = d.lastCqe := rfl
@[simp] theorem Dev.poke_wide (a : Nat) (bs : List Byte) : (d.poke a bs).wide = d.wide := rfl
@[simp] theorem Dev.poke_movers (a : Nat) (bs : List Byte) : (d.poke a bs).movers = d.movers := rfl
@[simp] theorem Dev.poke_mchans (a : Nat) (bs : List Byte) : (d.poke a bs).mchans = d.mchans := rfl
@[simp] theorem Dev.poke_fifos (a : Nat) (bs : List Byte) : (d.poke a bs).fifos = d.fifos := rfl
@[simp] theorem Dev.poke_xdt (a : Nat) (bs : List Byte) : (d.poke a bs).xdt = d.xdt := rfl
@[simp] theorem Dev.poke_streams (a : Nat) (bs : List Byte) : (d.poke a bs).streams = d.streams := rfl
@[simp] theorem Dev.poke_streamWait (a : Nat) (bs : List Byte) : (d.poke a bs).streamWait = d.streamWait := rfl
@[simp] theorem Dev.poke_linkLevel (a : Nat) (bs : List Byte) : (d.poke a bs).linkLevel = d.linkLevel := rfl
@[simp] theorem Dev.poke_doms (a : Nat) (bs : List Byte) : (d.poke a bs).doms = d.doms := rfl
@[simp] theorem Dev.poke_lats (a : Nat) (bs : List Byte) : (d.poke a bs).lats = d.lats := rfl
@[simp] theorem Dev.poke_eins (a : Nat) (bs : List Byte) : (d.poke a bs).eins = d.eins := rfl
@[simp] theorem Dev.poke_eouts (a : Nat) (bs : List Byte) : (d.poke a bs).eouts = d.eouts := rfl
@[simp] theorem Dev.poke_slots (a : Nat) (bs : List Byte) : (d.poke a bs).slots = d.slots := rfl
@[simp] theorem Dev.poke_regions (a : Nat) (bs : List Byte) : (d.poke a bs).regions = d.regions := rfl
@[simp] theorem Dev.poke_pmic (a : Nat) (bs : List Byte) : (d.poke a bs).pmic = d.pmic := rfl
@[simp] theorem Dev.poke_faults (a : Nat) (bs : List Byte) : (d.poke a bs).faults = d.faults := rfl
@[simp] theorem Dev.poke_arbs (a : Nat) (bs : List Byte) : (d.poke a bs).arbs = d.arbs := rfl
@[simp] theorem Dev.poke_boot (a : Nat) (bs : List Byte) : (d.poke a bs).boot = d.boot := rfl
@[simp] theorem Dev.poke_dap (a : Nat) (bs : List Byte) : (d.poke a bs).dap = d.dap := rfl
@[simp] theorem Dev.poke_links (a : Nat) (bs : List Byte) : (d.poke a bs).links = d.links := rfl
@[simp] theorem Dev.poke_hwtHeld (a : Nat) (bs : List Byte) : (d.poke a bs).hwtHeld = d.hwtHeld := rfl
@[simp] theorem Dev.poke_quiesce (a : Nat) (bs : List Byte) : (d.poke a bs).quiesce = d.quiesce := rfl
@[simp] theorem Dev.poke_held (a : Nat) (bs : List Byte) : (d.poke a bs).held = d.held := rfl
@[simp] theorem Dev.poke_portA (a : Nat) (bs : List Byte) : (d.poke a bs).portA = d.portA := rfl
@[simp] theorem Dev.poke_portB (a : Nat) (bs : List Byte) : (d.poke a bs).portB = d.portB := rfl
@[simp] theorem Dev.poke_sent (a : Nat) (bs : List Byte) : (d.poke a bs).sent = d.sent := rfl
@[simp] theorem Dev.poke_cpl (a : Nat) (bs : List Byte) : (d.poke a bs).cpl = d.cpl := rfl
@[simp] theorem Dev.poke_resp (a : Nat) (bs : List Byte) : (d.poke a bs).resp = d.resp := rfl
@[simp] theorem Dev.poke_freeCtr (a : Nat) (bs : List Byte) : (d.poke a bs).freeCtr = d.freeCtr := rfl
@[simp] theorem Dev.poke_seq (a : Nat) (bs : List Byte) : (d.poke a bs).seq = d.seq := rfl

/-! `setPoison` -/

@[simp] theorem Dev.setPoison_regs (a : Nat) (b : Bool) : (d.setPoison a b).regs = d.regs := rfl
@[simp] theorem Dev.setPoison_enPend (a : Nat) (b : Bool) : (d.setPoison a b).enPend = d.enPend := rfl
@[simp] theorem Dev.setPoison_cfg (a : Nat) (b : Bool) : (d.setPoison a b).cfg = d.cfg := rfl
@[simp] theorem Dev.setPoison_shadow (a : Nat) (b : Bool) : (d.setPoison a b).shadow = d.shadow := rfl
@[simp] theorem Dev.setPoison_banked (a : Nat) (b : Bool) : (d.setPoison a b).banked = d.banked := rfl
@[simp] theorem Dev.setPoison_mem (a : Nat) (b : Bool) : (d.setPoison a b).mem = d.mem := rfl
@[simp] theorem Dev.setPoison_hostMem (a : Nat) (b : Bool) : (d.setPoison a b).hostMem = d.hostMem := rfl
@[simp] theorem Dev.setPoison_pacer (a : Nat) (b : Bool) : (d.setPoison a b).pacer = d.pacer := rfl
@[simp] theorem Dev.setPoison_wl (a : Nat) (b : Bool) : (d.setPoison a b).wl = d.wl := rfl
@[simp] theorem Dev.setPoison_ledger (a : Nat) (b : Bool) : (d.setPoison a b).ledger = d.ledger := rfl
@[simp] theorem Dev.setPoison_gov (a : Nat) (b : Bool) : (d.setPoison a b).gov = d.gov := rfl
@[simp] theorem Dev.setPoison_scbs (a : Nat) (b : Bool) : (d.setPoison a b).scbs = d.scbs := rfl
@[simp] theorem Dev.setPoison_ctxs (a : Nat) (b : Bool) : (d.setPoison a b).ctxs = d.ctxs := rfl
@[simp] theorem Dev.setPoison_engines (a : Nat) (b : Bool) : (d.setPoison a b).engines = d.engines := rfl
@[simp] theorem Dev.setPoison_images (a : Nat) (b : Bool) : (d.setPoison a b).images = d.images := rfl
@[simp] theorem Dev.setPoison_hif (a : Nat) (b : Bool) : (d.setPoison a b).hif = d.hif := rfl
@[simp] theorem Dev.setPoison_srcs (a : Nat) (b : Bool) : (d.setPoison a b).srcs = d.srcs := rfl
@[simp] theorem Dev.setPoison_prioStacks (a : Nat) (b : Bool) : (d.setPoison a b).prioStacks = d.prioStacks := rfl
@[simp] theorem Dev.setPoison_mboxes (a : Nat) (b : Bool) : (d.setPoison a b).mboxes = d.mboxes := rfl
@[simp] theorem Dev.setPoison_locks (a : Nat) (b : Bool) : (d.setPoison a b).locks = d.locks := rfl
@[simp] theorem Dev.setPoison_caddy (a : Nat) (b : Bool) : (d.setPoison a b).caddy = d.caddy := rfl
@[simp] theorem Dev.setPoison_cores (a : Nat) (b : Bool) : (d.setPoison a b).cores = d.cores := rfl
@[simp] theorem Dev.setPoison_gpi (a : Nat) (b : Bool) : (d.setPoison a b).gpi = d.gpi := rfl
@[simp] theorem Dev.setPoison_uarts (a : Nat) (b : Bool) : (d.setPoison a b).uarts = d.uarts := rfl
@[simp] theorem Dev.setPoison_spis (a : Nat) (b : Bool) : (d.setPoison a b).spis = d.spis := rfl
@[simp] theorem Dev.setPoison_i3cs (a : Nat) (b : Bool) : (d.setPoison a b).i3cs = d.i3cs := rfl
@[simp] theorem Dev.setPoison_ecp (a : Nat) (b : Bool) : (d.setPoison a b).ecp = d.ecp := rfl
@[simp] theorem Dev.setPoison_lqs (a : Nat) (b : Bool) : (d.setPoison a b).lqs = d.lqs := rfl
@[simp] theorem Dev.setPoison_lastCqe (a : Nat) (b : Bool) : (d.setPoison a b).lastCqe = d.lastCqe := rfl
@[simp] theorem Dev.setPoison_wide (a : Nat) (b : Bool) : (d.setPoison a b).wide = d.wide := rfl
@[simp] theorem Dev.setPoison_movers (a : Nat) (b : Bool) : (d.setPoison a b).movers = d.movers := rfl
@[simp] theorem Dev.setPoison_mchans (a : Nat) (b : Bool) : (d.setPoison a b).mchans = d.mchans := rfl
@[simp] theorem Dev.setPoison_fifos (a : Nat) (b : Bool) : (d.setPoison a b).fifos = d.fifos := rfl
@[simp] theorem Dev.setPoison_xdt (a : Nat) (b : Bool) : (d.setPoison a b).xdt = d.xdt := rfl
@[simp] theorem Dev.setPoison_streams (a : Nat) (b : Bool) : (d.setPoison a b).streams = d.streams := rfl
@[simp] theorem Dev.setPoison_streamWait (a : Nat) (b : Bool) : (d.setPoison a b).streamWait = d.streamWait := rfl
@[simp] theorem Dev.setPoison_linkLevel (a : Nat) (b : Bool) : (d.setPoison a b).linkLevel = d.linkLevel := rfl
@[simp] theorem Dev.setPoison_doms (a : Nat) (b : Bool) : (d.setPoison a b).doms = d.doms := rfl
@[simp] theorem Dev.setPoison_lats (a : Nat) (b : Bool) : (d.setPoison a b).lats = d.lats := rfl
@[simp] theorem Dev.setPoison_eins (a : Nat) (b : Bool) : (d.setPoison a b).eins = d.eins := rfl
@[simp] theorem Dev.setPoison_eouts (a : Nat) (b : Bool) : (d.setPoison a b).eouts = d.eouts := rfl
@[simp] theorem Dev.setPoison_slots (a : Nat) (b : Bool) : (d.setPoison a b).slots = d.slots := rfl
@[simp] theorem Dev.setPoison_regions (a : Nat) (b : Bool) : (d.setPoison a b).regions = d.regions := rfl
@[simp] theorem Dev.setPoison_pmic (a : Nat) (b : Bool) : (d.setPoison a b).pmic = d.pmic := rfl
@[simp] theorem Dev.setPoison_faults (a : Nat) (b : Bool) : (d.setPoison a b).faults = d.faults := rfl
@[simp] theorem Dev.setPoison_arbs (a : Nat) (b : Bool) : (d.setPoison a b).arbs = d.arbs := rfl
@[simp] theorem Dev.setPoison_boot (a : Nat) (b : Bool) : (d.setPoison a b).boot = d.boot := rfl
@[simp] theorem Dev.setPoison_dap (a : Nat) (b : Bool) : (d.setPoison a b).dap = d.dap := rfl
@[simp] theorem Dev.setPoison_links (a : Nat) (b : Bool) : (d.setPoison a b).links = d.links := rfl
@[simp] theorem Dev.setPoison_hwtHeld (a : Nat) (b : Bool) : (d.setPoison a b).hwtHeld = d.hwtHeld := rfl
@[simp] theorem Dev.setPoison_quiesce (a : Nat) (b : Bool) : (d.setPoison a b).quiesce = d.quiesce := rfl
@[simp] theorem Dev.setPoison_held (a : Nat) (b : Bool) : (d.setPoison a b).held = d.held := rfl
@[simp] theorem Dev.setPoison_portA (a : Nat) (b : Bool) : (d.setPoison a b).portA = d.portA := rfl
@[simp] theorem Dev.setPoison_portB (a : Nat) (b : Bool) : (d.setPoison a b).portB = d.portB := rfl
@[simp] theorem Dev.setPoison_sent (a : Nat) (b : Bool) : (d.setPoison a b).sent = d.sent := rfl
@[simp] theorem Dev.setPoison_cpl (a : Nat) (b : Bool) : (d.setPoison a b).cpl = d.cpl := rfl
@[simp] theorem Dev.setPoison_resp (a : Nat) (b : Bool) : (d.setPoison a b).resp = d.resp := rfl
@[simp] theorem Dev.setPoison_freeCtr (a : Nat) (b : Bool) : (d.setPoison a b).freeCtr = d.freeCtr := rfl
@[simp] theorem Dev.setPoison_seq (a : Nat) (b : Bool) : (d.setPoison a b).seq = d.seq := rfl

/-! `hostPoke` -/

@[simp] theorem Dev.hostPoke_regs (a : Nat) (bs : List Byte) : (d.hostPoke a bs).regs = d.regs := rfl
@[simp] theorem Dev.hostPoke_enPend (a : Nat) (bs : List Byte) : (d.hostPoke a bs).enPend = d.enPend := rfl
@[simp] theorem Dev.hostPoke_cfg (a : Nat) (bs : List Byte) : (d.hostPoke a bs).cfg = d.cfg := rfl
@[simp] theorem Dev.hostPoke_shadow (a : Nat) (bs : List Byte) : (d.hostPoke a bs).shadow = d.shadow := rfl
@[simp] theorem Dev.hostPoke_banked (a : Nat) (bs : List Byte) : (d.hostPoke a bs).banked = d.banked := rfl
@[simp] theorem Dev.hostPoke_mem (a : Nat) (bs : List Byte) : (d.hostPoke a bs).mem = d.mem := rfl
@[simp] theorem Dev.hostPoke_poison (a : Nat) (bs : List Byte) : (d.hostPoke a bs).poison = d.poison := rfl
@[simp] theorem Dev.hostPoke_pacer (a : Nat) (bs : List Byte) : (d.hostPoke a bs).pacer = d.pacer := rfl
@[simp] theorem Dev.hostPoke_wl (a : Nat) (bs : List Byte) : (d.hostPoke a bs).wl = d.wl := rfl
@[simp] theorem Dev.hostPoke_ledger (a : Nat) (bs : List Byte) : (d.hostPoke a bs).ledger = d.ledger := rfl
@[simp] theorem Dev.hostPoke_gov (a : Nat) (bs : List Byte) : (d.hostPoke a bs).gov = d.gov := rfl
@[simp] theorem Dev.hostPoke_scbs (a : Nat) (bs : List Byte) : (d.hostPoke a bs).scbs = d.scbs := rfl
@[simp] theorem Dev.hostPoke_ctxs (a : Nat) (bs : List Byte) : (d.hostPoke a bs).ctxs = d.ctxs := rfl
@[simp] theorem Dev.hostPoke_engines (a : Nat) (bs : List Byte) : (d.hostPoke a bs).engines = d.engines := rfl
@[simp] theorem Dev.hostPoke_images (a : Nat) (bs : List Byte) : (d.hostPoke a bs).images = d.images := rfl
@[simp] theorem Dev.hostPoke_hif (a : Nat) (bs : List Byte) : (d.hostPoke a bs).hif = d.hif := rfl
@[simp] theorem Dev.hostPoke_srcs (a : Nat) (bs : List Byte) : (d.hostPoke a bs).srcs = d.srcs := rfl
@[simp] theorem Dev.hostPoke_prioStacks (a : Nat) (bs : List Byte) : (d.hostPoke a bs).prioStacks = d.prioStacks := rfl
@[simp] theorem Dev.hostPoke_mboxes (a : Nat) (bs : List Byte) : (d.hostPoke a bs).mboxes = d.mboxes := rfl
@[simp] theorem Dev.hostPoke_locks (a : Nat) (bs : List Byte) : (d.hostPoke a bs).locks = d.locks := rfl
@[simp] theorem Dev.hostPoke_caddy (a : Nat) (bs : List Byte) : (d.hostPoke a bs).caddy = d.caddy := rfl
@[simp] theorem Dev.hostPoke_cores (a : Nat) (bs : List Byte) : (d.hostPoke a bs).cores = d.cores := rfl
@[simp] theorem Dev.hostPoke_gpi (a : Nat) (bs : List Byte) : (d.hostPoke a bs).gpi = d.gpi := rfl
@[simp] theorem Dev.hostPoke_uarts (a : Nat) (bs : List Byte) : (d.hostPoke a bs).uarts = d.uarts := rfl
@[simp] theorem Dev.hostPoke_spis (a : Nat) (bs : List Byte) : (d.hostPoke a bs).spis = d.spis := rfl
@[simp] theorem Dev.hostPoke_i3cs (a : Nat) (bs : List Byte) : (d.hostPoke a bs).i3cs = d.i3cs := rfl
@[simp] theorem Dev.hostPoke_ecp (a : Nat) (bs : List Byte) : (d.hostPoke a bs).ecp = d.ecp := rfl
@[simp] theorem Dev.hostPoke_lqs (a : Nat) (bs : List Byte) : (d.hostPoke a bs).lqs = d.lqs := rfl
@[simp] theorem Dev.hostPoke_lastCqe (a : Nat) (bs : List Byte) : (d.hostPoke a bs).lastCqe = d.lastCqe := rfl
@[simp] theorem Dev.hostPoke_wide (a : Nat) (bs : List Byte) : (d.hostPoke a bs).wide = d.wide := rfl
@[simp] theorem Dev.hostPoke_movers (a : Nat) (bs : List Byte) : (d.hostPoke a bs).movers = d.movers := rfl
@[simp] theorem Dev.hostPoke_mchans (a : Nat) (bs : List Byte) : (d.hostPoke a bs).mchans = d.mchans := rfl
@[simp] theorem Dev.hostPoke_fifos (a : Nat) (bs : List Byte) : (d.hostPoke a bs).fifos = d.fifos := rfl
@[simp] theorem Dev.hostPoke_xdt (a : Nat) (bs : List Byte) : (d.hostPoke a bs).xdt = d.xdt := rfl
@[simp] theorem Dev.hostPoke_streams (a : Nat) (bs : List Byte) : (d.hostPoke a bs).streams = d.streams := rfl
@[simp] theorem Dev.hostPoke_streamWait (a : Nat) (bs : List Byte) : (d.hostPoke a bs).streamWait = d.streamWait := rfl
@[simp] theorem Dev.hostPoke_linkLevel (a : Nat) (bs : List Byte) : (d.hostPoke a bs).linkLevel = d.linkLevel := rfl
@[simp] theorem Dev.hostPoke_doms (a : Nat) (bs : List Byte) : (d.hostPoke a bs).doms = d.doms := rfl
@[simp] theorem Dev.hostPoke_lats (a : Nat) (bs : List Byte) : (d.hostPoke a bs).lats = d.lats := rfl
@[simp] theorem Dev.hostPoke_eins (a : Nat) (bs : List Byte) : (d.hostPoke a bs).eins = d.eins := rfl
@[simp] theorem Dev.hostPoke_eouts (a : Nat) (bs : List Byte) : (d.hostPoke a bs).eouts = d.eouts := rfl
@[simp] theorem Dev.hostPoke_slots (a : Nat) (bs : List Byte) : (d.hostPoke a bs).slots = d.slots := rfl
@[simp] theorem Dev.hostPoke_regions (a : Nat) (bs : List Byte) : (d.hostPoke a bs).regions = d.regions := rfl
@[simp] theorem Dev.hostPoke_pmic (a : Nat) (bs : List Byte) : (d.hostPoke a bs).pmic = d.pmic := rfl
@[simp] theorem Dev.hostPoke_faults (a : Nat) (bs : List Byte) : (d.hostPoke a bs).faults = d.faults := rfl
@[simp] theorem Dev.hostPoke_arbs (a : Nat) (bs : List Byte) : (d.hostPoke a bs).arbs = d.arbs := rfl
@[simp] theorem Dev.hostPoke_boot (a : Nat) (bs : List Byte) : (d.hostPoke a bs).boot = d.boot := rfl
@[simp] theorem Dev.hostPoke_dap (a : Nat) (bs : List Byte) : (d.hostPoke a bs).dap = d.dap := rfl
@[simp] theorem Dev.hostPoke_links (a : Nat) (bs : List Byte) : (d.hostPoke a bs).links = d.links := rfl
@[simp] theorem Dev.hostPoke_hwtHeld (a : Nat) (bs : List Byte) : (d.hostPoke a bs).hwtHeld = d.hwtHeld := rfl
@[simp] theorem Dev.hostPoke_quiesce (a : Nat) (bs : List Byte) : (d.hostPoke a bs).quiesce = d.quiesce := rfl
@[simp] theorem Dev.hostPoke_held (a : Nat) (bs : List Byte) : (d.hostPoke a bs).held = d.held := rfl
@[simp] theorem Dev.hostPoke_portA (a : Nat) (bs : List Byte) : (d.hostPoke a bs).portA = d.portA := rfl
@[simp] theorem Dev.hostPoke_portB (a : Nat) (bs : List Byte) : (d.hostPoke a bs).portB = d.portB := rfl
@[simp] theorem Dev.hostPoke_sent (a : Nat) (bs : List Byte) : (d.hostPoke a bs).sent = d.sent := rfl
@[simp] theorem Dev.hostPoke_cpl (a : Nat) (bs : List Byte) : (d.hostPoke a bs).cpl = d.cpl := rfl
@[simp] theorem Dev.hostPoke_resp (a : Nat) (bs : List Byte) : (d.hostPoke a bs).resp = d.resp := rfl
@[simp] theorem Dev.hostPoke_freeCtr (a : Nat) (bs : List Byte) : (d.hostPoke a bs).freeCtr = d.freeCtr := rfl
@[simp] theorem Dev.hostPoke_seq (a : Nat) (bs : List Byte) : (d.hostPoke a bs).seq = d.seq := rfl

/-! `holds` -/

@[simp] theorem Dev.holds_regs (e : Dev) (q : HeldReq) : (d.holds e q).regs = d.regs := rfl
@[simp] theorem Dev.holds_enPend (e : Dev) (q : HeldReq) : (d.holds e q).enPend = d.enPend := rfl
@[simp] theorem Dev.holds_cfg (e : Dev) (q : HeldReq) : (d.holds e q).cfg = d.cfg := rfl
@[simp] theorem Dev.holds_shadow (e : Dev) (q : HeldReq) : (d.holds e q).shadow = d.shadow := rfl
@[simp] theorem Dev.holds_banked (e : Dev) (q : HeldReq) : (d.holds e q).banked = d.banked := rfl
@[simp] theorem Dev.holds_mem (e : Dev) (q : HeldReq) : (d.holds e q).mem = d.mem := rfl
@[simp] theorem Dev.holds_poison (e : Dev) (q : HeldReq) : (d.holds e q).poison = d.poison := rfl
@[simp] theorem Dev.holds_hostMem (e : Dev) (q : HeldReq) : (d.holds e q).hostMem = d.hostMem := rfl
@[simp] theorem Dev.holds_pacer (e : Dev) (q : HeldReq) : (d.holds e q).pacer = d.pacer := rfl
@[simp] theorem Dev.holds_wl (e : Dev) (q : HeldReq) : (d.holds e q).wl = d.wl := rfl
@[simp] theorem Dev.holds_ledger (e : Dev) (q : HeldReq) : (d.holds e q).ledger = d.ledger := rfl
@[simp] theorem Dev.holds_gov (e : Dev) (q : HeldReq) : (d.holds e q).gov = d.gov := rfl
@[simp] theorem Dev.holds_scbs (e : Dev) (q : HeldReq) : (d.holds e q).scbs = d.scbs := rfl
@[simp] theorem Dev.holds_ctxs (e : Dev) (q : HeldReq) : (d.holds e q).ctxs = d.ctxs := rfl
@[simp] theorem Dev.holds_engines (e : Dev) (q : HeldReq) : (d.holds e q).engines = d.engines := rfl
@[simp] theorem Dev.holds_images (e : Dev) (q : HeldReq) : (d.holds e q).images = d.images := rfl
@[simp] theorem Dev.holds_hif (e : Dev) (q : HeldReq) : (d.holds e q).hif = d.hif := rfl
@[simp] theorem Dev.holds_srcs (e : Dev) (q : HeldReq) : (d.holds e q).srcs = d.srcs := rfl
@[simp] theorem Dev.holds_prioStacks (e : Dev) (q : HeldReq) : (d.holds e q).prioStacks = d.prioStacks := rfl
@[simp] theorem Dev.holds_mboxes (e : Dev) (q : HeldReq) : (d.holds e q).mboxes = d.mboxes := rfl
@[simp] theorem Dev.holds_locks (e : Dev) (q : HeldReq) : (d.holds e q).locks = d.locks := rfl
@[simp] theorem Dev.holds_caddy (e : Dev) (q : HeldReq) : (d.holds e q).caddy = d.caddy := rfl
@[simp] theorem Dev.holds_cores (e : Dev) (q : HeldReq) : (d.holds e q).cores = d.cores := rfl
@[simp] theorem Dev.holds_gpi (e : Dev) (q : HeldReq) : (d.holds e q).gpi = d.gpi := rfl
@[simp] theorem Dev.holds_uarts (e : Dev) (q : HeldReq) : (d.holds e q).uarts = d.uarts := rfl
@[simp] theorem Dev.holds_spis (e : Dev) (q : HeldReq) : (d.holds e q).spis = d.spis := rfl
@[simp] theorem Dev.holds_i3cs (e : Dev) (q : HeldReq) : (d.holds e q).i3cs = d.i3cs := rfl
@[simp] theorem Dev.holds_ecp (e : Dev) (q : HeldReq) : (d.holds e q).ecp = d.ecp := rfl
@[simp] theorem Dev.holds_lqs (e : Dev) (q : HeldReq) : (d.holds e q).lqs = d.lqs := rfl
@[simp] theorem Dev.holds_lastCqe (e : Dev) (q : HeldReq) : (d.holds e q).lastCqe = d.lastCqe := rfl
@[simp] theorem Dev.holds_wide (e : Dev) (q : HeldReq) : (d.holds e q).wide = d.wide := rfl
@[simp] theorem Dev.holds_movers (e : Dev) (q : HeldReq) : (d.holds e q).movers = d.movers := rfl
@[simp] theorem Dev.holds_mchans (e : Dev) (q : HeldReq) : (d.holds e q).mchans = d.mchans := rfl
@[simp] theorem Dev.holds_fifos (e : Dev) (q : HeldReq) : (d.holds e q).fifos = d.fifos := rfl
@[simp] theorem Dev.holds_xdt (e : Dev) (q : HeldReq) : (d.holds e q).xdt = d.xdt := rfl
@[simp] theorem Dev.holds_streams (e : Dev) (q : HeldReq) : (d.holds e q).streams = d.streams := rfl
@[simp] theorem Dev.holds_streamWait (e : Dev) (q : HeldReq) : (d.holds e q).streamWait = d.streamWait := rfl
@[simp] theorem Dev.holds_linkLevel (e : Dev) (q : HeldReq) : (d.holds e q).linkLevel = d.linkLevel := rfl
@[simp] theorem Dev.holds_lats (e : Dev) (q : HeldReq) : (d.holds e q).lats = d.lats := rfl
@[simp] theorem Dev.holds_eins (e : Dev) (q : HeldReq) : (d.holds e q).eins = d.eins := rfl
@[simp] theorem Dev.holds_eouts (e : Dev) (q : HeldReq) : (d.holds e q).eouts = d.eouts := rfl
@[simp] theorem Dev.holds_slots (e : Dev) (q : HeldReq) : (d.holds e q).slots = d.slots := rfl
@[simp] theorem Dev.holds_regions (e : Dev) (q : HeldReq) : (d.holds e q).regions = d.regions := rfl
@[simp] theorem Dev.holds_pmic (e : Dev) (q : HeldReq) : (d.holds e q).pmic = d.pmic := rfl
@[simp] theorem Dev.holds_faults (e : Dev) (q : HeldReq) : (d.holds e q).faults = d.faults := rfl
@[simp] theorem Dev.holds_arbs (e : Dev) (q : HeldReq) : (d.holds e q).arbs = d.arbs := rfl
@[simp] theorem Dev.holds_boot (e : Dev) (q : HeldReq) : (d.holds e q).boot = d.boot := rfl
@[simp] theorem Dev.holds_dap (e : Dev) (q : HeldReq) : (d.holds e q).dap = d.dap := rfl
@[simp] theorem Dev.holds_links (e : Dev) (q : HeldReq) : (d.holds e q).links = d.links := rfl
@[simp] theorem Dev.holds_hwtHeld (e : Dev) (q : HeldReq) : (d.holds e q).hwtHeld = d.hwtHeld := rfl
@[simp] theorem Dev.holds_portA (e : Dev) (q : HeldReq) : (d.holds e q).portA = d.portA := rfl
@[simp] theorem Dev.holds_portB (e : Dev) (q : HeldReq) : (d.holds e q).portB = d.portB := rfl
@[simp] theorem Dev.holds_sent (e : Dev) (q : HeldReq) : (d.holds e q).sent = d.sent := rfl
@[simp] theorem Dev.holds_cpl (e : Dev) (q : HeldReq) : (d.holds e q).cpl = d.cpl := rfl
@[simp] theorem Dev.holds_resp (e : Dev) (q : HeldReq) : (d.holds e q).resp = d.resp := rfl
@[simp] theorem Dev.holds_freeCtr (e : Dev) (q : HeldReq) : (d.holds e q).freeCtr = d.freeCtr := rfl
@[simp] theorem Dev.holds_seq (e : Dev) (q : HeldReq) : (d.holds e q).seq = d.seq := rfl

/-! `setScb` -/

@[simp] theorem Dev.setScb_regs (i : Nat) (v : Scb) : (d.setScb i v).regs = d.regs := rfl
@[simp] theorem Dev.setScb_enPend (i : Nat) (v : Scb) : (d.setScb i v).enPend = d.enPend := rfl
@[simp] theorem Dev.setScb_cfg (i : Nat) (v : Scb) : (d.setScb i v).cfg = d.cfg := rfl
@[simp] theorem Dev.setScb_shadow (i : Nat) (v : Scb) : (d.setScb i v).shadow = d.shadow := rfl
@[simp] theorem Dev.setScb_banked (i : Nat) (v : Scb) : (d.setScb i v).banked = d.banked := rfl
@[simp] theorem Dev.setScb_mem (i : Nat) (v : Scb) : (d.setScb i v).mem = d.mem := rfl
@[simp] theorem Dev.setScb_poison (i : Nat) (v : Scb) : (d.setScb i v).poison = d.poison := rfl
@[simp] theorem Dev.setScb_hostMem (i : Nat) (v : Scb) : (d.setScb i v).hostMem = d.hostMem := rfl
@[simp] theorem Dev.setScb_pacer (i : Nat) (v : Scb) : (d.setScb i v).pacer = d.pacer := rfl
@[simp] theorem Dev.setScb_wl (i : Nat) (v : Scb) : (d.setScb i v).wl = d.wl := rfl
@[simp] theorem Dev.setScb_ledger (i : Nat) (v : Scb) : (d.setScb i v).ledger = d.ledger := rfl
@[simp] theorem Dev.setScb_gov (i : Nat) (v : Scb) : (d.setScb i v).gov = d.gov := rfl
@[simp] theorem Dev.setScb_ctxs (i : Nat) (v : Scb) : (d.setScb i v).ctxs = d.ctxs := rfl
@[simp] theorem Dev.setScb_engines (i : Nat) (v : Scb) : (d.setScb i v).engines = d.engines := rfl
@[simp] theorem Dev.setScb_images (i : Nat) (v : Scb) : (d.setScb i v).images = d.images := rfl
@[simp] theorem Dev.setScb_hif (i : Nat) (v : Scb) : (d.setScb i v).hif = d.hif := rfl
@[simp] theorem Dev.setScb_srcs (i : Nat) (v : Scb) : (d.setScb i v).srcs = d.srcs := rfl
@[simp] theorem Dev.setScb_prioStacks (i : Nat) (v : Scb) : (d.setScb i v).prioStacks = d.prioStacks := rfl
@[simp] theorem Dev.setScb_mboxes (i : Nat) (v : Scb) : (d.setScb i v).mboxes = d.mboxes := rfl
@[simp] theorem Dev.setScb_locks (i : Nat) (v : Scb) : (d.setScb i v).locks = d.locks := rfl
@[simp] theorem Dev.setScb_caddy (i : Nat) (v : Scb) : (d.setScb i v).caddy = d.caddy := rfl
@[simp] theorem Dev.setScb_cores (i : Nat) (v : Scb) : (d.setScb i v).cores = d.cores := rfl
@[simp] theorem Dev.setScb_gpi (i : Nat) (v : Scb) : (d.setScb i v).gpi = d.gpi := rfl
@[simp] theorem Dev.setScb_uarts (i : Nat) (v : Scb) : (d.setScb i v).uarts = d.uarts := rfl
@[simp] theorem Dev.setScb_spis (i : Nat) (v : Scb) : (d.setScb i v).spis = d.spis := rfl
@[simp] theorem Dev.setScb_i3cs (i : Nat) (v : Scb) : (d.setScb i v).i3cs = d.i3cs := rfl
@[simp] theorem Dev.setScb_ecp (i : Nat) (v : Scb) : (d.setScb i v).ecp = d.ecp := rfl
@[simp] theorem Dev.setScb_lqs (i : Nat) (v : Scb) : (d.setScb i v).lqs = d.lqs := rfl
@[simp] theorem Dev.setScb_lastCqe (i : Nat) (v : Scb) : (d.setScb i v).lastCqe = d.lastCqe := rfl
@[simp] theorem Dev.setScb_wide (i : Nat) (v : Scb) : (d.setScb i v).wide = d.wide := rfl
@[simp] theorem Dev.setScb_movers (i : Nat) (v : Scb) : (d.setScb i v).movers = d.movers := rfl
@[simp] theorem Dev.setScb_mchans (i : Nat) (v : Scb) : (d.setScb i v).mchans = d.mchans := rfl
@[simp] theorem Dev.setScb_fifos (i : Nat) (v : Scb) : (d.setScb i v).fifos = d.fifos := rfl
@[simp] theorem Dev.setScb_xdt (i : Nat) (v : Scb) : (d.setScb i v).xdt = d.xdt := rfl
@[simp] theorem Dev.setScb_streams (i : Nat) (v : Scb) : (d.setScb i v).streams = d.streams := rfl
@[simp] theorem Dev.setScb_streamWait (i : Nat) (v : Scb) : (d.setScb i v).streamWait = d.streamWait := rfl
@[simp] theorem Dev.setScb_linkLevel (i : Nat) (v : Scb) : (d.setScb i v).linkLevel = d.linkLevel := rfl
@[simp] theorem Dev.setScb_doms (i : Nat) (v : Scb) : (d.setScb i v).doms = d.doms := rfl
@[simp] theorem Dev.setScb_lats (i : Nat) (v : Scb) : (d.setScb i v).lats = d.lats := rfl
@[simp] theorem Dev.setScb_eins (i : Nat) (v : Scb) : (d.setScb i v).eins = d.eins := rfl
@[simp] theorem Dev.setScb_eouts (i : Nat) (v : Scb) : (d.setScb i v).eouts = d.eouts := rfl
@[simp] theorem Dev.setScb_slots (i : Nat) (v : Scb) : (d.setScb i v).slots = d.slots := rfl
@[simp] theorem Dev.setScb_regions (i : Nat) (v : Scb) : (d.setScb i v).regions = d.regions := rfl
@[simp] theorem Dev.setScb_pmic (i : Nat) (v : Scb) : (d.setScb i v).pmic = d.pmic := rfl
@[simp] theorem Dev.setScb_faults (i : Nat) (v : Scb) : (d.setScb i v).faults = d.faults := rfl
@[simp] theorem Dev.setScb_arbs (i : Nat) (v : Scb) : (d.setScb i v).arbs = d.arbs := rfl
@[simp] theorem Dev.setScb_boot (i : Nat) (v : Scb) : (d.setScb i v).boot = d.boot := rfl
@[simp] theorem Dev.setScb_dap (i : Nat) (v : Scb) : (d.setScb i v).dap = d.dap := rfl
@[simp] theorem Dev.setScb_links (i : Nat) (v : Scb) : (d.setScb i v).links = d.links := rfl
@[simp] theorem Dev.setScb_hwtHeld (i : Nat) (v : Scb) : (d.setScb i v).hwtHeld = d.hwtHeld := rfl
@[simp] theorem Dev.setScb_quiesce (i : Nat) (v : Scb) : (d.setScb i v).quiesce = d.quiesce := rfl
@[simp] theorem Dev.setScb_held (i : Nat) (v : Scb) : (d.setScb i v).held = d.held := rfl
@[simp] theorem Dev.setScb_portA (i : Nat) (v : Scb) : (d.setScb i v).portA = d.portA := rfl
@[simp] theorem Dev.setScb_portB (i : Nat) (v : Scb) : (d.setScb i v).portB = d.portB := rfl
@[simp] theorem Dev.setScb_sent (i : Nat) (v : Scb) : (d.setScb i v).sent = d.sent := rfl
@[simp] theorem Dev.setScb_cpl (i : Nat) (v : Scb) : (d.setScb i v).cpl = d.cpl := rfl
@[simp] theorem Dev.setScb_resp (i : Nat) (v : Scb) : (d.setScb i v).resp = d.resp := rfl
@[simp] theorem Dev.setScb_freeCtr (i : Nat) (v : Scb) : (d.setScb i v).freeCtr = d.freeCtr := rfl
@[simp] theorem Dev.setScb_seq (i : Nat) (v : Scb) : (d.setScb i v).seq = d.seq := rfl

/-! `setCtx` -/

@[simp] theorem Dev.setCtx_regs (i : Nat) (v : Ctx) : (d.setCtx i v).regs = d.regs := rfl
@[simp] theorem Dev.setCtx_enPend (i : Nat) (v : Ctx) : (d.setCtx i v).enPend = d.enPend := rfl
@[simp] theorem Dev.setCtx_cfg (i : Nat) (v : Ctx) : (d.setCtx i v).cfg = d.cfg := rfl
@[simp] theorem Dev.setCtx_shadow (i : Nat) (v : Ctx) : (d.setCtx i v).shadow = d.shadow := rfl
@[simp] theorem Dev.setCtx_banked (i : Nat) (v : Ctx) : (d.setCtx i v).banked = d.banked := rfl
@[simp] theorem Dev.setCtx_mem (i : Nat) (v : Ctx) : (d.setCtx i v).mem = d.mem := rfl
@[simp] theorem Dev.setCtx_poison (i : Nat) (v : Ctx) : (d.setCtx i v).poison = d.poison := rfl
@[simp] theorem Dev.setCtx_hostMem (i : Nat) (v : Ctx) : (d.setCtx i v).hostMem = d.hostMem := rfl
@[simp] theorem Dev.setCtx_pacer (i : Nat) (v : Ctx) : (d.setCtx i v).pacer = d.pacer := rfl
@[simp] theorem Dev.setCtx_wl (i : Nat) (v : Ctx) : (d.setCtx i v).wl = d.wl := rfl
@[simp] theorem Dev.setCtx_ledger (i : Nat) (v : Ctx) : (d.setCtx i v).ledger = d.ledger := rfl
@[simp] theorem Dev.setCtx_gov (i : Nat) (v : Ctx) : (d.setCtx i v).gov = d.gov := rfl
@[simp] theorem Dev.setCtx_scbs (i : Nat) (v : Ctx) : (d.setCtx i v).scbs = d.scbs := rfl
@[simp] theorem Dev.setCtx_engines (i : Nat) (v : Ctx) : (d.setCtx i v).engines = d.engines := rfl
@[simp] theorem Dev.setCtx_images (i : Nat) (v : Ctx) : (d.setCtx i v).images = d.images := rfl
@[simp] theorem Dev.setCtx_hif (i : Nat) (v : Ctx) : (d.setCtx i v).hif = d.hif := rfl
@[simp] theorem Dev.setCtx_srcs (i : Nat) (v : Ctx) : (d.setCtx i v).srcs = d.srcs := rfl
@[simp] theorem Dev.setCtx_prioStacks (i : Nat) (v : Ctx) : (d.setCtx i v).prioStacks = d.prioStacks := rfl
@[simp] theorem Dev.setCtx_mboxes (i : Nat) (v : Ctx) : (d.setCtx i v).mboxes = d.mboxes := rfl
@[simp] theorem Dev.setCtx_locks (i : Nat) (v : Ctx) : (d.setCtx i v).locks = d.locks := rfl
@[simp] theorem Dev.setCtx_caddy (i : Nat) (v : Ctx) : (d.setCtx i v).caddy = d.caddy := rfl
@[simp] theorem Dev.setCtx_cores (i : Nat) (v : Ctx) : (d.setCtx i v).cores = d.cores := rfl
@[simp] theorem Dev.setCtx_gpi (i : Nat) (v : Ctx) : (d.setCtx i v).gpi = d.gpi := rfl
@[simp] theorem Dev.setCtx_uarts (i : Nat) (v : Ctx) : (d.setCtx i v).uarts = d.uarts := rfl
@[simp] theorem Dev.setCtx_spis (i : Nat) (v : Ctx) : (d.setCtx i v).spis = d.spis := rfl
@[simp] theorem Dev.setCtx_i3cs (i : Nat) (v : Ctx) : (d.setCtx i v).i3cs = d.i3cs := rfl
@[simp] theorem Dev.setCtx_ecp (i : Nat) (v : Ctx) : (d.setCtx i v).ecp = d.ecp := rfl
@[simp] theorem Dev.setCtx_lqs (i : Nat) (v : Ctx) : (d.setCtx i v).lqs = d.lqs := rfl
@[simp] theorem Dev.setCtx_lastCqe (i : Nat) (v : Ctx) : (d.setCtx i v).lastCqe = d.lastCqe := rfl
@[simp] theorem Dev.setCtx_wide (i : Nat) (v : Ctx) : (d.setCtx i v).wide = d.wide := rfl
@[simp] theorem Dev.setCtx_movers (i : Nat) (v : Ctx) : (d.setCtx i v).movers = d.movers := rfl
@[simp] theorem Dev.setCtx_mchans (i : Nat) (v : Ctx) : (d.setCtx i v).mchans = d.mchans := rfl
@[simp] theorem Dev.setCtx_fifos (i : Nat) (v : Ctx) : (d.setCtx i v).fifos = d.fifos := rfl
@[simp] theorem Dev.setCtx_xdt (i : Nat) (v : Ctx) : (d.setCtx i v).xdt = d.xdt := rfl
@[simp] theorem Dev.setCtx_streams (i : Nat) (v : Ctx) : (d.setCtx i v).streams = d.streams := rfl
@[simp] theorem Dev.setCtx_streamWait (i : Nat) (v : Ctx) : (d.setCtx i v).streamWait = d.streamWait := rfl
@[simp] theorem Dev.setCtx_linkLevel (i : Nat) (v : Ctx) : (d.setCtx i v).linkLevel = d.linkLevel := rfl
@[simp] theorem Dev.setCtx_doms (i : Nat) (v : Ctx) : (d.setCtx i v).doms = d.doms := rfl
@[simp] theorem Dev.setCtx_lats (i : Nat) (v : Ctx) : (d.setCtx i v).lats = d.lats := rfl
@[simp] theorem Dev.setCtx_eins (i : Nat) (v : Ctx) : (d.setCtx i v).eins = d.eins := rfl
@[simp] theorem Dev.setCtx_eouts (i : Nat) (v : Ctx) : (d.setCtx i v).eouts = d.eouts := rfl
@[simp] theorem Dev.setCtx_slots (i : Nat) (v : Ctx) : (d.setCtx i v).slots = d.slots := rfl
@[simp] theorem Dev.setCtx_regions (i : Nat) (v : Ctx) : (d.setCtx i v).regions = d.regions := rfl
@[simp] theorem Dev.setCtx_pmic (i : Nat) (v : Ctx) : (d.setCtx i v).pmic = d.pmic := rfl
@[simp] theorem Dev.setCtx_faults (i : Nat) (v : Ctx) : (d.setCtx i v).faults = d.faults := rfl
@[simp] theorem Dev.setCtx_arbs (i : Nat) (v : Ctx) : (d.setCtx i v).arbs = d.arbs := rfl
@[simp] theorem Dev.setCtx_boot (i : Nat) (v : Ctx) : (d.setCtx i v).boot = d.boot := rfl
@[simp] theorem Dev.setCtx_dap (i : Nat) (v : Ctx) : (d.setCtx i v).dap = d.dap := rfl
@[simp] theorem Dev.setCtx_links (i : Nat) (v : Ctx) : (d.setCtx i v).links = d.links := rfl
@[simp] theorem Dev.setCtx_hwtHeld (i : Nat) (v : Ctx) : (d.setCtx i v).hwtHeld = d.hwtHeld := rfl
@[simp] theorem Dev.setCtx_quiesce (i : Nat) (v : Ctx) : (d.setCtx i v).quiesce = d.quiesce := rfl
@[simp] theorem Dev.setCtx_held (i : Nat) (v : Ctx) : (d.setCtx i v).held = d.held := rfl
@[simp] theorem Dev.setCtx_portA (i : Nat) (v : Ctx) : (d.setCtx i v).portA = d.portA := rfl
@[simp] theorem Dev.setCtx_portB (i : Nat) (v : Ctx) : (d.setCtx i v).portB = d.portB := rfl
@[simp] theorem Dev.setCtx_sent (i : Nat) (v : Ctx) : (d.setCtx i v).sent = d.sent := rfl
@[simp] theorem Dev.setCtx_cpl (i : Nat) (v : Ctx) : (d.setCtx i v).cpl = d.cpl := rfl
@[simp] theorem Dev.setCtx_resp (i : Nat) (v : Ctx) : (d.setCtx i v).resp = d.resp := rfl
@[simp] theorem Dev.setCtx_freeCtr (i : Nat) (v : Ctx) : (d.setCtx i v).freeCtr = d.freeCtr := rfl
@[simp] theorem Dev.setCtx_seq (i : Nat) (v : Ctx) : (d.setCtx i v).seq = d.seq := rfl

/-! `setEng` -/

@[simp] theorem Dev.setEng_regs (i : Nat) (v : Engine) : (d.setEng i v).regs = d.regs := rfl
@[simp] theorem Dev.setEng_enPend (i : Nat) (v : Engine) : (d.setEng i v).enPend = d.enPend := rfl
@[simp] theorem Dev.setEng_cfg (i : Nat) (v : Engine) : (d.setEng i v).cfg = d.cfg := rfl
@[simp] theorem Dev.setEng_shadow (i : Nat) (v : Engine) : (d.setEng i v).shadow = d.shadow := rfl
@[simp] theorem Dev.setEng_banked (i : Nat) (v : Engine) : (d.setEng i v).banked = d.banked := rfl
@[simp] theorem Dev.setEng_mem (i : Nat) (v : Engine) : (d.setEng i v).mem = d.mem := rfl
@[simp] theorem Dev.setEng_poison (i : Nat) (v : Engine) : (d.setEng i v).poison = d.poison := rfl
@[simp] theorem Dev.setEng_hostMem (i : Nat) (v : Engine) : (d.setEng i v).hostMem = d.hostMem := rfl
@[simp] theorem Dev.setEng_pacer (i : Nat) (v : Engine) : (d.setEng i v).pacer = d.pacer := rfl
@[simp] theorem Dev.setEng_wl (i : Nat) (v : Engine) : (d.setEng i v).wl = d.wl := rfl
@[simp] theorem Dev.setEng_ledger (i : Nat) (v : Engine) : (d.setEng i v).ledger = d.ledger := rfl
@[simp] theorem Dev.setEng_gov (i : Nat) (v : Engine) : (d.setEng i v).gov = d.gov := rfl
@[simp] theorem Dev.setEng_scbs (i : Nat) (v : Engine) : (d.setEng i v).scbs = d.scbs := rfl
@[simp] theorem Dev.setEng_ctxs (i : Nat) (v : Engine) : (d.setEng i v).ctxs = d.ctxs := rfl
@[simp] theorem Dev.setEng_images (i : Nat) (v : Engine) : (d.setEng i v).images = d.images := rfl
@[simp] theorem Dev.setEng_hif (i : Nat) (v : Engine) : (d.setEng i v).hif = d.hif := rfl
@[simp] theorem Dev.setEng_srcs (i : Nat) (v : Engine) : (d.setEng i v).srcs = d.srcs := rfl
@[simp] theorem Dev.setEng_prioStacks (i : Nat) (v : Engine) : (d.setEng i v).prioStacks = d.prioStacks := rfl
@[simp] theorem Dev.setEng_mboxes (i : Nat) (v : Engine) : (d.setEng i v).mboxes = d.mboxes := rfl
@[simp] theorem Dev.setEng_locks (i : Nat) (v : Engine) : (d.setEng i v).locks = d.locks := rfl
@[simp] theorem Dev.setEng_caddy (i : Nat) (v : Engine) : (d.setEng i v).caddy = d.caddy := rfl
@[simp] theorem Dev.setEng_cores (i : Nat) (v : Engine) : (d.setEng i v).cores = d.cores := rfl
@[simp] theorem Dev.setEng_gpi (i : Nat) (v : Engine) : (d.setEng i v).gpi = d.gpi := rfl
@[simp] theorem Dev.setEng_uarts (i : Nat) (v : Engine) : (d.setEng i v).uarts = d.uarts := rfl
@[simp] theorem Dev.setEng_spis (i : Nat) (v : Engine) : (d.setEng i v).spis = d.spis := rfl
@[simp] theorem Dev.setEng_i3cs (i : Nat) (v : Engine) : (d.setEng i v).i3cs = d.i3cs := rfl
@[simp] theorem Dev.setEng_ecp (i : Nat) (v : Engine) : (d.setEng i v).ecp = d.ecp := rfl
@[simp] theorem Dev.setEng_lqs (i : Nat) (v : Engine) : (d.setEng i v).lqs = d.lqs := rfl
@[simp] theorem Dev.setEng_lastCqe (i : Nat) (v : Engine) : (d.setEng i v).lastCqe = d.lastCqe := rfl
@[simp] theorem Dev.setEng_wide (i : Nat) (v : Engine) : (d.setEng i v).wide = d.wide := rfl
@[simp] theorem Dev.setEng_movers (i : Nat) (v : Engine) : (d.setEng i v).movers = d.movers := rfl
@[simp] theorem Dev.setEng_mchans (i : Nat) (v : Engine) : (d.setEng i v).mchans = d.mchans := rfl
@[simp] theorem Dev.setEng_fifos (i : Nat) (v : Engine) : (d.setEng i v).fifos = d.fifos := rfl
@[simp] theorem Dev.setEng_xdt (i : Nat) (v : Engine) : (d.setEng i v).xdt = d.xdt := rfl
@[simp] theorem Dev.setEng_streams (i : Nat) (v : Engine) : (d.setEng i v).streams = d.streams := rfl
@[simp] theorem Dev.setEng_streamWait (i : Nat) (v : Engine) : (d.setEng i v).streamWait = d.streamWait := rfl
@[simp] theorem Dev.setEng_linkLevel (i : Nat) (v : Engine) : (d.setEng i v).linkLevel = d.linkLevel := rfl
@[simp] theorem Dev.setEng_doms (i : Nat) (v : Engine) : (d.setEng i v).doms = d.doms := rfl
@[simp] theorem Dev.setEng_lats (i : Nat) (v : Engine) : (d.setEng i v).lats = d.lats := rfl
@[simp] theorem Dev.setEng_eins (i : Nat) (v : Engine) : (d.setEng i v).eins = d.eins := rfl
@[simp] theorem Dev.setEng_eouts (i : Nat) (v : Engine) : (d.setEng i v).eouts = d.eouts := rfl
@[simp] theorem Dev.setEng_slots (i : Nat) (v : Engine) : (d.setEng i v).slots = d.slots := rfl
@[simp] theorem Dev.setEng_regions (i : Nat) (v : Engine) : (d.setEng i v).regions = d.regions := rfl
@[simp] theorem Dev.setEng_pmic (i : Nat) (v : Engine) : (d.setEng i v).pmic = d.pmic := rfl
@[simp] theorem Dev.setEng_faults (i : Nat) (v : Engine) : (d.setEng i v).faults = d.faults := rfl
@[simp] theorem Dev.setEng_arbs (i : Nat) (v : Engine) : (d.setEng i v).arbs = d.arbs := rfl
@[simp] theorem Dev.setEng_boot (i : Nat) (v : Engine) : (d.setEng i v).boot = d.boot := rfl
@[simp] theorem Dev.setEng_dap (i : Nat) (v : Engine) : (d.setEng i v).dap = d.dap := rfl
@[simp] theorem Dev.setEng_links (i : Nat) (v : Engine) : (d.setEng i v).links = d.links := rfl
@[simp] theorem Dev.setEng_hwtHeld (i : Nat) (v : Engine) : (d.setEng i v).hwtHeld = d.hwtHeld := rfl
@[simp] theorem Dev.setEng_quiesce (i : Nat) (v : Engine) : (d.setEng i v).quiesce = d.quiesce := rfl
@[simp] theorem Dev.setEng_held (i : Nat) (v : Engine) : (d.setEng i v).held = d.held := rfl
@[simp] theorem Dev.setEng_portA (i : Nat) (v : Engine) : (d.setEng i v).portA = d.portA := rfl
@[simp] theorem Dev.setEng_portB (i : Nat) (v : Engine) : (d.setEng i v).portB = d.portB := rfl
@[simp] theorem Dev.setEng_sent (i : Nat) (v : Engine) : (d.setEng i v).sent = d.sent := rfl
@[simp] theorem Dev.setEng_cpl (i : Nat) (v : Engine) : (d.setEng i v).cpl = d.cpl := rfl
@[simp] theorem Dev.setEng_resp (i : Nat) (v : Engine) : (d.setEng i v).resp = d.resp := rfl
@[simp] theorem Dev.setEng_freeCtr (i : Nat) (v : Engine) : (d.setEng i v).freeCtr = d.freeCtr := rfl
@[simp] theorem Dev.setEng_seq (i : Nat) (v : Engine) : (d.setEng i v).seq = d.seq := rfl

/-! `setImage` -/

@[simp] theorem Dev.setImage_regs (i : Nat) (v : Image) : (d.setImage i v).regs = d.regs := rfl
@[simp] theorem Dev.setImage_enPend (i : Nat) (v : Image) : (d.setImage i v).enPend = d.enPend := rfl
@[simp] theorem Dev.setImage_cfg (i : Nat) (v : Image) : (d.setImage i v).cfg = d.cfg := rfl
@[simp] theorem Dev.setImage_shadow (i : Nat) (v : Image) : (d.setImage i v).shadow = d.shadow := rfl
@[simp] theorem Dev.setImage_banked (i : Nat) (v : Image) : (d.setImage i v).banked = d.banked := rfl
@[simp] theorem Dev.setImage_mem (i : Nat) (v : Image) : (d.setImage i v).mem = d.mem := rfl
@[simp] theorem Dev.setImage_poison (i : Nat) (v : Image) : (d.setImage i v).poison = d.poison := rfl
@[simp] theorem Dev.setImage_hostMem (i : Nat) (v : Image) : (d.setImage i v).hostMem = d.hostMem := rfl
@[simp] theorem Dev.setImage_pacer (i : Nat) (v : Image) : (d.setImage i v).pacer = d.pacer := rfl
@[simp] theorem Dev.setImage_wl (i : Nat) (v : Image) : (d.setImage i v).wl = d.wl := rfl
@[simp] theorem Dev.setImage_ledger (i : Nat) (v : Image) : (d.setImage i v).ledger = d.ledger := rfl
@[simp] theorem Dev.setImage_gov (i : Nat) (v : Image) : (d.setImage i v).gov = d.gov := rfl
@[simp] theorem Dev.setImage_scbs (i : Nat) (v : Image) : (d.setImage i v).scbs = d.scbs := rfl
@[simp] theorem Dev.setImage_ctxs (i : Nat) (v : Image) : (d.setImage i v).ctxs = d.ctxs := rfl
@[simp] theorem Dev.setImage_engines (i : Nat) (v : Image) : (d.setImage i v).engines = d.engines := rfl
@[simp] theorem Dev.setImage_hif (i : Nat) (v : Image) : (d.setImage i v).hif = d.hif := rfl
@[simp] theorem Dev.setImage_srcs (i : Nat) (v : Image) : (d.setImage i v).srcs = d.srcs := rfl
@[simp] theorem Dev.setImage_prioStacks (i : Nat) (v : Image) : (d.setImage i v).prioStacks = d.prioStacks := rfl
@[simp] theorem Dev.setImage_mboxes (i : Nat) (v : Image) : (d.setImage i v).mboxes = d.mboxes := rfl
@[simp] theorem Dev.setImage_locks (i : Nat) (v : Image) : (d.setImage i v).locks = d.locks := rfl
@[simp] theorem Dev.setImage_caddy (i : Nat) (v : Image) : (d.setImage i v).caddy = d.caddy := rfl
@[simp] theorem Dev.setImage_cores (i : Nat) (v : Image) : (d.setImage i v).cores = d.cores := rfl
@[simp] theorem Dev.setImage_gpi (i : Nat) (v : Image) : (d.setImage i v).gpi = d.gpi := rfl
@[simp] theorem Dev.setImage_uarts (i : Nat) (v : Image) : (d.setImage i v).uarts = d.uarts := rfl
@[simp] theorem Dev.setImage_spis (i : Nat) (v : Image) : (d.setImage i v).spis = d.spis := rfl
@[simp] theorem Dev.setImage_i3cs (i : Nat) (v : Image) : (d.setImage i v).i3cs = d.i3cs := rfl
@[simp] theorem Dev.setImage_ecp (i : Nat) (v : Image) : (d.setImage i v).ecp = d.ecp := rfl
@[simp] theorem Dev.setImage_lqs (i : Nat) (v : Image) : (d.setImage i v).lqs = d.lqs := rfl
@[simp] theorem Dev.setImage_lastCqe (i : Nat) (v : Image) : (d.setImage i v).lastCqe = d.lastCqe := rfl
@[simp] theorem Dev.setImage_wide (i : Nat) (v : Image) : (d.setImage i v).wide = d.wide := rfl
@[simp] theorem Dev.setImage_movers (i : Nat) (v : Image) : (d.setImage i v).movers = d.movers := rfl
@[simp] theorem Dev.setImage_mchans (i : Nat) (v : Image) : (d.setImage i v).mchans = d.mchans := rfl
@[simp] theorem Dev.setImage_fifos (i : Nat) (v : Image) : (d.setImage i v).fifos = d.fifos := rfl
@[simp] theorem Dev.setImage_xdt (i : Nat) (v : Image) : (d.setImage i v).xdt = d.xdt := rfl
@[simp] theorem Dev.setImage_streams (i : Nat) (v : Image) : (d.setImage i v).streams = d.streams := rfl
@[simp] theorem Dev.setImage_streamWait (i : Nat) (v : Image) : (d.setImage i v).streamWait = d.streamWait := rfl
@[simp] theorem Dev.setImage_linkLevel (i : Nat) (v : Image) : (d.setImage i v).linkLevel = d.linkLevel := rfl
@[simp] theorem Dev.setImage_doms (i : Nat) (v : Image) : (d.setImage i v).doms = d.doms := rfl
@[simp] theorem Dev.setImage_lats (i : Nat) (v : Image) : (d.setImage i v).lats = d.lats := rfl
@[simp] theorem Dev.setImage_eins (i : Nat) (v : Image) : (d.setImage i v).eins = d.eins := rfl
@[simp] theorem Dev.setImage_eouts (i : Nat) (v : Image) : (d.setImage i v).eouts = d.eouts := rfl
@[simp] theorem Dev.setImage_slots (i : Nat) (v : Image) : (d.setImage i v).slots = d.slots := rfl
@[simp] theorem Dev.setImage_regions (i : Nat) (v : Image) : (d.setImage i v).regions = d.regions := rfl
@[simp] theorem Dev.setImage_pmic (i : Nat) (v : Image) : (d.setImage i v).pmic = d.pmic := rfl
@[simp] theorem Dev.setImage_faults (i : Nat) (v : Image) : (d.setImage i v).faults = d.faults := rfl
@[simp] theorem Dev.setImage_arbs (i : Nat) (v : Image) : (d.setImage i v).arbs = d.arbs := rfl
@[simp] theorem Dev.setImage_boot (i : Nat) (v : Image) : (d.setImage i v).boot = d.boot := rfl
@[simp] theorem Dev.setImage_dap (i : Nat) (v : Image) : (d.setImage i v).dap = d.dap := rfl
@[simp] theorem Dev.setImage_links (i : Nat) (v : Image) : (d.setImage i v).links = d.links := rfl
@[simp] theorem Dev.setImage_hwtHeld (i : Nat) (v : Image) : (d.setImage i v).hwtHeld = d.hwtHeld := rfl
@[simp] theorem Dev.setImage_quiesce (i : Nat) (v : Image) : (d.setImage i v).quiesce = d.quiesce := rfl
@[simp] theorem Dev.setImage_held (i : Nat) (v : Image) : (d.setImage i v).held = d.held := rfl
@[simp] theorem Dev.setImage_portA (i : Nat) (v : Image) : (d.setImage i v).portA = d.portA := rfl
@[simp] theorem Dev.setImage_portB (i : Nat) (v : Image) : (d.setImage i v).portB = d.portB := rfl
@[simp] theorem Dev.setImage_sent (i : Nat) (v : Image) : (d.setImage i v).sent = d.sent := rfl
@[simp] theorem Dev.setImage_cpl (i : Nat) (v : Image) : (d.setImage i v).cpl = d.cpl := rfl
@[simp] theorem Dev.setImage_resp (i : Nat) (v : Image) : (d.setImage i v).resp = d.resp := rfl
@[simp] theorem Dev.setImage_freeCtr (i : Nat) (v : Image) : (d.setImage i v).freeCtr = d.freeCtr := rfl
@[simp] theorem Dev.setImage_seq (i : Nat) (v : Image) : (d.setImage i v).seq = d.seq := rfl

/-! `setSrc` -/

@[simp] theorem Dev.setSrc_regs (i : Nat) (v : Src) : (d.setSrc i v).regs = d.regs := rfl
@[simp] theorem Dev.setSrc_enPend (i : Nat) (v : Src) : (d.setSrc i v).enPend = d.enPend := rfl
@[simp] theorem Dev.setSrc_cfg (i : Nat) (v : Src) : (d.setSrc i v).cfg = d.cfg := rfl
@[simp] theorem Dev.setSrc_shadow (i : Nat) (v : Src) : (d.setSrc i v).shadow = d.shadow := rfl
@[simp] theorem Dev.setSrc_banked (i : Nat) (v : Src) : (d.setSrc i v).banked = d.banked := rfl
@[simp] theorem Dev.setSrc_mem (i : Nat) (v : Src) : (d.setSrc i v).mem = d.mem := rfl
@[simp] theorem Dev.setSrc_poison (i : Nat) (v : Src) : (d.setSrc i v).poison = d.poison := rfl
@[simp] theorem Dev.setSrc_hostMem (i : Nat) (v : Src) : (d.setSrc i v).hostMem = d.hostMem := rfl
@[simp] theorem Dev.setSrc_pacer (i : Nat) (v : Src) : (d.setSrc i v).pacer = d.pacer := rfl
@[simp] theorem Dev.setSrc_wl (i : Nat) (v : Src) : (d.setSrc i v).wl = d.wl := rfl
@[simp] theorem Dev.setSrc_ledger (i : Nat) (v : Src) : (d.setSrc i v).ledger = d.ledger := rfl
@[simp] theorem Dev.setSrc_gov (i : Nat) (v : Src) : (d.setSrc i v).gov = d.gov := rfl
@[simp] theorem Dev.setSrc_scbs (i : Nat) (v : Src) : (d.setSrc i v).scbs = d.scbs := rfl
@[simp] theorem Dev.setSrc_ctxs (i : Nat) (v : Src) : (d.setSrc i v).ctxs = d.ctxs := rfl
@[simp] theorem Dev.setSrc_engines (i : Nat) (v : Src) : (d.setSrc i v).engines = d.engines := rfl
@[simp] theorem Dev.setSrc_images (i : Nat) (v : Src) : (d.setSrc i v).images = d.images := rfl
@[simp] theorem Dev.setSrc_hif (i : Nat) (v : Src) : (d.setSrc i v).hif = d.hif := rfl
@[simp] theorem Dev.setSrc_prioStacks (i : Nat) (v : Src) : (d.setSrc i v).prioStacks = d.prioStacks := rfl
@[simp] theorem Dev.setSrc_mboxes (i : Nat) (v : Src) : (d.setSrc i v).mboxes = d.mboxes := rfl
@[simp] theorem Dev.setSrc_locks (i : Nat) (v : Src) : (d.setSrc i v).locks = d.locks := rfl
@[simp] theorem Dev.setSrc_caddy (i : Nat) (v : Src) : (d.setSrc i v).caddy = d.caddy := rfl
@[simp] theorem Dev.setSrc_cores (i : Nat) (v : Src) : (d.setSrc i v).cores = d.cores := rfl
@[simp] theorem Dev.setSrc_gpi (i : Nat) (v : Src) : (d.setSrc i v).gpi = d.gpi := rfl
@[simp] theorem Dev.setSrc_uarts (i : Nat) (v : Src) : (d.setSrc i v).uarts = d.uarts := rfl
@[simp] theorem Dev.setSrc_spis (i : Nat) (v : Src) : (d.setSrc i v).spis = d.spis := rfl
@[simp] theorem Dev.setSrc_i3cs (i : Nat) (v : Src) : (d.setSrc i v).i3cs = d.i3cs := rfl
@[simp] theorem Dev.setSrc_ecp (i : Nat) (v : Src) : (d.setSrc i v).ecp = d.ecp := rfl
@[simp] theorem Dev.setSrc_lqs (i : Nat) (v : Src) : (d.setSrc i v).lqs = d.lqs := rfl
@[simp] theorem Dev.setSrc_lastCqe (i : Nat) (v : Src) : (d.setSrc i v).lastCqe = d.lastCqe := rfl
@[simp] theorem Dev.setSrc_wide (i : Nat) (v : Src) : (d.setSrc i v).wide = d.wide := rfl
@[simp] theorem Dev.setSrc_movers (i : Nat) (v : Src) : (d.setSrc i v).movers = d.movers := rfl
@[simp] theorem Dev.setSrc_mchans (i : Nat) (v : Src) : (d.setSrc i v).mchans = d.mchans := rfl
@[simp] theorem Dev.setSrc_fifos (i : Nat) (v : Src) : (d.setSrc i v).fifos = d.fifos := rfl
@[simp] theorem Dev.setSrc_xdt (i : Nat) (v : Src) : (d.setSrc i v).xdt = d.xdt := rfl
@[simp] theorem Dev.setSrc_streams (i : Nat) (v : Src) : (d.setSrc i v).streams = d.streams := rfl
@[simp] theorem Dev.setSrc_streamWait (i : Nat) (v : Src) : (d.setSrc i v).streamWait = d.streamWait := rfl
@[simp] theorem Dev.setSrc_linkLevel (i : Nat) (v : Src) : (d.setSrc i v).linkLevel = d.linkLevel := rfl
@[simp] theorem Dev.setSrc_doms (i : Nat) (v : Src) : (d.setSrc i v).doms = d.doms := rfl
@[simp] theorem Dev.setSrc_lats (i : Nat) (v : Src) : (d.setSrc i v).lats = d.lats := rfl
@[simp] theorem Dev.setSrc_eins (i : Nat) (v : Src) : (d.setSrc i v).eins = d.eins := rfl
@[simp] theorem Dev.setSrc_eouts (i : Nat) (v : Src) : (d.setSrc i v).eouts = d.eouts := rfl
@[simp] theorem Dev.setSrc_slots (i : Nat) (v : Src) : (d.setSrc i v).slots = d.slots := rfl
@[simp] theorem Dev.setSrc_regions (i : Nat) (v : Src) : (d.setSrc i v).regions = d.regions := rfl
@[simp] theorem Dev.setSrc_pmic (i : Nat) (v : Src) : (d.setSrc i v).pmic = d.pmic := rfl
@[simp] theorem Dev.setSrc_faults (i : Nat) (v : Src) : (d.setSrc i v).faults = d.faults := rfl
@[simp] theorem Dev.setSrc_arbs (i : Nat) (v : Src) : (d.setSrc i v).arbs = d.arbs := rfl
@[simp] theorem Dev.setSrc_boot (i : Nat) (v : Src) : (d.setSrc i v).boot = d.boot := rfl
@[simp] theorem Dev.setSrc_dap (i : Nat) (v : Src) : (d.setSrc i v).dap = d.dap := rfl
@[simp] theorem Dev.setSrc_links (i : Nat) (v : Src) : (d.setSrc i v).links = d.links := rfl
@[simp] theorem Dev.setSrc_hwtHeld (i : Nat) (v : Src) : (d.setSrc i v).hwtHeld = d.hwtHeld := rfl
@[simp] theorem Dev.setSrc_quiesce (i : Nat) (v : Src) : (d.setSrc i v).quiesce = d.quiesce := rfl
@[simp] theorem Dev.setSrc_held (i : Nat) (v : Src) : (d.setSrc i v).held = d.held := rfl
@[simp] theorem Dev.setSrc_portA (i : Nat) (v : Src) : (d.setSrc i v).portA = d.portA := rfl
@[simp] theorem Dev.setSrc_portB (i : Nat) (v : Src) : (d.setSrc i v).portB = d.portB := rfl
@[simp] theorem Dev.setSrc_sent (i : Nat) (v : Src) : (d.setSrc i v).sent = d.sent := rfl
@[simp] theorem Dev.setSrc_cpl (i : Nat) (v : Src) : (d.setSrc i v).cpl = d.cpl := rfl
@[simp] theorem Dev.setSrc_resp (i : Nat) (v : Src) : (d.setSrc i v).resp = d.resp := rfl
@[simp] theorem Dev.setSrc_freeCtr (i : Nat) (v : Src) : (d.setSrc i v).freeCtr = d.freeCtr := rfl
@[simp] theorem Dev.setSrc_seq (i : Nat) (v : Src) : (d.setSrc i v).seq = d.seq := rfl

/-! `setMbox` -/

@[simp] theorem Dev.setMbox_regs (i : Nat) (v : Mbox) : (d.setMbox i v).regs = d.regs := rfl
@[simp] theorem Dev.setMbox_enPend (i : Nat) (v : Mbox) : (d.setMbox i v).enPend = d.enPend := rfl
@[simp] theorem Dev.setMbox_cfg (i : Nat) (v : Mbox) : (d.setMbox i v).cfg = d.cfg := rfl
@[simp] theorem Dev.setMbox_shadow (i : Nat) (v : Mbox) : (d.setMbox i v).shadow = d.shadow := rfl
@[simp] theorem Dev.setMbox_banked (i : Nat) (v : Mbox) : (d.setMbox i v).banked = d.banked := rfl
@[simp] theorem Dev.setMbox_mem (i : Nat) (v : Mbox) : (d.setMbox i v).mem = d.mem := rfl
@[simp] theorem Dev.setMbox_poison (i : Nat) (v : Mbox) : (d.setMbox i v).poison = d.poison := rfl
@[simp] theorem Dev.setMbox_hostMem (i : Nat) (v : Mbox) : (d.setMbox i v).hostMem = d.hostMem := rfl
@[simp] theorem Dev.setMbox_pacer (i : Nat) (v : Mbox) : (d.setMbox i v).pacer = d.pacer := rfl
@[simp] theorem Dev.setMbox_wl (i : Nat) (v : Mbox) : (d.setMbox i v).wl = d.wl := rfl
@[simp] theorem Dev.setMbox_ledger (i : Nat) (v : Mbox) : (d.setMbox i v).ledger = d.ledger := rfl
@[simp] theorem Dev.setMbox_gov (i : Nat) (v : Mbox) : (d.setMbox i v).gov = d.gov := rfl
@[simp] theorem Dev.setMbox_scbs (i : Nat) (v : Mbox) : (d.setMbox i v).scbs = d.scbs := rfl
@[simp] theorem Dev.setMbox_ctxs (i : Nat) (v : Mbox) : (d.setMbox i v).ctxs = d.ctxs := rfl
@[simp] theorem Dev.setMbox_engines (i : Nat) (v : Mbox) : (d.setMbox i v).engines = d.engines := rfl
@[simp] theorem Dev.setMbox_images (i : Nat) (v : Mbox) : (d.setMbox i v).images = d.images := rfl
@[simp] theorem Dev.setMbox_hif (i : Nat) (v : Mbox) : (d.setMbox i v).hif = d.hif := rfl
@[simp] theorem Dev.setMbox_srcs (i : Nat) (v : Mbox) : (d.setMbox i v).srcs = d.srcs := rfl
@[simp] theorem Dev.setMbox_prioStacks (i : Nat) (v : Mbox) : (d.setMbox i v).prioStacks = d.prioStacks := rfl
@[simp] theorem Dev.setMbox_locks (i : Nat) (v : Mbox) : (d.setMbox i v).locks = d.locks := rfl
@[simp] theorem Dev.setMbox_caddy (i : Nat) (v : Mbox) : (d.setMbox i v).caddy = d.caddy := rfl
@[simp] theorem Dev.setMbox_cores (i : Nat) (v : Mbox) : (d.setMbox i v).cores = d.cores := rfl
@[simp] theorem Dev.setMbox_gpi (i : Nat) (v : Mbox) : (d.setMbox i v).gpi = d.gpi := rfl
@[simp] theorem Dev.setMbox_uarts (i : Nat) (v : Mbox) : (d.setMbox i v).uarts = d.uarts := rfl
@[simp] theorem Dev.setMbox_spis (i : Nat) (v : Mbox) : (d.setMbox i v).spis = d.spis := rfl
@[simp] theorem Dev.setMbox_i3cs (i : Nat) (v : Mbox) : (d.setMbox i v).i3cs = d.i3cs := rfl
@[simp] theorem Dev.setMbox_ecp (i : Nat) (v : Mbox) : (d.setMbox i v).ecp = d.ecp := rfl
@[simp] theorem Dev.setMbox_lqs (i : Nat) (v : Mbox) : (d.setMbox i v).lqs = d.lqs := rfl
@[simp] theorem Dev.setMbox_lastCqe (i : Nat) (v : Mbox) : (d.setMbox i v).lastCqe = d.lastCqe := rfl
@[simp] theorem Dev.setMbox_wide (i : Nat) (v : Mbox) : (d.setMbox i v).wide = d.wide := rfl
@[simp] theorem Dev.setMbox_movers (i : Nat) (v : Mbox) : (d.setMbox i v).movers = d.movers := rfl
@[simp] theorem Dev.setMbox_mchans (i : Nat) (v : Mbox) : (d.setMbox i v).mchans = d.mchans := rfl
@[simp] theorem Dev.setMbox_fifos (i : Nat) (v : Mbox) : (d.setMbox i v).fifos = d.fifos := rfl
@[simp] theorem Dev.setMbox_xdt (i : Nat) (v : Mbox) : (d.setMbox i v).xdt = d.xdt := rfl
@[simp] theorem Dev.setMbox_streams (i : Nat) (v : Mbox) : (d.setMbox i v).streams = d.streams := rfl
@[simp] theorem Dev.setMbox_streamWait (i : Nat) (v : Mbox) : (d.setMbox i v).streamWait = d.streamWait := rfl
@[simp] theorem Dev.setMbox_linkLevel (i : Nat) (v : Mbox) : (d.setMbox i v).linkLevel = d.linkLevel := rfl
@[simp] theorem Dev.setMbox_doms (i : Nat) (v : Mbox) : (d.setMbox i v).doms = d.doms := rfl
@[simp] theorem Dev.setMbox_lats (i : Nat) (v : Mbox) : (d.setMbox i v).lats = d.lats := rfl
@[simp] theorem Dev.setMbox_eins (i : Nat) (v : Mbox) : (d.setMbox i v).eins = d.eins := rfl
@[simp] theorem Dev.setMbox_eouts (i : Nat) (v : Mbox) : (d.setMbox i v).eouts = d.eouts := rfl
@[simp] theorem Dev.setMbox_slots (i : Nat) (v : Mbox) : (d.setMbox i v).slots = d.slots := rfl
@[simp] theorem Dev.setMbox_regions (i : Nat) (v : Mbox) : (d.setMbox i v).regions = d.regions := rfl
@[simp] theorem Dev.setMbox_pmic (i : Nat) (v : Mbox) : (d.setMbox i v).pmic = d.pmic := rfl
@[simp] theorem Dev.setMbox_faults (i : Nat) (v : Mbox) : (d.setMbox i v).faults = d.faults := rfl
@[simp] theorem Dev.setMbox_arbs (i : Nat) (v : Mbox) : (d.setMbox i v).arbs = d.arbs := rfl
@[simp] theorem Dev.setMbox_boot (i : Nat) (v : Mbox) : (d.setMbox i v).boot = d.boot := rfl
@[simp] theorem Dev.setMbox_dap (i : Nat) (v : Mbox) : (d.setMbox i v).dap = d.dap := rfl
@[simp] theorem Dev.setMbox_links (i : Nat) (v : Mbox) : (d.setMbox i v).links = d.links := rfl
@[simp] theorem Dev.setMbox_hwtHeld (i : Nat) (v : Mbox) : (d.setMbox i v).hwtHeld = d.hwtHeld := rfl
@[simp] theorem Dev.setMbox_quiesce (i : Nat) (v : Mbox) : (d.setMbox i v).quiesce = d.quiesce := rfl
@[simp] theorem Dev.setMbox_held (i : Nat) (v : Mbox) : (d.setMbox i v).held = d.held := rfl
@[simp] theorem Dev.setMbox_portA (i : Nat) (v : Mbox) : (d.setMbox i v).portA = d.portA := rfl
@[simp] theorem Dev.setMbox_portB (i : Nat) (v : Mbox) : (d.setMbox i v).portB = d.portB := rfl
@[simp] theorem Dev.setMbox_sent (i : Nat) (v : Mbox) : (d.setMbox i v).sent = d.sent := rfl
@[simp] theorem Dev.setMbox_cpl (i : Nat) (v : Mbox) : (d.setMbox i v).cpl = d.cpl := rfl
@[simp] theorem Dev.setMbox_resp (i : Nat) (v : Mbox) : (d.setMbox i v).resp = d.resp := rfl
@[simp] theorem Dev.setMbox_freeCtr (i : Nat) (v : Mbox) : (d.setMbox i v).freeCtr = d.freeCtr := rfl
@[simp] theorem Dev.setMbox_seq (i : Nat) (v : Mbox) : (d.setMbox i v).seq = d.seq := rfl

/-! `setLock` -/

@[simp] theorem Dev.setLock_regs (i : Nat) (v : Lock) : (d.setLock i v).regs = d.regs := rfl
@[simp] theorem Dev.setLock_enPend (i : Nat) (v : Lock) : (d.setLock i v).enPend = d.enPend := rfl
@[simp] theorem Dev.setLock_cfg (i : Nat) (v : Lock) : (d.setLock i v).cfg = d.cfg := rfl
@[simp] theorem Dev.setLock_shadow (i : Nat) (v : Lock) : (d.setLock i v).shadow = d.shadow := rfl
@[simp] theorem Dev.setLock_banked (i : Nat) (v : Lock) : (d.setLock i v).banked = d.banked := rfl
@[simp] theorem Dev.setLock_mem (i : Nat) (v : Lock) : (d.setLock i v).mem = d.mem := rfl
@[simp] theorem Dev.setLock_poison (i : Nat) (v : Lock) : (d.setLock i v).poison = d.poison := rfl
@[simp] theorem Dev.setLock_hostMem (i : Nat) (v : Lock) : (d.setLock i v).hostMem = d.hostMem := rfl
@[simp] theorem Dev.setLock_pacer (i : Nat) (v : Lock) : (d.setLock i v).pacer = d.pacer := rfl
@[simp] theorem Dev.setLock_wl (i : Nat) (v : Lock) : (d.setLock i v).wl = d.wl := rfl
@[simp] theorem Dev.setLock_ledger (i : Nat) (v : Lock) : (d.setLock i v).ledger = d.ledger := rfl
@[simp] theorem Dev.setLock_gov (i : Nat) (v : Lock) : (d.setLock i v).gov = d.gov := rfl
@[simp] theorem Dev.setLock_scbs (i : Nat) (v : Lock) : (d.setLock i v).scbs = d.scbs := rfl
@[simp] theorem Dev.setLock_ctxs (i : Nat) (v : Lock) : (d.setLock i v).ctxs = d.ctxs := rfl
@[simp] theorem Dev.setLock_engines (i : Nat) (v : Lock) : (d.setLock i v).engines = d.engines := rfl
@[simp] theorem Dev.setLock_images (i : Nat) (v : Lock) : (d.setLock i v).images = d.images := rfl
@[simp] theorem Dev.setLock_hif (i : Nat) (v : Lock) : (d.setLock i v).hif = d.hif := rfl
@[simp] theorem Dev.setLock_srcs (i : Nat) (v : Lock) : (d.setLock i v).srcs = d.srcs := rfl
@[simp] theorem Dev.setLock_prioStacks (i : Nat) (v : Lock) : (d.setLock i v).prioStacks = d.prioStacks := rfl
@[simp] theorem Dev.setLock_mboxes (i : Nat) (v : Lock) : (d.setLock i v).mboxes = d.mboxes := rfl
@[simp] theorem Dev.setLock_caddy (i : Nat) (v : Lock) : (d.setLock i v).caddy = d.caddy := rfl
@[simp] theorem Dev.setLock_cores (i : Nat) (v : Lock) : (d.setLock i v).cores = d.cores := rfl
@[simp] theorem Dev.setLock_gpi (i : Nat) (v : Lock) : (d.setLock i v).gpi = d.gpi := rfl
@[simp] theorem Dev.setLock_uarts (i : Nat) (v : Lock) : (d.setLock i v).uarts = d.uarts := rfl
@[simp] theorem Dev.setLock_spis (i : Nat) (v : Lock) : (d.setLock i v).spis = d.spis := rfl
@[simp] theorem Dev.setLock_i3cs (i : Nat) (v : Lock) : (d.setLock i v).i3cs = d.i3cs := rfl
@[simp] theorem Dev.setLock_ecp (i : Nat) (v : Lock) : (d.setLock i v).ecp = d.ecp := rfl
@[simp] theorem Dev.setLock_lqs (i : Nat) (v : Lock) : (d.setLock i v).lqs = d.lqs := rfl
@[simp] theorem Dev.setLock_lastCqe (i : Nat) (v : Lock) : (d.setLock i v).lastCqe = d.lastCqe := rfl
@[simp] theorem Dev.setLock_wide (i : Nat) (v : Lock) : (d.setLock i v).wide = d.wide := rfl
@[simp] theorem Dev.setLock_movers (i : Nat) (v : Lock) : (d.setLock i v).movers = d.movers := rfl
@[simp] theorem Dev.setLock_mchans (i : Nat) (v : Lock) : (d.setLock i v).mchans = d.mchans := rfl
@[simp] theorem Dev.setLock_fifos (i : Nat) (v : Lock) : (d.setLock i v).fifos = d.fifos := rfl
@[simp] theorem Dev.setLock_xdt (i : Nat) (v : Lock) : (d.setLock i v).xdt = d.xdt := rfl
@[simp] theorem Dev.setLock_streams (i : Nat) (v : Lock) : (d.setLock i v).streams = d.streams := rfl
@[simp] theorem Dev.setLock_streamWait (i : Nat) (v : Lock) : (d.setLock i v).streamWait = d.streamWait := rfl
@[simp] theorem Dev.setLock_linkLevel (i : Nat) (v : Lock) : (d.setLock i v).linkLevel = d.linkLevel := rfl
@[simp] theorem Dev.setLock_doms (i : Nat) (v : Lock) : (d.setLock i v).doms = d.doms := rfl
@[simp] theorem Dev.setLock_lats (i : Nat) (v : Lock) : (d.setLock i v).lats = d.lats := rfl
@[simp] theorem Dev.setLock_eins (i : Nat) (v : Lock) : (d.setLock i v).eins = d.eins := rfl
@[simp] theorem Dev.setLock_eouts (i : Nat) (v : Lock) : (d.setLock i v).eouts = d.eouts := rfl
@[simp] theorem Dev.setLock_slots (i : Nat) (v : Lock) : (d.setLock i v).slots = d.slots := rfl
@[simp] theorem Dev.setLock_regions (i : Nat) (v : Lock) : (d.setLock i v).regions = d.regions := rfl
@[simp] theorem Dev.setLock_pmic (i : Nat) (v : Lock) : (d.setLock i v).pmic = d.pmic := rfl
@[simp] theorem Dev.setLock_faults (i : Nat) (v : Lock) : (d.setLock i v).faults = d.faults := rfl
@[simp] theorem Dev.setLock_arbs (i : Nat) (v : Lock) : (d.setLock i v).arbs = d.arbs := rfl
@[simp] theorem Dev.setLock_boot (i : Nat) (v : Lock) : (d.setLock i v).boot = d.boot := rfl
@[simp] theorem Dev.setLock_dap (i : Nat) (v : Lock) : (d.setLock i v).dap = d.dap := rfl
@[simp] theorem Dev.setLock_links (i : Nat) (v : Lock) : (d.setLock i v).links = d.links := rfl
@[simp] theorem Dev.setLock_hwtHeld (i : Nat) (v : Lock) : (d.setLock i v).hwtHeld = d.hwtHeld := rfl
@[simp] theorem Dev.setLock_quiesce (i : Nat) (v : Lock) : (d.setLock i v).quiesce = d.quiesce := rfl
@[simp] theorem Dev.setLock_held (i : Nat) (v : Lock) : (d.setLock i v).held = d.held := rfl
@[simp] theorem Dev.setLock_portA (i : Nat) (v : Lock) : (d.setLock i v).portA = d.portA := rfl
@[simp] theorem Dev.setLock_portB (i : Nat) (v : Lock) : (d.setLock i v).portB = d.portB := rfl
@[simp] theorem Dev.setLock_sent (i : Nat) (v : Lock) : (d.setLock i v).sent = d.sent := rfl
@[simp] theorem Dev.setLock_cpl (i : Nat) (v : Lock) : (d.setLock i v).cpl = d.cpl := rfl
@[simp] theorem Dev.setLock_resp (i : Nat) (v : Lock) : (d.setLock i v).resp = d.resp := rfl
@[simp] theorem Dev.setLock_freeCtr (i : Nat) (v : Lock) : (d.setLock i v).freeCtr = d.freeCtr := rfl
@[simp] theorem Dev.setLock_seq (i : Nat) (v : Lock) : (d.setLock i v).seq = d.seq := rfl

/-! `setDom` -/

@[simp] theorem Dev.setDom_regs (i : Nat) (v : Dom) : (d.setDom i v).regs = d.regs := rfl
@[simp] theorem Dev.setDom_enPend (i : Nat) (v : Dom) : (d.setDom i v).enPend = d.enPend := rfl
@[simp] theorem Dev.setDom_cfg (i : Nat) (v : Dom) : (d.setDom i v).cfg = d.cfg := rfl
@[simp] theorem Dev.setDom_shadow (i : Nat) (v : Dom) : (d.setDom i v).shadow = d.shadow := rfl
@[simp] theorem Dev.setDom_banked (i : Nat) (v : Dom) : (d.setDom i v).banked = d.banked := rfl
@[simp] theorem Dev.setDom_mem (i : Nat) (v : Dom) : (d.setDom i v).mem = d.mem := rfl
@[simp] theorem Dev.setDom_poison (i : Nat) (v : Dom) : (d.setDom i v).poison = d.poison := rfl
@[simp] theorem Dev.setDom_hostMem (i : Nat) (v : Dom) : (d.setDom i v).hostMem = d.hostMem := rfl
@[simp] theorem Dev.setDom_pacer (i : Nat) (v : Dom) : (d.setDom i v).pacer = d.pacer := rfl
@[simp] theorem Dev.setDom_wl (i : Nat) (v : Dom) : (d.setDom i v).wl = d.wl := rfl
@[simp] theorem Dev.setDom_ledger (i : Nat) (v : Dom) : (d.setDom i v).ledger = d.ledger := rfl
@[simp] theorem Dev.setDom_gov (i : Nat) (v : Dom) : (d.setDom i v).gov = d.gov := rfl
@[simp] theorem Dev.setDom_scbs (i : Nat) (v : Dom) : (d.setDom i v).scbs = d.scbs := rfl
@[simp] theorem Dev.setDom_ctxs (i : Nat) (v : Dom) : (d.setDom i v).ctxs = d.ctxs := rfl
@[simp] theorem Dev.setDom_engines (i : Nat) (v : Dom) : (d.setDom i v).engines = d.engines := rfl
@[simp] theorem Dev.setDom_images (i : Nat) (v : Dom) : (d.setDom i v).images = d.images := rfl
@[simp] theorem Dev.setDom_hif (i : Nat) (v : Dom) : (d.setDom i v).hif = d.hif := rfl
@[simp] theorem Dev.setDom_srcs (i : Nat) (v : Dom) : (d.setDom i v).srcs = d.srcs := rfl
@[simp] theorem Dev.setDom_prioStacks (i : Nat) (v : Dom) : (d.setDom i v).prioStacks = d.prioStacks := rfl
@[simp] theorem Dev.setDom_mboxes (i : Nat) (v : Dom) : (d.setDom i v).mboxes = d.mboxes := rfl
@[simp] theorem Dev.setDom_locks (i : Nat) (v : Dom) : (d.setDom i v).locks = d.locks := rfl
@[simp] theorem Dev.setDom_caddy (i : Nat) (v : Dom) : (d.setDom i v).caddy = d.caddy := rfl
@[simp] theorem Dev.setDom_cores (i : Nat) (v : Dom) : (d.setDom i v).cores = d.cores := rfl
@[simp] theorem Dev.setDom_gpi (i : Nat) (v : Dom) : (d.setDom i v).gpi = d.gpi := rfl
@[simp] theorem Dev.setDom_uarts (i : Nat) (v : Dom) : (d.setDom i v).uarts = d.uarts := rfl
@[simp] theorem Dev.setDom_spis (i : Nat) (v : Dom) : (d.setDom i v).spis = d.spis := rfl
@[simp] theorem Dev.setDom_i3cs (i : Nat) (v : Dom) : (d.setDom i v).i3cs = d.i3cs := rfl
@[simp] theorem Dev.setDom_ecp (i : Nat) (v : Dom) : (d.setDom i v).ecp = d.ecp := rfl
@[simp] theorem Dev.setDom_lqs (i : Nat) (v : Dom) : (d.setDom i v).lqs = d.lqs := rfl
@[simp] theorem Dev.setDom_lastCqe (i : Nat) (v : Dom) : (d.setDom i v).lastCqe = d.lastCqe := rfl
@[simp] theorem Dev.setDom_wide (i : Nat) (v : Dom) : (d.setDom i v).wide = d.wide := rfl
@[simp] theorem Dev.setDom_movers (i : Nat) (v : Dom) : (d.setDom i v).movers = d.movers := rfl
@[simp] theorem Dev.setDom_mchans (i : Nat) (v : Dom) : (d.setDom i v).mchans = d.mchans := rfl
@[simp] theorem Dev.setDom_fifos (i : Nat) (v : Dom) : (d.setDom i v).fifos = d.fifos := rfl
@[simp] theorem Dev.setDom_xdt (i : Nat) (v : Dom) : (d.setDom i v).xdt = d.xdt := rfl
@[simp] theorem Dev.setDom_streams (i : Nat) (v : Dom) : (d.setDom i v).streams = d.streams := rfl
@[simp] theorem Dev.setDom_streamWait (i : Nat) (v : Dom) : (d.setDom i v).streamWait = d.streamWait := rfl
@[simp] theorem Dev.setDom_linkLevel (i : Nat) (v : Dom) : (d.setDom i v).linkLevel = d.linkLevel := rfl
@[simp] theorem Dev.setDom_lats (i : Nat) (v : Dom) : (d.setDom i v).lats = d.lats := rfl
@[simp] theorem Dev.setDom_eins (i : Nat) (v : Dom) : (d.setDom i v).eins = d.eins := rfl
@[simp] theorem Dev.setDom_eouts (i : Nat) (v : Dom) : (d.setDom i v).eouts = d.eouts := rfl
@[simp] theorem Dev.setDom_slots (i : Nat) (v : Dom) : (d.setDom i v).slots = d.slots := rfl
@[simp] theorem Dev.setDom_regions (i : Nat) (v : Dom) : (d.setDom i v).regions = d.regions := rfl
@[simp] theorem Dev.setDom_pmic (i : Nat) (v : Dom) : (d.setDom i v).pmic = d.pmic := rfl
@[simp] theorem Dev.setDom_faults (i : Nat) (v : Dom) : (d.setDom i v).faults = d.faults := rfl
@[simp] theorem Dev.setDom_arbs (i : Nat) (v : Dom) : (d.setDom i v).arbs = d.arbs := rfl
@[simp] theorem Dev.setDom_boot (i : Nat) (v : Dom) : (d.setDom i v).boot = d.boot := rfl
@[simp] theorem Dev.setDom_dap (i : Nat) (v : Dom) : (d.setDom i v).dap = d.dap := rfl
@[simp] theorem Dev.setDom_links (i : Nat) (v : Dom) : (d.setDom i v).links = d.links := rfl
@[simp] theorem Dev.setDom_hwtHeld (i : Nat) (v : Dom) : (d.setDom i v).hwtHeld = d.hwtHeld := rfl
@[simp] theorem Dev.setDom_quiesce (i : Nat) (v : Dom) : (d.setDom i v).quiesce = d.quiesce := rfl
@[simp] theorem Dev.setDom_held (i : Nat) (v : Dom) : (d.setDom i v).held = d.held := rfl
@[simp] theorem Dev.setDom_portA (i : Nat) (v : Dom) : (d.setDom i v).portA = d.portA := rfl
@[simp] theorem Dev.setDom_portB (i : Nat) (v : Dom) : (d.setDom i v).portB = d.portB := rfl
@[simp] theorem Dev.setDom_sent (i : Nat) (v : Dom) : (d.setDom i v).sent = d.sent := rfl
@[simp] theorem Dev.setDom_cpl (i : Nat) (v : Dom) : (d.setDom i v).cpl = d.cpl := rfl
@[simp] theorem Dev.setDom_resp (i : Nat) (v : Dom) : (d.setDom i v).resp = d.resp := rfl
@[simp] theorem Dev.setDom_freeCtr (i : Nat) (v : Dom) : (d.setDom i v).freeCtr = d.freeCtr := rfl
@[simp] theorem Dev.setDom_seq (i : Nat) (v : Dom) : (d.setDom i v).seq = d.seq := rfl

/-! `setRegion` -/

@[simp] theorem Dev.setRegion_regs (i : Nat) (v : Region) : (d.setRegion i v).regs = d.regs := rfl
@[simp] theorem Dev.setRegion_enPend (i : Nat) (v : Region) : (d.setRegion i v).enPend = d.enPend := rfl
@[simp] theorem Dev.setRegion_cfg (i : Nat) (v : Region) : (d.setRegion i v).cfg = d.cfg := rfl
@[simp] theorem Dev.setRegion_shadow (i : Nat) (v : Region) : (d.setRegion i v).shadow = d.shadow := rfl
@[simp] theorem Dev.setRegion_banked (i : Nat) (v : Region) : (d.setRegion i v).banked = d.banked := rfl
@[simp] theorem Dev.setRegion_mem (i : Nat) (v : Region) : (d.setRegion i v).mem = d.mem := rfl
@[simp] theorem Dev.setRegion_poison (i : Nat) (v : Region) : (d.setRegion i v).poison = d.poison := rfl
@[simp] theorem Dev.setRegion_hostMem (i : Nat) (v : Region) : (d.setRegion i v).hostMem = d.hostMem := rfl
@[simp] theorem Dev.setRegion_pacer (i : Nat) (v : Region) : (d.setRegion i v).pacer = d.pacer := rfl
@[simp] theorem Dev.setRegion_wl (i : Nat) (v : Region) : (d.setRegion i v).wl = d.wl := rfl
@[simp] theorem Dev.setRegion_ledger (i : Nat) (v : Region) : (d.setRegion i v).ledger = d.ledger := rfl
@[simp] theorem Dev.setRegion_gov (i : Nat) (v : Region) : (d.setRegion i v).gov = d.gov := rfl
@[simp] theorem Dev.setRegion_scbs (i : Nat) (v : Region) : (d.setRegion i v).scbs = d.scbs := rfl
@[simp] theorem Dev.setRegion_ctxs (i : Nat) (v : Region) : (d.setRegion i v).ctxs = d.ctxs := rfl
@[simp] theorem Dev.setRegion_engines (i : Nat) (v : Region) : (d.setRegion i v).engines = d.engines := rfl
@[simp] theorem Dev.setRegion_images (i : Nat) (v : Region) : (d.setRegion i v).images = d.images := rfl
@[simp] theorem Dev.setRegion_hif (i : Nat) (v : Region) : (d.setRegion i v).hif = d.hif := rfl
@[simp] theorem Dev.setRegion_srcs (i : Nat) (v : Region) : (d.setRegion i v).srcs = d.srcs := rfl
@[simp] theorem Dev.setRegion_prioStacks (i : Nat) (v : Region) : (d.setRegion i v).prioStacks = d.prioStacks := rfl
@[simp] theorem Dev.setRegion_mboxes (i : Nat) (v : Region) : (d.setRegion i v).mboxes = d.mboxes := rfl
@[simp] theorem Dev.setRegion_locks (i : Nat) (v : Region) : (d.setRegion i v).locks = d.locks := rfl
@[simp] theorem Dev.setRegion_caddy (i : Nat) (v : Region) : (d.setRegion i v).caddy = d.caddy := rfl
@[simp] theorem Dev.setRegion_cores (i : Nat) (v : Region) : (d.setRegion i v).cores = d.cores := rfl
@[simp] theorem Dev.setRegion_gpi (i : Nat) (v : Region) : (d.setRegion i v).gpi = d.gpi := rfl
@[simp] theorem Dev.setRegion_uarts (i : Nat) (v : Region) : (d.setRegion i v).uarts = d.uarts := rfl
@[simp] theorem Dev.setRegion_spis (i : Nat) (v : Region) : (d.setRegion i v).spis = d.spis := rfl
@[simp] theorem Dev.setRegion_i3cs (i : Nat) (v : Region) : (d.setRegion i v).i3cs = d.i3cs := rfl
@[simp] theorem Dev.setRegion_ecp (i : Nat) (v : Region) : (d.setRegion i v).ecp = d.ecp := rfl
@[simp] theorem Dev.setRegion_lqs (i : Nat) (v : Region) : (d.setRegion i v).lqs = d.lqs := rfl
@[simp] theorem Dev.setRegion_lastCqe (i : Nat) (v : Region) : (d.setRegion i v).lastCqe = d.lastCqe := rfl
@[simp] theorem Dev.setRegion_wide (i : Nat) (v : Region) : (d.setRegion i v).wide = d.wide := rfl
@[simp] theorem Dev.setRegion_movers (i : Nat) (v : Region) : (d.setRegion i v).movers = d.movers := rfl
@[simp] theorem Dev.setRegion_mchans (i : Nat) (v : Region) : (d.setRegion i v).mchans = d.mchans := rfl
@[simp] theorem Dev.setRegion_fifos (i : Nat) (v : Region) : (d.setRegion i v).fifos = d.fifos := rfl
@[simp] theorem Dev.setRegion_xdt (i : Nat) (v : Region) : (d.setRegion i v).xdt = d.xdt := rfl
@[simp] theorem Dev.setRegion_streams (i : Nat) (v : Region) : (d.setRegion i v).streams = d.streams := rfl
@[simp] theorem Dev.setRegion_streamWait (i : Nat) (v : Region) : (d.setRegion i v).streamWait = d.streamWait := rfl
@[simp] theorem Dev.setRegion_linkLevel (i : Nat) (v : Region) : (d.setRegion i v).linkLevel = d.linkLevel := rfl
@[simp] theorem Dev.setRegion_doms (i : Nat) (v : Region) : (d.setRegion i v).doms = d.doms := rfl
@[simp] theorem Dev.setRegion_lats (i : Nat) (v : Region) : (d.setRegion i v).lats = d.lats := rfl
@[simp] theorem Dev.setRegion_eins (i : Nat) (v : Region) : (d.setRegion i v).eins = d.eins := rfl
@[simp] theorem Dev.setRegion_eouts (i : Nat) (v : Region) : (d.setRegion i v).eouts = d.eouts := rfl
@[simp] theorem Dev.setRegion_slots (i : Nat) (v : Region) : (d.setRegion i v).slots = d.slots := rfl
@[simp] theorem Dev.setRegion_pmic (i : Nat) (v : Region) : (d.setRegion i v).pmic = d.pmic := rfl
@[simp] theorem Dev.setRegion_faults (i : Nat) (v : Region) : (d.setRegion i v).faults = d.faults := rfl
@[simp] theorem Dev.setRegion_arbs (i : Nat) (v : Region) : (d.setRegion i v).arbs = d.arbs := rfl
@[simp] theorem Dev.setRegion_boot (i : Nat) (v : Region) : (d.setRegion i v).boot = d.boot := rfl
@[simp] theorem Dev.setRegion_dap (i : Nat) (v : Region) : (d.setRegion i v).dap = d.dap := rfl
@[simp] theorem Dev.setRegion_links (i : Nat) (v : Region) : (d.setRegion i v).links = d.links := rfl
@[simp] theorem Dev.setRegion_hwtHeld (i : Nat) (v : Region) : (d.setRegion i v).hwtHeld = d.hwtHeld := rfl
@[simp] theorem Dev.setRegion_quiesce (i : Nat) (v : Region) : (d.setRegion i v).quiesce = d.quiesce := rfl
@[simp] theorem Dev.setRegion_held (i : Nat) (v : Region) : (d.setRegion i v).held = d.held := rfl
@[simp] theorem Dev.setRegion_portA (i : Nat) (v : Region) : (d.setRegion i v).portA = d.portA := rfl
@[simp] theorem Dev.setRegion_portB (i : Nat) (v : Region) : (d.setRegion i v).portB = d.portB := rfl
@[simp] theorem Dev.setRegion_sent (i : Nat) (v : Region) : (d.setRegion i v).sent = d.sent := rfl
@[simp] theorem Dev.setRegion_cpl (i : Nat) (v : Region) : (d.setRegion i v).cpl = d.cpl := rfl
@[simp] theorem Dev.setRegion_resp (i : Nat) (v : Region) : (d.setRegion i v).resp = d.resp := rfl
@[simp] theorem Dev.setRegion_freeCtr (i : Nat) (v : Region) : (d.setRegion i v).freeCtr = d.freeCtr := rfl
@[simp] theorem Dev.setRegion_seq (i : Nat) (v : Region) : (d.setRegion i v).seq = d.seq := rfl

/-! `setCore` -/

@[simp] theorem Dev.setCore_regs (i : Nat) (v : Core) : (d.setCore i v).regs = d.regs := rfl
@[simp] theorem Dev.setCore_enPend (i : Nat) (v : Core) : (d.setCore i v).enPend = d.enPend := rfl
@[simp] theorem Dev.setCore_cfg (i : Nat) (v : Core) : (d.setCore i v).cfg = d.cfg := rfl
@[simp] theorem Dev.setCore_shadow (i : Nat) (v : Core) : (d.setCore i v).shadow = d.shadow := rfl
@[simp] theorem Dev.setCore_banked (i : Nat) (v : Core) : (d.setCore i v).banked = d.banked := rfl
@[simp] theorem Dev.setCore_mem (i : Nat) (v : Core) : (d.setCore i v).mem = d.mem := rfl
@[simp] theorem Dev.setCore_poison (i : Nat) (v : Core) : (d.setCore i v).poison = d.poison := rfl
@[simp] theorem Dev.setCore_hostMem (i : Nat) (v : Core) : (d.setCore i v).hostMem = d.hostMem := rfl
@[simp] theorem Dev.setCore_pacer (i : Nat) (v : Core) : (d.setCore i v).pacer = d.pacer := rfl
@[simp] theorem Dev.setCore_wl (i : Nat) (v : Core) : (d.setCore i v).wl = d.wl := rfl
@[simp] theorem Dev.setCore_ledger (i : Nat) (v : Core) : (d.setCore i v).ledger = d.ledger := rfl
@[simp] theorem Dev.setCore_gov (i : Nat) (v : Core) : (d.setCore i v).gov = d.gov := rfl
@[simp] theorem Dev.setCore_scbs (i : Nat) (v : Core) : (d.setCore i v).scbs = d.scbs := rfl
@[simp] theorem Dev.setCore_ctxs (i : Nat) (v : Core) : (d.setCore i v).ctxs = d.ctxs := rfl
@[simp] theorem Dev.setCore_engines (i : Nat) (v : Core) : (d.setCore i v).engines = d.engines := rfl
@[simp] theorem Dev.setCore_images (i : Nat) (v : Core) : (d.setCore i v).images = d.images := rfl
@[simp] theorem Dev.setCore_hif (i : Nat) (v : Core) : (d.setCore i v).hif = d.hif := rfl
@[simp] theorem Dev.setCore_srcs (i : Nat) (v : Core) : (d.setCore i v).srcs = d.srcs := rfl
@[simp] theorem Dev.setCore_prioStacks (i : Nat) (v : Core) : (d.setCore i v).prioStacks = d.prioStacks := rfl
@[simp] theorem Dev.setCore_mboxes (i : Nat) (v : Core) : (d.setCore i v).mboxes = d.mboxes := rfl
@[simp] theorem Dev.setCore_locks (i : Nat) (v : Core) : (d.setCore i v).locks = d.locks := rfl
@[simp] theorem Dev.setCore_caddy (i : Nat) (v : Core) : (d.setCore i v).caddy = d.caddy := rfl
@[simp] theorem Dev.setCore_gpi (i : Nat) (v : Core) : (d.setCore i v).gpi = d.gpi := rfl
@[simp] theorem Dev.setCore_uarts (i : Nat) (v : Core) : (d.setCore i v).uarts = d.uarts := rfl
@[simp] theorem Dev.setCore_spis (i : Nat) (v : Core) : (d.setCore i v).spis = d.spis := rfl
@[simp] theorem Dev.setCore_i3cs (i : Nat) (v : Core) : (d.setCore i v).i3cs = d.i3cs := rfl
@[simp] theorem Dev.setCore_ecp (i : Nat) (v : Core) : (d.setCore i v).ecp = d.ecp := rfl
@[simp] theorem Dev.setCore_lqs (i : Nat) (v : Core) : (d.setCore i v).lqs = d.lqs := rfl
@[simp] theorem Dev.setCore_lastCqe (i : Nat) (v : Core) : (d.setCore i v).lastCqe = d.lastCqe := rfl
@[simp] theorem Dev.setCore_wide (i : Nat) (v : Core) : (d.setCore i v).wide = d.wide := rfl
@[simp] theorem Dev.setCore_movers (i : Nat) (v : Core) : (d.setCore i v).movers = d.movers := rfl
@[simp] theorem Dev.setCore_mchans (i : Nat) (v : Core) : (d.setCore i v).mchans = d.mchans := rfl
@[simp] theorem Dev.setCore_fifos (i : Nat) (v : Core) : (d.setCore i v).fifos = d.fifos := rfl
@[simp] theorem Dev.setCore_xdt (i : Nat) (v : Core) : (d.setCore i v).xdt = d.xdt := rfl
@[simp] theorem Dev.setCore_streams (i : Nat) (v : Core) : (d.setCore i v).streams = d.streams := rfl
@[simp] theorem Dev.setCore_streamWait (i : Nat) (v : Core) : (d.setCore i v).streamWait = d.streamWait := rfl
@[simp] theorem Dev.setCore_linkLevel (i : Nat) (v : Core) : (d.setCore i v).linkLevel = d.linkLevel := rfl
@[simp] theorem Dev.setCore_doms (i : Nat) (v : Core) : (d.setCore i v).doms = d.doms := rfl
@[simp] theorem Dev.setCore_lats (i : Nat) (v : Core) : (d.setCore i v).lats = d.lats := rfl
@[simp] theorem Dev.setCore_eins (i : Nat) (v : Core) : (d.setCore i v).eins = d.eins := rfl
@[simp] theorem Dev.setCore_eouts (i : Nat) (v : Core) : (d.setCore i v).eouts = d.eouts := rfl
@[simp] theorem Dev.setCore_slots (i : Nat) (v : Core) : (d.setCore i v).slots = d.slots := rfl
@[simp] theorem Dev.setCore_regions (i : Nat) (v : Core) : (d.setCore i v).regions = d.regions := rfl
@[simp] theorem Dev.setCore_pmic (i : Nat) (v : Core) : (d.setCore i v).pmic = d.pmic := rfl
@[simp] theorem Dev.setCore_faults (i : Nat) (v : Core) : (d.setCore i v).faults = d.faults := rfl
@[simp] theorem Dev.setCore_arbs (i : Nat) (v : Core) : (d.setCore i v).arbs = d.arbs := rfl
@[simp] theorem Dev.setCore_boot (i : Nat) (v : Core) : (d.setCore i v).boot = d.boot := rfl
@[simp] theorem Dev.setCore_dap (i : Nat) (v : Core) : (d.setCore i v).dap = d.dap := rfl
@[simp] theorem Dev.setCore_links (i : Nat) (v : Core) : (d.setCore i v).links = d.links := rfl
@[simp] theorem Dev.setCore_hwtHeld (i : Nat) (v : Core) : (d.setCore i v).hwtHeld = d.hwtHeld := rfl
@[simp] theorem Dev.setCore_quiesce (i : Nat) (v : Core) : (d.setCore i v).quiesce = d.quiesce := rfl
@[simp] theorem Dev.setCore_held (i : Nat) (v : Core) : (d.setCore i v).held = d.held := rfl
@[simp] theorem Dev.setCore_portA (i : Nat) (v : Core) : (d.setCore i v).portA = d.portA := rfl
@[simp] theorem Dev.setCore_portB (i : Nat) (v : Core) : (d.setCore i v).portB = d.portB := rfl
@[simp] theorem Dev.setCore_sent (i : Nat) (v : Core) : (d.setCore i v).sent = d.sent := rfl
@[simp] theorem Dev.setCore_cpl (i : Nat) (v : Core) : (d.setCore i v).cpl = d.cpl := rfl
@[simp] theorem Dev.setCore_resp (i : Nat) (v : Core) : (d.setCore i v).resp = d.resp := rfl
@[simp] theorem Dev.setCore_freeCtr (i : Nat) (v : Core) : (d.setCore i v).freeCtr = d.freeCtr := rfl
@[simp] theorem Dev.setCore_seq (i : Nat) (v : Core) : (d.setCore i v).seq = d.seq := rfl

/-! `setFifo` -/

@[simp] theorem Dev.setFifo_regs (i : Nat) (v : Fifo) : (d.setFifo i v).regs = d.regs := rfl
@[simp] theorem Dev.setFifo_enPend (i : Nat) (v : Fifo) : (d.setFifo i v).enPend = d.enPend := rfl
@[simp] theorem Dev.setFifo_cfg (i : Nat) (v : Fifo) : (d.setFifo i v).cfg = d.cfg := rfl
@[simp] theorem Dev.setFifo_shadow (i : Nat) (v : Fifo) : (d.setFifo i v).shadow = d.shadow := rfl
@[simp] theorem Dev.setFifo_banked (i : Nat) (v : Fifo) : (d.setFifo i v).banked = d.banked := rfl
@[simp] theorem Dev.setFifo_mem (i : Nat) (v : Fifo) : (d.setFifo i v).mem = d.mem := rfl
@[simp] theorem Dev.setFifo_poison (i : Nat) (v : Fifo) : (d.setFifo i v).poison = d.poison := rfl
@[simp] theorem Dev.setFifo_hostMem (i : Nat) (v : Fifo) : (d.setFifo i v).hostMem = d.hostMem := rfl
@[simp] theorem Dev.setFifo_pacer (i : Nat) (v : Fifo) : (d.setFifo i v).pacer = d.pacer := rfl
@[simp] theorem Dev.setFifo_wl (i : Nat) (v : Fifo) : (d.setFifo i v).wl = d.wl := rfl
@[simp] theorem Dev.setFifo_ledger (i : Nat) (v : Fifo) : (d.setFifo i v).ledger = d.ledger := rfl
@[simp] theorem Dev.setFifo_gov (i : Nat) (v : Fifo) : (d.setFifo i v).gov = d.gov := rfl
@[simp] theorem Dev.setFifo_scbs (i : Nat) (v : Fifo) : (d.setFifo i v).scbs = d.scbs := rfl
@[simp] theorem Dev.setFifo_ctxs (i : Nat) (v : Fifo) : (d.setFifo i v).ctxs = d.ctxs := rfl
@[simp] theorem Dev.setFifo_engines (i : Nat) (v : Fifo) : (d.setFifo i v).engines = d.engines := rfl
@[simp] theorem Dev.setFifo_images (i : Nat) (v : Fifo) : (d.setFifo i v).images = d.images := rfl
@[simp] theorem Dev.setFifo_hif (i : Nat) (v : Fifo) : (d.setFifo i v).hif = d.hif := rfl
@[simp] theorem Dev.setFifo_srcs (i : Nat) (v : Fifo) : (d.setFifo i v).srcs = d.srcs := rfl
@[simp] theorem Dev.setFifo_prioStacks (i : Nat) (v : Fifo) : (d.setFifo i v).prioStacks = d.prioStacks := rfl
@[simp] theorem Dev.setFifo_mboxes (i : Nat) (v : Fifo) : (d.setFifo i v).mboxes = d.mboxes := rfl
@[simp] theorem Dev.setFifo_locks (i : Nat) (v : Fifo) : (d.setFifo i v).locks = d.locks := rfl
@[simp] theorem Dev.setFifo_caddy (i : Nat) (v : Fifo) : (d.setFifo i v).caddy = d.caddy := rfl
@[simp] theorem Dev.setFifo_cores (i : Nat) (v : Fifo) : (d.setFifo i v).cores = d.cores := rfl
@[simp] theorem Dev.setFifo_gpi (i : Nat) (v : Fifo) : (d.setFifo i v).gpi = d.gpi := rfl
@[simp] theorem Dev.setFifo_uarts (i : Nat) (v : Fifo) : (d.setFifo i v).uarts = d.uarts := rfl
@[simp] theorem Dev.setFifo_spis (i : Nat) (v : Fifo) : (d.setFifo i v).spis = d.spis := rfl
@[simp] theorem Dev.setFifo_i3cs (i : Nat) (v : Fifo) : (d.setFifo i v).i3cs = d.i3cs := rfl
@[simp] theorem Dev.setFifo_ecp (i : Nat) (v : Fifo) : (d.setFifo i v).ecp = d.ecp := rfl
@[simp] theorem Dev.setFifo_lqs (i : Nat) (v : Fifo) : (d.setFifo i v).lqs = d.lqs := rfl
@[simp] theorem Dev.setFifo_lastCqe (i : Nat) (v : Fifo) : (d.setFifo i v).lastCqe = d.lastCqe := rfl
@[simp] theorem Dev.setFifo_wide (i : Nat) (v : Fifo) : (d.setFifo i v).wide = d.wide := rfl
@[simp] theorem Dev.setFifo_movers (i : Nat) (v : Fifo) : (d.setFifo i v).movers = d.movers := rfl
@[simp] theorem Dev.setFifo_mchans (i : Nat) (v : Fifo) : (d.setFifo i v).mchans = d.mchans := rfl
@[simp] theorem Dev.setFifo_xdt (i : Nat) (v : Fifo) : (d.setFifo i v).xdt = d.xdt := rfl
@[simp] theorem Dev.setFifo_streams (i : Nat) (v : Fifo) : (d.setFifo i v).streams = d.streams := rfl
@[simp] theorem Dev.setFifo_streamWait (i : Nat) (v : Fifo) : (d.setFifo i v).streamWait = d.streamWait := rfl
@[simp] theorem Dev.setFifo_linkLevel (i : Nat) (v : Fifo) : (d.setFifo i v).linkLevel = d.linkLevel := rfl
@[simp] theorem Dev.setFifo_doms (i : Nat) (v : Fifo) : (d.setFifo i v).doms = d.doms := rfl
@[simp] theorem Dev.setFifo_lats (i : Nat) (v : Fifo) : (d.setFifo i v).lats = d.lats := rfl
@[simp] theorem Dev.setFifo_eins (i : Nat) (v : Fifo) : (d.setFifo i v).eins = d.eins := rfl
@[simp] theorem Dev.setFifo_eouts (i : Nat) (v : Fifo) : (d.setFifo i v).eouts = d.eouts := rfl
@[simp] theorem Dev.setFifo_slots (i : Nat) (v : Fifo) : (d.setFifo i v).slots = d.slots := rfl
@[simp] theorem Dev.setFifo_regions (i : Nat) (v : Fifo) : (d.setFifo i v).regions = d.regions := rfl
@[simp] theorem Dev.setFifo_pmic (i : Nat) (v : Fifo) : (d.setFifo i v).pmic = d.pmic := rfl
@[simp] theorem Dev.setFifo_faults (i : Nat) (v : Fifo) : (d.setFifo i v).faults = d.faults := rfl
@[simp] theorem Dev.setFifo_arbs (i : Nat) (v : Fifo) : (d.setFifo i v).arbs = d.arbs := rfl
@[simp] theorem Dev.setFifo_boot (i : Nat) (v : Fifo) : (d.setFifo i v).boot = d.boot := rfl
@[simp] theorem Dev.setFifo_dap (i : Nat) (v : Fifo) : (d.setFifo i v).dap = d.dap := rfl
@[simp] theorem Dev.setFifo_links (i : Nat) (v : Fifo) : (d.setFifo i v).links = d.links := rfl
@[simp] theorem Dev.setFifo_hwtHeld (i : Nat) (v : Fifo) : (d.setFifo i v).hwtHeld = d.hwtHeld := rfl
@[simp] theorem Dev.setFifo_quiesce (i : Nat) (v : Fifo) : (d.setFifo i v).quiesce = d.quiesce := rfl
@[simp] theorem Dev.setFifo_held (i : Nat) (v : Fifo) : (d.setFifo i v).held = d.held := rfl
@[simp] theorem Dev.setFifo_portA (i : Nat) (v : Fifo) : (d.setFifo i v).portA = d.portA := rfl
@[simp] theorem Dev.setFifo_portB (i : Nat) (v : Fifo) : (d.setFifo i v).portB = d.portB := rfl
@[simp] theorem Dev.setFifo_sent (i : Nat) (v : Fifo) : (d.setFifo i v).sent = d.sent := rfl
@[simp] theorem Dev.setFifo_cpl (i : Nat) (v : Fifo) : (d.setFifo i v).cpl = d.cpl := rfl
@[simp] theorem Dev.setFifo_resp (i : Nat) (v : Fifo) : (d.setFifo i v).resp = d.resp := rfl
@[simp] theorem Dev.setFifo_freeCtr (i : Nat) (v : Fifo) : (d.setFifo i v).freeCtr = d.freeCtr := rfl
@[simp] theorem Dev.setFifo_seq (i : Nat) (v : Fifo) : (d.setFifo i v).seq = d.seq := rfl

/-! `setLq` -/

@[simp] theorem Dev.setLq_regs (i : Nat) (v : LentQ) : (d.setLq i v).regs = d.regs := rfl
@[simp] theorem Dev.setLq_enPend (i : Nat) (v : LentQ) : (d.setLq i v).enPend = d.enPend := rfl
@[simp] theorem Dev.setLq_cfg (i : Nat) (v : LentQ) : (d.setLq i v).cfg = d.cfg := rfl
@[simp] theorem Dev.setLq_shadow (i : Nat) (v : LentQ) : (d.setLq i v).shadow = d.shadow := rfl
@[simp] theorem Dev.setLq_banked (i : Nat) (v : LentQ) : (d.setLq i v).banked = d.banked := rfl
@[simp] theorem Dev.setLq_mem (i : Nat) (v : LentQ) : (d.setLq i v).mem = d.mem := rfl
@[simp] theorem Dev.setLq_poison (i : Nat) (v : LentQ) : (d.setLq i v).poison = d.poison := rfl
@[simp] theorem Dev.setLq_hostMem (i : Nat) (v : LentQ) : (d.setLq i v).hostMem = d.hostMem := rfl
@[simp] theorem Dev.setLq_pacer (i : Nat) (v : LentQ) : (d.setLq i v).pacer = d.pacer := rfl
@[simp] theorem Dev.setLq_wl (i : Nat) (v : LentQ) : (d.setLq i v).wl = d.wl := rfl
@[simp] theorem Dev.setLq_ledger (i : Nat) (v : LentQ) : (d.setLq i v).ledger = d.ledger := rfl
@[simp] theorem Dev.setLq_gov (i : Nat) (v : LentQ) : (d.setLq i v).gov = d.gov := rfl
@[simp] theorem Dev.setLq_scbs (i : Nat) (v : LentQ) : (d.setLq i v).scbs = d.scbs := rfl
@[simp] theorem Dev.setLq_ctxs (i : Nat) (v : LentQ) : (d.setLq i v).ctxs = d.ctxs := rfl
@[simp] theorem Dev.setLq_engines (i : Nat) (v : LentQ) : (d.setLq i v).engines = d.engines := rfl
@[simp] theorem Dev.setLq_images (i : Nat) (v : LentQ) : (d.setLq i v).images = d.images := rfl
@[simp] theorem Dev.setLq_hif (i : Nat) (v : LentQ) : (d.setLq i v).hif = d.hif := rfl
@[simp] theorem Dev.setLq_srcs (i : Nat) (v : LentQ) : (d.setLq i v).srcs = d.srcs := rfl
@[simp] theorem Dev.setLq_prioStacks (i : Nat) (v : LentQ) : (d.setLq i v).prioStacks = d.prioStacks := rfl
@[simp] theorem Dev.setLq_mboxes (i : Nat) (v : LentQ) : (d.setLq i v).mboxes = d.mboxes := rfl
@[simp] theorem Dev.setLq_locks (i : Nat) (v : LentQ) : (d.setLq i v).locks = d.locks := rfl
@[simp] theorem Dev.setLq_caddy (i : Nat) (v : LentQ) : (d.setLq i v).caddy = d.caddy := rfl
@[simp] theorem Dev.setLq_cores (i : Nat) (v : LentQ) : (d.setLq i v).cores = d.cores := rfl
@[simp] theorem Dev.setLq_gpi (i : Nat) (v : LentQ) : (d.setLq i v).gpi = d.gpi := rfl
@[simp] theorem Dev.setLq_uarts (i : Nat) (v : LentQ) : (d.setLq i v).uarts = d.uarts := rfl
@[simp] theorem Dev.setLq_spis (i : Nat) (v : LentQ) : (d.setLq i v).spis = d.spis := rfl
@[simp] theorem Dev.setLq_i3cs (i : Nat) (v : LentQ) : (d.setLq i v).i3cs = d.i3cs := rfl
@[simp] theorem Dev.setLq_ecp (i : Nat) (v : LentQ) : (d.setLq i v).ecp = d.ecp := rfl
@[simp] theorem Dev.setLq_lastCqe (i : Nat) (v : LentQ) : (d.setLq i v).lastCqe = d.lastCqe := rfl
@[simp] theorem Dev.setLq_wide (i : Nat) (v : LentQ) : (d.setLq i v).wide = d.wide := rfl
@[simp] theorem Dev.setLq_movers (i : Nat) (v : LentQ) : (d.setLq i v).movers = d.movers := rfl
@[simp] theorem Dev.setLq_mchans (i : Nat) (v : LentQ) : (d.setLq i v).mchans = d.mchans := rfl
@[simp] theorem Dev.setLq_fifos (i : Nat) (v : LentQ) : (d.setLq i v).fifos = d.fifos := rfl
@[simp] theorem Dev.setLq_xdt (i : Nat) (v : LentQ) : (d.setLq i v).xdt = d.xdt := rfl
@[simp] theorem Dev.setLq_streams (i : Nat) (v : LentQ) : (d.setLq i v).streams = d.streams := rfl
@[simp] theorem Dev.setLq_streamWait (i : Nat) (v : LentQ) : (d.setLq i v).streamWait = d.streamWait := rfl
@[simp] theorem Dev.setLq_linkLevel (i : Nat) (v : LentQ) : (d.setLq i v).linkLevel = d.linkLevel := rfl
@[simp] theorem Dev.setLq_doms (i : Nat) (v : LentQ) : (d.setLq i v).doms = d.doms := rfl
@[simp] theorem Dev.setLq_lats (i : Nat) (v : LentQ) : (d.setLq i v).lats = d.lats := rfl
@[simp] theorem Dev.setLq_eins (i : Nat) (v : LentQ) : (d.setLq i v).eins = d.eins := rfl
@[simp] theorem Dev.setLq_eouts (i : Nat) (v : LentQ) : (d.setLq i v).eouts = d.eouts := rfl
@[simp] theorem Dev.setLq_slots (i : Nat) (v : LentQ) : (d.setLq i v).slots = d.slots := rfl
@[simp] theorem Dev.setLq_regions (i : Nat) (v : LentQ) : (d.setLq i v).regions = d.regions := rfl
@[simp] theorem Dev.setLq_pmic (i : Nat) (v : LentQ) : (d.setLq i v).pmic = d.pmic := rfl
@[simp] theorem Dev.setLq_faults (i : Nat) (v : LentQ) : (d.setLq i v).faults = d.faults := rfl
@[simp] theorem Dev.setLq_arbs (i : Nat) (v : LentQ) : (d.setLq i v).arbs = d.arbs := rfl
@[simp] theorem Dev.setLq_boot (i : Nat) (v : LentQ) : (d.setLq i v).boot = d.boot := rfl
@[simp] theorem Dev.setLq_dap (i : Nat) (v : LentQ) : (d.setLq i v).dap = d.dap := rfl
@[simp] theorem Dev.setLq_links (i : Nat) (v : LentQ) : (d.setLq i v).links = d.links := rfl
@[simp] theorem Dev.setLq_hwtHeld (i : Nat) (v : LentQ) : (d.setLq i v).hwtHeld = d.hwtHeld := rfl
@[simp] theorem Dev.setLq_quiesce (i : Nat) (v : LentQ) : (d.setLq i v).quiesce = d.quiesce := rfl
@[simp] theorem Dev.setLq_held (i : Nat) (v : LentQ) : (d.setLq i v).held = d.held := rfl
@[simp] theorem Dev.setLq_portA (i : Nat) (v : LentQ) : (d.setLq i v).portA = d.portA := rfl
@[simp] theorem Dev.setLq_portB (i : Nat) (v : LentQ) : (d.setLq i v).portB = d.portB := rfl
@[simp] theorem Dev.setLq_sent (i : Nat) (v : LentQ) : (d.setLq i v).sent = d.sent := rfl
@[simp] theorem Dev.setLq_cpl (i : Nat) (v : LentQ) : (d.setLq i v).cpl = d.cpl := rfl
@[simp] theorem Dev.setLq_resp (i : Nat) (v : LentQ) : (d.setLq i v).resp = d.resp := rfl
@[simp] theorem Dev.setLq_freeCtr (i : Nat) (v : LentQ) : (d.setLq i v).freeCtr = d.freeCtr := rfl
@[simp] theorem Dev.setLq_seq (i : Nat) (v : LentQ) : (d.setLq i v).seq = d.seq := rfl

/-! `setUart` -/

@[simp] theorem Dev.setUart_regs (i : Nat) (v : Uart) : (d.setUart i v).regs = d.regs := rfl
@[simp] theorem Dev.setUart_enPend (i : Nat) (v : Uart) : (d.setUart i v).enPend = d.enPend := rfl
@[simp] theorem Dev.setUart_cfg (i : Nat) (v : Uart) : (d.setUart i v).cfg = d.cfg := rfl
@[simp] theorem Dev.setUart_shadow (i : Nat) (v : Uart) : (d.setUart i v).shadow = d.shadow := rfl
@[simp] theorem Dev.setUart_banked (i : Nat) (v : Uart) : (d.setUart i v).banked = d.banked := rfl
@[simp] theorem Dev.setUart_mem (i : Nat) (v : Uart) : (d.setUart i v).mem = d.mem := rfl
@[simp] theorem Dev.setUart_poison (i : Nat) (v : Uart) : (d.setUart i v).poison = d.poison := rfl
@[simp] theorem Dev.setUart_hostMem (i : Nat) (v : Uart) : (d.setUart i v).hostMem = d.hostMem := rfl
@[simp] theorem Dev.setUart_pacer (i : Nat) (v : Uart) : (d.setUart i v).pacer = d.pacer := rfl
@[simp] theorem Dev.setUart_wl (i : Nat) (v : Uart) : (d.setUart i v).wl = d.wl := rfl
@[simp] theorem Dev.setUart_ledger (i : Nat) (v : Uart) : (d.setUart i v).ledger = d.ledger := rfl
@[simp] theorem Dev.setUart_gov (i : Nat) (v : Uart) : (d.setUart i v).gov = d.gov := rfl
@[simp] theorem Dev.setUart_scbs (i : Nat) (v : Uart) : (d.setUart i v).scbs = d.scbs := rfl
@[simp] theorem Dev.setUart_ctxs (i : Nat) (v : Uart) : (d.setUart i v).ctxs = d.ctxs := rfl
@[simp] theorem Dev.setUart_engines (i : Nat) (v : Uart) : (d.setUart i v).engines = d.engines := rfl
@[simp] theorem Dev.setUart_images (i : Nat) (v : Uart) : (d.setUart i v).images = d.images := rfl
@[simp] theorem Dev.setUart_hif (i : Nat) (v : Uart) : (d.setUart i v).hif = d.hif := rfl
@[simp] theorem Dev.setUart_srcs (i : Nat) (v : Uart) : (d.setUart i v).srcs = d.srcs := rfl
@[simp] theorem Dev.setUart_prioStacks (i : Nat) (v : Uart) : (d.setUart i v).prioStacks = d.prioStacks := rfl
@[simp] theorem Dev.setUart_mboxes (i : Nat) (v : Uart) : (d.setUart i v).mboxes = d.mboxes := rfl
@[simp] theorem Dev.setUart_locks (i : Nat) (v : Uart) : (d.setUart i v).locks = d.locks := rfl
@[simp] theorem Dev.setUart_caddy (i : Nat) (v : Uart) : (d.setUart i v).caddy = d.caddy := rfl
@[simp] theorem Dev.setUart_cores (i : Nat) (v : Uart) : (d.setUart i v).cores = d.cores := rfl
@[simp] theorem Dev.setUart_gpi (i : Nat) (v : Uart) : (d.setUart i v).gpi = d.gpi := rfl
@[simp] theorem Dev.setUart_spis (i : Nat) (v : Uart) : (d.setUart i v).spis = d.spis := rfl
@[simp] theorem Dev.setUart_i3cs (i : Nat) (v : Uart) : (d.setUart i v).i3cs = d.i3cs := rfl
@[simp] theorem Dev.setUart_ecp (i : Nat) (v : Uart) : (d.setUart i v).ecp = d.ecp := rfl
@[simp] theorem Dev.setUart_lqs (i : Nat) (v : Uart) : (d.setUart i v).lqs = d.lqs := rfl
@[simp] theorem Dev.setUart_lastCqe (i : Nat) (v : Uart) : (d.setUart i v).lastCqe = d.lastCqe := rfl
@[simp] theorem Dev.setUart_wide (i : Nat) (v : Uart) : (d.setUart i v).wide = d.wide := rfl
@[simp] theorem Dev.setUart_movers (i : Nat) (v : Uart) : (d.setUart i v).movers = d.movers := rfl
@[simp] theorem Dev.setUart_mchans (i : Nat) (v : Uart) : (d.setUart i v).mchans = d.mchans := rfl
@[simp] theorem Dev.setUart_fifos (i : Nat) (v : Uart) : (d.setUart i v).fifos = d.fifos := rfl
@[simp] theorem Dev.setUart_xdt (i : Nat) (v : Uart) : (d.setUart i v).xdt = d.xdt := rfl
@[simp] theorem Dev.setUart_streams (i : Nat) (v : Uart) : (d.setUart i v).streams = d.streams := rfl
@[simp] theorem Dev.setUart_streamWait (i : Nat) (v : Uart) : (d.setUart i v).streamWait = d.streamWait := rfl
@[simp] theorem Dev.setUart_linkLevel (i : Nat) (v : Uart) : (d.setUart i v).linkLevel = d.linkLevel := rfl
@[simp] theorem Dev.setUart_doms (i : Nat) (v : Uart) : (d.setUart i v).doms = d.doms := rfl
@[simp] theorem Dev.setUart_lats (i : Nat) (v : Uart) : (d.setUart i v).lats = d.lats := rfl
@[simp] theorem Dev.setUart_eins (i : Nat) (v : Uart) : (d.setUart i v).eins = d.eins := rfl
@[simp] theorem Dev.setUart_eouts (i : Nat) (v : Uart) : (d.setUart i v).eouts = d.eouts := rfl
@[simp] theorem Dev.setUart_slots (i : Nat) (v : Uart) : (d.setUart i v).slots = d.slots := rfl
@[simp] theorem Dev.setUart_regions (i : Nat) (v : Uart) : (d.setUart i v).regions = d.regions := rfl
@[simp] theorem Dev.setUart_pmic (i : Nat) (v : Uart) : (d.setUart i v).pmic = d.pmic := rfl
@[simp] theorem Dev.setUart_faults (i : Nat) (v : Uart) : (d.setUart i v).faults = d.faults := rfl
@[simp] theorem Dev.setUart_arbs (i : Nat) (v : Uart) : (d.setUart i v).arbs = d.arbs := rfl
@[simp] theorem Dev.setUart_boot (i : Nat) (v : Uart) : (d.setUart i v).boot = d.boot := rfl
@[simp] theorem Dev.setUart_dap (i : Nat) (v : Uart) : (d.setUart i v).dap = d.dap := rfl
@[simp] theorem Dev.setUart_links (i : Nat) (v : Uart) : (d.setUart i v).links = d.links := rfl
@[simp] theorem Dev.setUart_hwtHeld (i : Nat) (v : Uart) : (d.setUart i v).hwtHeld = d.hwtHeld := rfl
@[simp] theorem Dev.setUart_quiesce (i : Nat) (v : Uart) : (d.setUart i v).quiesce = d.quiesce := rfl
@[simp] theorem Dev.setUart_held (i : Nat) (v : Uart) : (d.setUart i v).held = d.held := rfl
@[simp] theorem Dev.setUart_portA (i : Nat) (v : Uart) : (d.setUart i v).portA = d.portA := rfl
@[simp] theorem Dev.setUart_portB (i : Nat) (v : Uart) : (d.setUart i v).portB = d.portB := rfl
@[simp] theorem Dev.setUart_sent (i : Nat) (v : Uart) : (d.setUart i v).sent = d.sent := rfl
@[simp] theorem Dev.setUart_cpl (i : Nat) (v : Uart) : (d.setUart i v).cpl = d.cpl := rfl
@[simp] theorem Dev.setUart_resp (i : Nat) (v : Uart) : (d.setUart i v).resp = d.resp := rfl
@[simp] theorem Dev.setUart_freeCtr (i : Nat) (v : Uart) : (d.setUart i v).freeCtr = d.freeCtr := rfl
@[simp] theorem Dev.setUart_seq (i : Nat) (v : Uart) : (d.setUart i v).seq = d.seq := rfl

/-! `setSpi` -/

@[simp] theorem Dev.setSpi_regs (i : Nat) (v : Spi) : (d.setSpi i v).regs = d.regs := rfl
@[simp] theorem Dev.setSpi_enPend (i : Nat) (v : Spi) : (d.setSpi i v).enPend = d.enPend := rfl
@[simp] theorem Dev.setSpi_cfg (i : Nat) (v : Spi) : (d.setSpi i v).cfg = d.cfg := rfl
@[simp] theorem Dev.setSpi_shadow (i : Nat) (v : Spi) : (d.setSpi i v).shadow = d.shadow := rfl
@[simp] theorem Dev.setSpi_banked (i : Nat) (v : Spi) : (d.setSpi i v).banked = d.banked := rfl
@[simp] theorem Dev.setSpi_mem (i : Nat) (v : Spi) : (d.setSpi i v).mem = d.mem := rfl
@[simp] theorem Dev.setSpi_poison (i : Nat) (v : Spi) : (d.setSpi i v).poison = d.poison := rfl
@[simp] theorem Dev.setSpi_hostMem (i : Nat) (v : Spi) : (d.setSpi i v).hostMem = d.hostMem := rfl
@[simp] theorem Dev.setSpi_pacer (i : Nat) (v : Spi) : (d.setSpi i v).pacer = d.pacer := rfl
@[simp] theorem Dev.setSpi_wl (i : Nat) (v : Spi) : (d.setSpi i v).wl = d.wl := rfl
@[simp] theorem Dev.setSpi_ledger (i : Nat) (v : Spi) : (d.setSpi i v).ledger = d.ledger := rfl
@[simp] theorem Dev.setSpi_gov (i : Nat) (v : Spi) : (d.setSpi i v).gov = d.gov := rfl
@[simp] theorem Dev.setSpi_scbs (i : Nat) (v : Spi) : (d.setSpi i v).scbs = d.scbs := rfl
@[simp] theorem Dev.setSpi_ctxs (i : Nat) (v : Spi) : (d.setSpi i v).ctxs = d.ctxs := rfl
@[simp] theorem Dev.setSpi_engines (i : Nat) (v : Spi) : (d.setSpi i v).engines = d.engines := rfl
@[simp] theorem Dev.setSpi_images (i : Nat) (v : Spi) : (d.setSpi i v).images = d.images := rfl
@[simp] theorem Dev.setSpi_hif (i : Nat) (v : Spi) : (d.setSpi i v).hif = d.hif := rfl
@[simp] theorem Dev.setSpi_srcs (i : Nat) (v : Spi) : (d.setSpi i v).srcs = d.srcs := rfl
@[simp] theorem Dev.setSpi_prioStacks (i : Nat) (v : Spi) : (d.setSpi i v).prioStacks = d.prioStacks := rfl
@[simp] theorem Dev.setSpi_mboxes (i : Nat) (v : Spi) : (d.setSpi i v).mboxes = d.mboxes := rfl
@[simp] theorem Dev.setSpi_locks (i : Nat) (v : Spi) : (d.setSpi i v).locks = d.locks := rfl
@[simp] theorem Dev.setSpi_caddy (i : Nat) (v : Spi) : (d.setSpi i v).caddy = d.caddy := rfl
@[simp] theorem Dev.setSpi_cores (i : Nat) (v : Spi) : (d.setSpi i v).cores = d.cores := rfl
@[simp] theorem Dev.setSpi_gpi (i : Nat) (v : Spi) : (d.setSpi i v).gpi = d.gpi := rfl
@[simp] theorem Dev.setSpi_uarts (i : Nat) (v : Spi) : (d.setSpi i v).uarts = d.uarts := rfl
@[simp] theorem Dev.setSpi_i3cs (i : Nat) (v : Spi) : (d.setSpi i v).i3cs = d.i3cs := rfl
@[simp] theorem Dev.setSpi_ecp (i : Nat) (v : Spi) : (d.setSpi i v).ecp = d.ecp := rfl
@[simp] theorem Dev.setSpi_lqs (i : Nat) (v : Spi) : (d.setSpi i v).lqs = d.lqs := rfl
@[simp] theorem Dev.setSpi_lastCqe (i : Nat) (v : Spi) : (d.setSpi i v).lastCqe = d.lastCqe := rfl
@[simp] theorem Dev.setSpi_wide (i : Nat) (v : Spi) : (d.setSpi i v).wide = d.wide := rfl
@[simp] theorem Dev.setSpi_movers (i : Nat) (v : Spi) : (d.setSpi i v).movers = d.movers := rfl
@[simp] theorem Dev.setSpi_mchans (i : Nat) (v : Spi) : (d.setSpi i v).mchans = d.mchans := rfl
@[simp] theorem Dev.setSpi_fifos (i : Nat) (v : Spi) : (d.setSpi i v).fifos = d.fifos := rfl
@[simp] theorem Dev.setSpi_xdt (i : Nat) (v : Spi) : (d.setSpi i v).xdt = d.xdt := rfl
@[simp] theorem Dev.setSpi_streams (i : Nat) (v : Spi) : (d.setSpi i v).streams = d.streams := rfl
@[simp] theorem Dev.setSpi_streamWait (i : Nat) (v : Spi) : (d.setSpi i v).streamWait = d.streamWait := rfl
@[simp] theorem Dev.setSpi_linkLevel (i : Nat) (v : Spi) : (d.setSpi i v).linkLevel = d.linkLevel := rfl
@[simp] theorem Dev.setSpi_doms (i : Nat) (v : Spi) : (d.setSpi i v).doms = d.doms := rfl
@[simp] theorem Dev.setSpi_lats (i : Nat) (v : Spi) : (d.setSpi i v).lats = d.lats := rfl
@[simp] theorem Dev.setSpi_eins (i : Nat) (v : Spi) : (d.setSpi i v).eins = d.eins := rfl
@[simp] theorem Dev.setSpi_eouts (i : Nat) (v : Spi) : (d.setSpi i v).eouts = d.eouts := rfl
@[simp] theorem Dev.setSpi_slots (i : Nat) (v : Spi) : (d.setSpi i v).slots = d.slots := rfl
@[simp] theorem Dev.setSpi_regions (i : Nat) (v : Spi) : (d.setSpi i v).regions = d.regions := rfl
@[simp] theorem Dev.setSpi_pmic (i : Nat) (v : Spi) : (d.setSpi i v).pmic = d.pmic := rfl
@[simp] theorem Dev.setSpi_faults (i : Nat) (v : Spi) : (d.setSpi i v).faults = d.faults := rfl
@[simp] theorem Dev.setSpi_arbs (i : Nat) (v : Spi) : (d.setSpi i v).arbs = d.arbs := rfl
@[simp] theorem Dev.setSpi_boot (i : Nat) (v : Spi) : (d.setSpi i v).boot = d.boot := rfl
@[simp] theorem Dev.setSpi_dap (i : Nat) (v : Spi) : (d.setSpi i v).dap = d.dap := rfl
@[simp] theorem Dev.setSpi_links (i : Nat) (v : Spi) : (d.setSpi i v).links = d.links := rfl
@[simp] theorem Dev.setSpi_hwtHeld (i : Nat) (v : Spi) : (d.setSpi i v).hwtHeld = d.hwtHeld := rfl
@[simp] theorem Dev.setSpi_quiesce (i : Nat) (v : Spi) : (d.setSpi i v).quiesce = d.quiesce := rfl
@[simp] theorem Dev.setSpi_held (i : Nat) (v : Spi) : (d.setSpi i v).held = d.held := rfl
@[simp] theorem Dev.setSpi_portA (i : Nat) (v : Spi) : (d.setSpi i v).portA = d.portA := rfl
@[simp] theorem Dev.setSpi_portB (i : Nat) (v : Spi) : (d.setSpi i v).portB = d.portB := rfl
@[simp] theorem Dev.setSpi_sent (i : Nat) (v : Spi) : (d.setSpi i v).sent = d.sent := rfl
@[simp] theorem Dev.setSpi_cpl (i : Nat) (v : Spi) : (d.setSpi i v).cpl = d.cpl := rfl
@[simp] theorem Dev.setSpi_resp (i : Nat) (v : Spi) : (d.setSpi i v).resp = d.resp := rfl
@[simp] theorem Dev.setSpi_freeCtr (i : Nat) (v : Spi) : (d.setSpi i v).freeCtr = d.freeCtr := rfl
@[simp] theorem Dev.setSpi_seq (i : Nat) (v : Spi) : (d.setSpi i v).seq = d.seq := rfl

/-! `setI3c` -/

@[simp] theorem Dev.setI3c_regs (i : Nat) (v : I3c) : (d.setI3c i v).regs = d.regs := rfl
@[simp] theorem Dev.setI3c_enPend (i : Nat) (v : I3c) : (d.setI3c i v).enPend = d.enPend := rfl
@[simp] theorem Dev.setI3c_cfg (i : Nat) (v : I3c) : (d.setI3c i v).cfg = d.cfg := rfl
@[simp] theorem Dev.setI3c_shadow (i : Nat) (v : I3c) : (d.setI3c i v).shadow = d.shadow := rfl
@[simp] theorem Dev.setI3c_banked (i : Nat) (v : I3c) : (d.setI3c i v).banked = d.banked := rfl
@[simp] theorem Dev.setI3c_mem (i : Nat) (v : I3c) : (d.setI3c i v).mem = d.mem := rfl
@[simp] theorem Dev.setI3c_poison (i : Nat) (v : I3c) : (d.setI3c i v).poison = d.poison := rfl
@[simp] theorem Dev.setI3c_hostMem (i : Nat) (v : I3c) : (d.setI3c i v).hostMem = d.hostMem := rfl
@[simp] theorem Dev.setI3c_pacer (i : Nat) (v : I3c) : (d.setI3c i v).pacer = d.pacer := rfl
@[simp] theorem Dev.setI3c_wl (i : Nat) (v : I3c) : (d.setI3c i v).wl = d.wl := rfl
@[simp] theorem Dev.setI3c_ledger (i : Nat) (v : I3c) : (d.setI3c i v).ledger = d.ledger := rfl
@[simp] theorem Dev.setI3c_gov (i : Nat) (v : I3c) : (d.setI3c i v).gov = d.gov := rfl
@[simp] theorem Dev.setI3c_scbs (i : Nat) (v : I3c) : (d.setI3c i v).scbs = d.scbs := rfl
@[simp] theorem Dev.setI3c_ctxs (i : Nat) (v : I3c) : (d.setI3c i v).ctxs = d.ctxs := rfl
@[simp] theorem Dev.setI3c_engines (i : Nat) (v : I3c) : (d.setI3c i v).engines = d.engines := rfl
@[simp] theorem Dev.setI3c_images (i : Nat) (v : I3c) : (d.setI3c i v).images = d.images := rfl
@[simp] theorem Dev.setI3c_hif (i : Nat) (v : I3c) : (d.setI3c i v).hif = d.hif := rfl
@[simp] theorem Dev.setI3c_srcs (i : Nat) (v : I3c) : (d.setI3c i v).srcs = d.srcs := rfl
@[simp] theorem Dev.setI3c_prioStacks (i : Nat) (v : I3c) : (d.setI3c i v).prioStacks = d.prioStacks := rfl
@[simp] theorem Dev.setI3c_mboxes (i : Nat) (v : I3c) : (d.setI3c i v).mboxes = d.mboxes := rfl
@[simp] theorem Dev.setI3c_locks (i : Nat) (v : I3c) : (d.setI3c i v).locks = d.locks := rfl
@[simp] theorem Dev.setI3c_caddy (i : Nat) (v : I3c) : (d.setI3c i v).caddy = d.caddy := rfl
@[simp] theorem Dev.setI3c_cores (i : Nat) (v : I3c) : (d.setI3c i v).cores = d.cores := rfl
@[simp] theorem Dev.setI3c_gpi (i : Nat) (v : I3c) : (d.setI3c i v).gpi = d.gpi := rfl
@[simp] theorem Dev.setI3c_uarts (i : Nat) (v : I3c) : (d.setI3c i v).uarts = d.uarts := rfl
@[simp] theorem Dev.setI3c_spis (i : Nat) (v : I3c) : (d.setI3c i v).spis = d.spis := rfl
@[simp] theorem Dev.setI3c_ecp (i : Nat) (v : I3c) : (d.setI3c i v).ecp = d.ecp := rfl
@[simp] theorem Dev.setI3c_lqs (i : Nat) (v : I3c) : (d.setI3c i v).lqs = d.lqs := rfl
@[simp] theorem Dev.setI3c_lastCqe (i : Nat) (v : I3c) : (d.setI3c i v).lastCqe = d.lastCqe := rfl
@[simp] theorem Dev.setI3c_wide (i : Nat) (v : I3c) : (d.setI3c i v).wide = d.wide := rfl
@[simp] theorem Dev.setI3c_movers (i : Nat) (v : I3c) : (d.setI3c i v).movers = d.movers := rfl
@[simp] theorem Dev.setI3c_mchans (i : Nat) (v : I3c) : (d.setI3c i v).mchans = d.mchans := rfl
@[simp] theorem Dev.setI3c_fifos (i : Nat) (v : I3c) : (d.setI3c i v).fifos = d.fifos := rfl
@[simp] theorem Dev.setI3c_xdt (i : Nat) (v : I3c) : (d.setI3c i v).xdt = d.xdt := rfl
@[simp] theorem Dev.setI3c_streams (i : Nat) (v : I3c) : (d.setI3c i v).streams = d.streams := rfl
@[simp] theorem Dev.setI3c_streamWait (i : Nat) (v : I3c) : (d.setI3c i v).streamWait = d.streamWait := rfl
@[simp] theorem Dev.setI3c_linkLevel (i : Nat) (v : I3c) : (d.setI3c i v).linkLevel = d.linkLevel := rfl
@[simp] theorem Dev.setI3c_doms (i : Nat) (v : I3c) : (d.setI3c i v).doms = d.doms := rfl
@[simp] theorem Dev.setI3c_lats (i : Nat) (v : I3c) : (d.setI3c i v).lats = d.lats := rfl
@[simp] theorem Dev.setI3c_eins (i : Nat) (v : I3c) : (d.setI3c i v).eins = d.eins := rfl
@[simp] theorem Dev.setI3c_eouts (i : Nat) (v : I3c) : (d.setI3c i v).eouts = d.eouts := rfl
@[simp] theorem Dev.setI3c_slots (i : Nat) (v : I3c) : (d.setI3c i v).slots = d.slots := rfl
@[simp] theorem Dev.setI3c_regions (i : Nat) (v : I3c) : (d.setI3c i v).regions = d.regions := rfl
@[simp] theorem Dev.setI3c_pmic (i : Nat) (v : I3c) : (d.setI3c i v).pmic = d.pmic := rfl
@[simp] theorem Dev.setI3c_faults (i : Nat) (v : I3c) : (d.setI3c i v).faults = d.faults := rfl
@[simp] theorem Dev.setI3c_arbs (i : Nat) (v : I3c) : (d.setI3c i v).arbs = d.arbs := rfl
@[simp] theorem Dev.setI3c_boot (i : Nat) (v : I3c) : (d.setI3c i v).boot = d.boot := rfl
@[simp] theorem Dev.setI3c_dap (i : Nat) (v : I3c) : (d.setI3c i v).dap = d.dap := rfl
@[simp] theorem Dev.setI3c_links (i : Nat) (v : I3c) : (d.setI3c i v).links = d.links := rfl
@[simp] theorem Dev.setI3c_hwtHeld (i : Nat) (v : I3c) : (d.setI3c i v).hwtHeld = d.hwtHeld := rfl
@[simp] theorem Dev.setI3c_quiesce (i : Nat) (v : I3c) : (d.setI3c i v).quiesce = d.quiesce := rfl
@[simp] theorem Dev.setI3c_held (i : Nat) (v : I3c) : (d.setI3c i v).held = d.held := rfl
@[simp] theorem Dev.setI3c_portA (i : Nat) (v : I3c) : (d.setI3c i v).portA = d.portA := rfl
@[simp] theorem Dev.setI3c_portB (i : Nat) (v : I3c) : (d.setI3c i v).portB = d.portB := rfl
@[simp] theorem Dev.setI3c_sent (i : Nat) (v : I3c) : (d.setI3c i v).sent = d.sent := rfl
@[simp] theorem Dev.setI3c_cpl (i : Nat) (v : I3c) : (d.setI3c i v).cpl = d.cpl := rfl
@[simp] theorem Dev.setI3c_resp (i : Nat) (v : I3c) : (d.setI3c i v).resp = d.resp := rfl
@[simp] theorem Dev.setI3c_freeCtr (i : Nat) (v : I3c) : (d.setI3c i v).freeCtr = d.freeCtr := rfl
@[simp] theorem Dev.setI3c_seq (i : Nat) (v : I3c) : (d.setI3c i v).seq = d.seq := rfl

/-! `setMover` -/

@[simp] theorem Dev.setMover_regs (i : Nat) (v : Mover) : (d.setMover i v).regs = d.regs := rfl
@[simp] theorem Dev.setMover_enPend (i : Nat) (v : Mover) : (d.setMover i v).enPend = d.enPend := rfl
@[simp] theorem Dev.setMover_cfg (i : Nat) (v : Mover) : (d.setMover i v).cfg = d.cfg := rfl
@[simp] theorem Dev.setMover_shadow (i : Nat) (v : Mover) : (d.setMover i v).shadow = d.shadow := rfl
@[simp] theorem Dev.setMover_banked (i : Nat) (v : Mover) : (d.setMover i v).banked = d.banked := rfl
@[simp] theorem Dev.setMover_mem (i : Nat) (v : Mover) : (d.setMover i v).mem = d.mem := rfl
@[simp] theorem Dev.setMover_poison (i : Nat) (v : Mover) : (d.setMover i v).poison = d.poison := rfl
@[simp] theorem Dev.setMover_hostMem (i : Nat) (v : Mover) : (d.setMover i v).hostMem = d.hostMem := rfl
@[simp] theorem Dev.setMover_pacer (i : Nat) (v : Mover) : (d.setMover i v).pacer = d.pacer := rfl
@[simp] theorem Dev.setMover_wl (i : Nat) (v : Mover) : (d.setMover i v).wl = d.wl := rfl
@[simp] theorem Dev.setMover_ledger (i : Nat) (v : Mover) : (d.setMover i v).ledger = d.ledger := rfl
@[simp] theorem Dev.setMover_gov (i : Nat) (v : Mover) : (d.setMover i v).gov = d.gov := rfl
@[simp] theorem Dev.setMover_scbs (i : Nat) (v : Mover) : (d.setMover i v).scbs = d.scbs := rfl
@[simp] theorem Dev.setMover_ctxs (i : Nat) (v : Mover) : (d.setMover i v).ctxs = d.ctxs := rfl
@[simp] theorem Dev.setMover_engines (i : Nat) (v : Mover) : (d.setMover i v).engines = d.engines := rfl
@[simp] theorem Dev.setMover_images (i : Nat) (v : Mover) : (d.setMover i v).images = d.images := rfl
@[simp] theorem Dev.setMover_hif (i : Nat) (v : Mover) : (d.setMover i v).hif = d.hif := rfl
@[simp] theorem Dev.setMover_srcs (i : Nat) (v : Mover) : (d.setMover i v).srcs = d.srcs := rfl
@[simp] theorem Dev.setMover_prioStacks (i : Nat) (v : Mover) : (d.setMover i v).prioStacks = d.prioStacks := rfl
@[simp] theorem Dev.setMover_mboxes (i : Nat) (v : Mover) : (d.setMover i v).mboxes = d.mboxes := rfl
@[simp] theorem Dev.setMover_locks (i : Nat) (v : Mover) : (d.setMover i v).locks = d.locks := rfl
@[simp] theorem Dev.setMover_caddy (i : Nat) (v : Mover) : (d.setMover i v).caddy = d.caddy := rfl
@[simp] theorem Dev.setMover_cores (i : Nat) (v : Mover) : (d.setMover i v).cores = d.cores := rfl
@[simp] theorem Dev.setMover_gpi (i : Nat) (v : Mover) : (d.setMover i v).gpi = d.gpi := rfl
@[simp] theorem Dev.setMover_uarts (i : Nat) (v : Mover) : (d.setMover i v).uarts = d.uarts := rfl
@[simp] theorem Dev.setMover_spis (i : Nat) (v : Mover) : (d.setMover i v).spis = d.spis := rfl
@[simp] theorem Dev.setMover_i3cs (i : Nat) (v : Mover) : (d.setMover i v).i3cs = d.i3cs := rfl
@[simp] theorem Dev.setMover_ecp (i : Nat) (v : Mover) : (d.setMover i v).ecp = d.ecp := rfl
@[simp] theorem Dev.setMover_lqs (i : Nat) (v : Mover) : (d.setMover i v).lqs = d.lqs := rfl
@[simp] theorem Dev.setMover_lastCqe (i : Nat) (v : Mover) : (d.setMover i v).lastCqe = d.lastCqe := rfl
@[simp] theorem Dev.setMover_wide (i : Nat) (v : Mover) : (d.setMover i v).wide = d.wide := rfl
@[simp] theorem Dev.setMover_mchans (i : Nat) (v : Mover) : (d.setMover i v).mchans = d.mchans := rfl
@[simp] theorem Dev.setMover_fifos (i : Nat) (v : Mover) : (d.setMover i v).fifos = d.fifos := rfl
@[simp] theorem Dev.setMover_xdt (i : Nat) (v : Mover) : (d.setMover i v).xdt = d.xdt := rfl
@[simp] theorem Dev.setMover_streams (i : Nat) (v : Mover) : (d.setMover i v).streams = d.streams := rfl
@[simp] theorem Dev.setMover_streamWait (i : Nat) (v : Mover) : (d.setMover i v).streamWait = d.streamWait := rfl
@[simp] theorem Dev.setMover_linkLevel (i : Nat) (v : Mover) : (d.setMover i v).linkLevel = d.linkLevel := rfl
@[simp] theorem Dev.setMover_doms (i : Nat) (v : Mover) : (d.setMover i v).doms = d.doms := rfl
@[simp] theorem Dev.setMover_lats (i : Nat) (v : Mover) : (d.setMover i v).lats = d.lats := rfl
@[simp] theorem Dev.setMover_eins (i : Nat) (v : Mover) : (d.setMover i v).eins = d.eins := rfl
@[simp] theorem Dev.setMover_eouts (i : Nat) (v : Mover) : (d.setMover i v).eouts = d.eouts := rfl
@[simp] theorem Dev.setMover_slots (i : Nat) (v : Mover) : (d.setMover i v).slots = d.slots := rfl
@[simp] theorem Dev.setMover_regions (i : Nat) (v : Mover) : (d.setMover i v).regions = d.regions := rfl
@[simp] theorem Dev.setMover_pmic (i : Nat) (v : Mover) : (d.setMover i v).pmic = d.pmic := rfl
@[simp] theorem Dev.setMover_faults (i : Nat) (v : Mover) : (d.setMover i v).faults = d.faults := rfl
@[simp] theorem Dev.setMover_arbs (i : Nat) (v : Mover) : (d.setMover i v).arbs = d.arbs := rfl
@[simp] theorem Dev.setMover_boot (i : Nat) (v : Mover) : (d.setMover i v).boot = d.boot := rfl
@[simp] theorem Dev.setMover_dap (i : Nat) (v : Mover) : (d.setMover i v).dap = d.dap := rfl
@[simp] theorem Dev.setMover_links (i : Nat) (v : Mover) : (d.setMover i v).links = d.links := rfl
@[simp] theorem Dev.setMover_hwtHeld (i : Nat) (v : Mover) : (d.setMover i v).hwtHeld = d.hwtHeld := rfl
@[simp] theorem Dev.setMover_quiesce (i : Nat) (v : Mover) : (d.setMover i v).quiesce = d.quiesce := rfl
@[simp] theorem Dev.setMover_held (i : Nat) (v : Mover) : (d.setMover i v).held = d.held := rfl
@[simp] theorem Dev.setMover_portA (i : Nat) (v : Mover) : (d.setMover i v).portA = d.portA := rfl
@[simp] theorem Dev.setMover_portB (i : Nat) (v : Mover) : (d.setMover i v).portB = d.portB := rfl
@[simp] theorem Dev.setMover_sent (i : Nat) (v : Mover) : (d.setMover i v).sent = d.sent := rfl
@[simp] theorem Dev.setMover_cpl (i : Nat) (v : Mover) : (d.setMover i v).cpl = d.cpl := rfl
@[simp] theorem Dev.setMover_resp (i : Nat) (v : Mover) : (d.setMover i v).resp = d.resp := rfl
@[simp] theorem Dev.setMover_freeCtr (i : Nat) (v : Mover) : (d.setMover i v).freeCtr = d.freeCtr := rfl
@[simp] theorem Dev.setMover_seq (i : Nat) (v : Mover) : (d.setMover i v).seq = d.seq := rfl

/-! `setMchan` -/

@[simp] theorem Dev.setMchan_regs (i : Nat) (v : MvChan) : (d.setMchan i v).regs = d.regs := rfl
@[simp] theorem Dev.setMchan_enPend (i : Nat) (v : MvChan) : (d.setMchan i v).enPend = d.enPend := rfl
@[simp] theorem Dev.setMchan_cfg (i : Nat) (v : MvChan) : (d.setMchan i v).cfg = d.cfg := rfl
@[simp] theorem Dev.setMchan_shadow (i : Nat) (v : MvChan) : (d.setMchan i v).shadow = d.shadow := rfl
@[simp] theorem Dev.setMchan_banked (i : Nat) (v : MvChan) : (d.setMchan i v).banked = d.banked := rfl
@[simp] theorem Dev.setMchan_mem (i : Nat) (v : MvChan) : (d.setMchan i v).mem = d.mem := rfl
@[simp] theorem Dev.setMchan_poison (i : Nat) (v : MvChan) : (d.setMchan i v).poison = d.poison := rfl
@[simp] theorem Dev.setMchan_hostMem (i : Nat) (v : MvChan) : (d.setMchan i v).hostMem = d.hostMem := rfl
@[simp] theorem Dev.setMchan_pacer (i : Nat) (v : MvChan) : (d.setMchan i v).pacer = d.pacer := rfl
@[simp] theorem Dev.setMchan_wl (i : Nat) (v : MvChan) : (d.setMchan i v).wl = d.wl := rfl
@[simp] theorem Dev.setMchan_ledger (i : Nat) (v : MvChan) : (d.setMchan i v).ledger = d.ledger := rfl
@[simp] theorem Dev.setMchan_gov (i : Nat) (v : MvChan) : (d.setMchan i v).gov = d.gov := rfl
@[simp] theorem Dev.setMchan_scbs (i : Nat) (v : MvChan) : (d.setMchan i v).scbs = d.scbs := rfl
@[simp] theorem Dev.setMchan_ctxs (i : Nat) (v : MvChan) : (d.setMchan i v).ctxs = d.ctxs := rfl
@[simp] theorem Dev.setMchan_engines (i : Nat) (v : MvChan) : (d.setMchan i v).engines = d.engines := rfl
@[simp] theorem Dev.setMchan_images (i : Nat) (v : MvChan) : (d.setMchan i v).images = d.images := rfl
@[simp] theorem Dev.setMchan_hif (i : Nat) (v : MvChan) : (d.setMchan i v).hif = d.hif := rfl
@[simp] theorem Dev.setMchan_srcs (i : Nat) (v : MvChan) : (d.setMchan i v).srcs = d.srcs := rfl
@[simp] theorem Dev.setMchan_prioStacks (i : Nat) (v : MvChan) : (d.setMchan i v).prioStacks = d.prioStacks := rfl
@[simp] theorem Dev.setMchan_mboxes (i : Nat) (v : MvChan) : (d.setMchan i v).mboxes = d.mboxes := rfl
@[simp] theorem Dev.setMchan_locks (i : Nat) (v : MvChan) : (d.setMchan i v).locks = d.locks := rfl
@[simp] theorem Dev.setMchan_caddy (i : Nat) (v : MvChan) : (d.setMchan i v).caddy = d.caddy := rfl
@[simp] theorem Dev.setMchan_cores (i : Nat) (v : MvChan) : (d.setMchan i v).cores = d.cores := rfl
@[simp] theorem Dev.setMchan_gpi (i : Nat) (v : MvChan) : (d.setMchan i v).gpi = d.gpi := rfl
@[simp] theorem Dev.setMchan_uarts (i : Nat) (v : MvChan) : (d.setMchan i v).uarts = d.uarts := rfl
@[simp] theorem Dev.setMchan_spis (i : Nat) (v : MvChan) : (d.setMchan i v).spis = d.spis := rfl
@[simp] theorem Dev.setMchan_i3cs (i : Nat) (v : MvChan) : (d.setMchan i v).i3cs = d.i3cs := rfl
@[simp] theorem Dev.setMchan_ecp (i : Nat) (v : MvChan) : (d.setMchan i v).ecp = d.ecp := rfl
@[simp] theorem Dev.setMchan_lqs (i : Nat) (v : MvChan) : (d.setMchan i v).lqs = d.lqs := rfl
@[simp] theorem Dev.setMchan_lastCqe (i : Nat) (v : MvChan) : (d.setMchan i v).lastCqe = d.lastCqe := rfl
@[simp] theorem Dev.setMchan_wide (i : Nat) (v : MvChan) : (d.setMchan i v).wide = d.wide := rfl
@[simp] theorem Dev.setMchan_movers (i : Nat) (v : MvChan) : (d.setMchan i v).movers = d.movers := rfl
@[simp] theorem Dev.setMchan_fifos (i : Nat) (v : MvChan) : (d.setMchan i v).fifos = d.fifos := rfl
@[simp] theorem Dev.setMchan_xdt (i : Nat) (v : MvChan) : (d.setMchan i v).xdt = d.xdt := rfl
@[simp] theorem Dev.setMchan_streams (i : Nat) (v : MvChan) : (d.setMchan i v).streams = d.streams := rfl
@[simp] theorem Dev.setMchan_streamWait (i : Nat) (v : MvChan) : (d.setMchan i v).streamWait = d.streamWait := rfl
@[simp] theorem Dev.setMchan_linkLevel (i : Nat) (v : MvChan) : (d.setMchan i v).linkLevel = d.linkLevel := rfl
@[simp] theorem Dev.setMchan_doms (i : Nat) (v : MvChan) : (d.setMchan i v).doms = d.doms := rfl
@[simp] theorem Dev.setMchan_lats (i : Nat) (v : MvChan) : (d.setMchan i v).lats = d.lats := rfl
@[simp] theorem Dev.setMchan_eins (i : Nat) (v : MvChan) : (d.setMchan i v).eins = d.eins := rfl
@[simp] theorem Dev.setMchan_eouts (i : Nat) (v : MvChan) : (d.setMchan i v).eouts = d.eouts := rfl
@[simp] theorem Dev.setMchan_slots (i : Nat) (v : MvChan) : (d.setMchan i v).slots = d.slots := rfl
@[simp] theorem Dev.setMchan_regions (i : Nat) (v : MvChan) : (d.setMchan i v).regions = d.regions := rfl
@[simp] theorem Dev.setMchan_pmic (i : Nat) (v : MvChan) : (d.setMchan i v).pmic = d.pmic := rfl
@[simp] theorem Dev.setMchan_faults (i : Nat) (v : MvChan) : (d.setMchan i v).faults = d.faults := rfl
@[simp] theorem Dev.setMchan_arbs (i : Nat) (v : MvChan) : (d.setMchan i v).arbs = d.arbs := rfl
@[simp] theorem Dev.setMchan_boot (i : Nat) (v : MvChan) : (d.setMchan i v).boot = d.boot := rfl
@[simp] theorem Dev.setMchan_dap (i : Nat) (v : MvChan) : (d.setMchan i v).dap = d.dap := rfl
@[simp] theorem Dev.setMchan_links (i : Nat) (v : MvChan) : (d.setMchan i v).links = d.links := rfl
@[simp] theorem Dev.setMchan_hwtHeld (i : Nat) (v : MvChan) : (d.setMchan i v).hwtHeld = d.hwtHeld := rfl
@[simp] theorem Dev.setMchan_quiesce (i : Nat) (v : MvChan) : (d.setMchan i v).quiesce = d.quiesce := rfl
@[simp] theorem Dev.setMchan_held (i : Nat) (v : MvChan) : (d.setMchan i v).held = d.held := rfl
@[simp] theorem Dev.setMchan_portA (i : Nat) (v : MvChan) : (d.setMchan i v).portA = d.portA := rfl
@[simp] theorem Dev.setMchan_portB (i : Nat) (v : MvChan) : (d.setMchan i v).portB = d.portB := rfl
@[simp] theorem Dev.setMchan_sent (i : Nat) (v : MvChan) : (d.setMchan i v).sent = d.sent := rfl
@[simp] theorem Dev.setMchan_cpl (i : Nat) (v : MvChan) : (d.setMchan i v).cpl = d.cpl := rfl
@[simp] theorem Dev.setMchan_resp (i : Nat) (v : MvChan) : (d.setMchan i v).resp = d.resp := rfl
@[simp] theorem Dev.setMchan_freeCtr (i : Nat) (v : MvChan) : (d.setMchan i v).freeCtr = d.freeCtr := rfl
@[simp] theorem Dev.setMchan_seq (i : Nat) (v : MvChan) : (d.setMchan i v).seq = d.seq := rfl

/-! `setArb` -/

@[simp] theorem Dev.setArb_regs (i : Nat) (v : Arb) : (d.setArb i v).regs = d.regs := rfl
@[simp] theorem Dev.setArb_enPend (i : Nat) (v : Arb) : (d.setArb i v).enPend = d.enPend := rfl
@[simp] theorem Dev.setArb_cfg (i : Nat) (v : Arb) : (d.setArb i v).cfg = d.cfg := rfl
@[simp] theorem Dev.setArb_shadow (i : Nat) (v : Arb) : (d.setArb i v).shadow = d.shadow := rfl
@[simp] theorem Dev.setArb_banked (i : Nat) (v : Arb) : (d.setArb i v).banked = d.banked := rfl
@[simp] theorem Dev.setArb_mem (i : Nat) (v : Arb) : (d.setArb i v).mem = d.mem := rfl
@[simp] theorem Dev.setArb_poison (i : Nat) (v : Arb) : (d.setArb i v).poison = d.poison := rfl
@[simp] theorem Dev.setArb_hostMem (i : Nat) (v : Arb) : (d.setArb i v).hostMem = d.hostMem := rfl
@[simp] theorem Dev.setArb_pacer (i : Nat) (v : Arb) : (d.setArb i v).pacer = d.pacer := rfl
@[simp] theorem Dev.setArb_wl (i : Nat) (v : Arb) : (d.setArb i v).wl = d.wl := rfl
@[simp] theorem Dev.setArb_ledger (i : Nat) (v : Arb) : (d.setArb i v).ledger = d.ledger := rfl
@[simp] theorem Dev.setArb_gov (i : Nat) (v : Arb) : (d.setArb i v).gov = d.gov := rfl
@[simp] theorem Dev.setArb_scbs (i : Nat) (v : Arb) : (d.setArb i v).scbs = d.scbs := rfl
@[simp] theorem Dev.setArb_ctxs (i : Nat) (v : Arb) : (d.setArb i v).ctxs = d.ctxs := rfl
@[simp] theorem Dev.setArb_engines (i : Nat) (v : Arb) : (d.setArb i v).engines = d.engines := rfl
@[simp] theorem Dev.setArb_images (i : Nat) (v : Arb) : (d.setArb i v).images = d.images := rfl
@[simp] theorem Dev.setArb_hif (i : Nat) (v : Arb) : (d.setArb i v).hif = d.hif := rfl
@[simp] theorem Dev.setArb_srcs (i : Nat) (v : Arb) : (d.setArb i v).srcs = d.srcs := rfl
@[simp] theorem Dev.setArb_prioStacks (i : Nat) (v : Arb) : (d.setArb i v).prioStacks = d.prioStacks := rfl
@[simp] theorem Dev.setArb_mboxes (i : Nat) (v : Arb) : (d.setArb i v).mboxes = d.mboxes := rfl
@[simp] theorem Dev.setArb_locks (i : Nat) (v : Arb) : (d.setArb i v).locks = d.locks := rfl
@[simp] theorem Dev.setArb_caddy (i : Nat) (v : Arb) : (d.setArb i v).caddy = d.caddy := rfl
@[simp] theorem Dev.setArb_cores (i : Nat) (v : Arb) : (d.setArb i v).cores = d.cores := rfl
@[simp] theorem Dev.setArb_gpi (i : Nat) (v : Arb) : (d.setArb i v).gpi = d.gpi := rfl
@[simp] theorem Dev.setArb_uarts (i : Nat) (v : Arb) : (d.setArb i v).uarts = d.uarts := rfl
@[simp] theorem Dev.setArb_spis (i : Nat) (v : Arb) : (d.setArb i v).spis = d.spis := rfl
@[simp] theorem Dev.setArb_i3cs (i : Nat) (v : Arb) : (d.setArb i v).i3cs = d.i3cs := rfl
@[simp] theorem Dev.setArb_ecp (i : Nat) (v : Arb) : (d.setArb i v).ecp = d.ecp := rfl
@[simp] theorem Dev.setArb_lqs (i : Nat) (v : Arb) : (d.setArb i v).lqs = d.lqs := rfl
@[simp] theorem Dev.setArb_lastCqe (i : Nat) (v : Arb) : (d.setArb i v).lastCqe = d.lastCqe := rfl
@[simp] theorem Dev.setArb_wide (i : Nat) (v : Arb) : (d.setArb i v).wide = d.wide := rfl
@[simp] theorem Dev.setArb_movers (i : Nat) (v : Arb) : (d.setArb i v).movers = d.movers := rfl
@[simp] theorem Dev.setArb_mchans (i : Nat) (v : Arb) : (d.setArb i v).mchans = d.mchans := rfl
@[simp] theorem Dev.setArb_fifos (i : Nat) (v : Arb) : (d.setArb i v).fifos = d.fifos := rfl
@[simp] theorem Dev.setArb_xdt (i : Nat) (v : Arb) : (d.setArb i v).xdt = d.xdt := rfl
@[simp] theorem Dev.setArb_streams (i : Nat) (v : Arb) : (d.setArb i v).streams = d.streams := rfl
@[simp] theorem Dev.setArb_streamWait (i : Nat) (v : Arb) : (d.setArb i v).streamWait = d.streamWait := rfl
@[simp] theorem Dev.setArb_linkLevel (i : Nat) (v : Arb) : (d.setArb i v).linkLevel = d.linkLevel := rfl
@[simp] theorem Dev.setArb_doms (i : Nat) (v : Arb) : (d.setArb i v).doms = d.doms := rfl
@[simp] theorem Dev.setArb_lats (i : Nat) (v : Arb) : (d.setArb i v).lats = d.lats := rfl
@[simp] theorem Dev.setArb_eins (i : Nat) (v : Arb) : (d.setArb i v).eins = d.eins := rfl
@[simp] theorem Dev.setArb_eouts (i : Nat) (v : Arb) : (d.setArb i v).eouts = d.eouts := rfl
@[simp] theorem Dev.setArb_slots (i : Nat) (v : Arb) : (d.setArb i v).slots = d.slots := rfl
@[simp] theorem Dev.setArb_regions (i : Nat) (v : Arb) : (d.setArb i v).regions = d.regions := rfl
@[simp] theorem Dev.setArb_pmic (i : Nat) (v : Arb) : (d.setArb i v).pmic = d.pmic := rfl
@[simp] theorem Dev.setArb_faults (i : Nat) (v : Arb) : (d.setArb i v).faults = d.faults := rfl
@[simp] theorem Dev.setArb_boot (i : Nat) (v : Arb) : (d.setArb i v).boot = d.boot := rfl
@[simp] theorem Dev.setArb_dap (i : Nat) (v : Arb) : (d.setArb i v).dap = d.dap := rfl
@[simp] theorem Dev.setArb_links (i : Nat) (v : Arb) : (d.setArb i v).links = d.links := rfl
@[simp] theorem Dev.setArb_hwtHeld (i : Nat) (v : Arb) : (d.setArb i v).hwtHeld = d.hwtHeld := rfl
@[simp] theorem Dev.setArb_quiesce (i : Nat) (v : Arb) : (d.setArb i v).quiesce = d.quiesce := rfl
@[simp] theorem Dev.setArb_held (i : Nat) (v : Arb) : (d.setArb i v).held = d.held := rfl
@[simp] theorem Dev.setArb_portA (i : Nat) (v : Arb) : (d.setArb i v).portA = d.portA := rfl
@[simp] theorem Dev.setArb_portB (i : Nat) (v : Arb) : (d.setArb i v).portB = d.portB := rfl
@[simp] theorem Dev.setArb_sent (i : Nat) (v : Arb) : (d.setArb i v).sent = d.sent := rfl
@[simp] theorem Dev.setArb_cpl (i : Nat) (v : Arb) : (d.setArb i v).cpl = d.cpl := rfl
@[simp] theorem Dev.setArb_resp (i : Nat) (v : Arb) : (d.setArb i v).resp = d.resp := rfl
@[simp] theorem Dev.setArb_freeCtr (i : Nat) (v : Arb) : (d.setArb i v).freeCtr = d.freeCtr := rfl
@[simp] theorem Dev.setArb_seq (i : Nat) (v : Arb) : (d.setArb i v).seq = d.seq := rfl

/-! `setWfault` -/

@[simp] theorem Dev.setWfault_regs (i : Nat) (v : WheelFault) : (d.setWfault i v).regs = d.regs := rfl
@[simp] theorem Dev.setWfault_enPend (i : Nat) (v : WheelFault) : (d.setWfault i v).enPend = d.enPend := rfl
@[simp] theorem Dev.setWfault_cfg (i : Nat) (v : WheelFault) : (d.setWfault i v).cfg = d.cfg := rfl
@[simp] theorem Dev.setWfault_shadow (i : Nat) (v : WheelFault) : (d.setWfault i v).shadow = d.shadow := rfl
@[simp] theorem Dev.setWfault_banked (i : Nat) (v : WheelFault) : (d.setWfault i v).banked = d.banked := rfl
@[simp] theorem Dev.setWfault_mem (i : Nat) (v : WheelFault) : (d.setWfault i v).mem = d.mem := rfl
@[simp] theorem Dev.setWfault_poison (i : Nat) (v : WheelFault) : (d.setWfault i v).poison = d.poison := rfl
@[simp] theorem Dev.setWfault_hostMem (i : Nat) (v : WheelFault) : (d.setWfault i v).hostMem = d.hostMem := rfl
@[simp] theorem Dev.setWfault_pacer (i : Nat) (v : WheelFault) : (d.setWfault i v).pacer = d.pacer := rfl
@[simp] theorem Dev.setWfault_wl (i : Nat) (v : WheelFault) : (d.setWfault i v).wl = d.wl := rfl
@[simp] theorem Dev.setWfault_ledger (i : Nat) (v : WheelFault) : (d.setWfault i v).ledger = d.ledger := rfl
@[simp] theorem Dev.setWfault_gov (i : Nat) (v : WheelFault) : (d.setWfault i v).gov = d.gov := rfl
@[simp] theorem Dev.setWfault_scbs (i : Nat) (v : WheelFault) : (d.setWfault i v).scbs = d.scbs := rfl
@[simp] theorem Dev.setWfault_ctxs (i : Nat) (v : WheelFault) : (d.setWfault i v).ctxs = d.ctxs := rfl
@[simp] theorem Dev.setWfault_engines (i : Nat) (v : WheelFault) : (d.setWfault i v).engines = d.engines := rfl
@[simp] theorem Dev.setWfault_images (i : Nat) (v : WheelFault) : (d.setWfault i v).images = d.images := rfl
@[simp] theorem Dev.setWfault_hif (i : Nat) (v : WheelFault) : (d.setWfault i v).hif = d.hif := rfl
@[simp] theorem Dev.setWfault_srcs (i : Nat) (v : WheelFault) : (d.setWfault i v).srcs = d.srcs := rfl
@[simp] theorem Dev.setWfault_prioStacks (i : Nat) (v : WheelFault) : (d.setWfault i v).prioStacks = d.prioStacks := rfl
@[simp] theorem Dev.setWfault_mboxes (i : Nat) (v : WheelFault) : (d.setWfault i v).mboxes = d.mboxes := rfl
@[simp] theorem Dev.setWfault_locks (i : Nat) (v : WheelFault) : (d.setWfault i v).locks = d.locks := rfl
@[simp] theorem Dev.setWfault_caddy (i : Nat) (v : WheelFault) : (d.setWfault i v).caddy = d.caddy := rfl
@[simp] theorem Dev.setWfault_cores (i : Nat) (v : WheelFault) : (d.setWfault i v).cores = d.cores := rfl
@[simp] theorem Dev.setWfault_gpi (i : Nat) (v : WheelFault) : (d.setWfault i v).gpi = d.gpi := rfl
@[simp] theorem Dev.setWfault_uarts (i : Nat) (v : WheelFault) : (d.setWfault i v).uarts = d.uarts := rfl
@[simp] theorem Dev.setWfault_spis (i : Nat) (v : WheelFault) : (d.setWfault i v).spis = d.spis := rfl
@[simp] theorem Dev.setWfault_i3cs (i : Nat) (v : WheelFault) : (d.setWfault i v).i3cs = d.i3cs := rfl
@[simp] theorem Dev.setWfault_ecp (i : Nat) (v : WheelFault) : (d.setWfault i v).ecp = d.ecp := rfl
@[simp] theorem Dev.setWfault_lqs (i : Nat) (v : WheelFault) : (d.setWfault i v).lqs = d.lqs := rfl
@[simp] theorem Dev.setWfault_lastCqe (i : Nat) (v : WheelFault) : (d.setWfault i v).lastCqe = d.lastCqe := rfl
@[simp] theorem Dev.setWfault_wide (i : Nat) (v : WheelFault) : (d.setWfault i v).wide = d.wide := rfl
@[simp] theorem Dev.setWfault_movers (i : Nat) (v : WheelFault) : (d.setWfault i v).movers = d.movers := rfl
@[simp] theorem Dev.setWfault_mchans (i : Nat) (v : WheelFault) : (d.setWfault i v).mchans = d.mchans := rfl
@[simp] theorem Dev.setWfault_fifos (i : Nat) (v : WheelFault) : (d.setWfault i v).fifos = d.fifos := rfl
@[simp] theorem Dev.setWfault_xdt (i : Nat) (v : WheelFault) : (d.setWfault i v).xdt = d.xdt := rfl
@[simp] theorem Dev.setWfault_streams (i : Nat) (v : WheelFault) : (d.setWfault i v).streams = d.streams := rfl
@[simp] theorem Dev.setWfault_streamWait (i : Nat) (v : WheelFault) : (d.setWfault i v).streamWait = d.streamWait := rfl
@[simp] theorem Dev.setWfault_linkLevel (i : Nat) (v : WheelFault) : (d.setWfault i v).linkLevel = d.linkLevel := rfl
@[simp] theorem Dev.setWfault_doms (i : Nat) (v : WheelFault) : (d.setWfault i v).doms = d.doms := rfl
@[simp] theorem Dev.setWfault_lats (i : Nat) (v : WheelFault) : (d.setWfault i v).lats = d.lats := rfl
@[simp] theorem Dev.setWfault_eins (i : Nat) (v : WheelFault) : (d.setWfault i v).eins = d.eins := rfl
@[simp] theorem Dev.setWfault_eouts (i : Nat) (v : WheelFault) : (d.setWfault i v).eouts = d.eouts := rfl
@[simp] theorem Dev.setWfault_slots (i : Nat) (v : WheelFault) : (d.setWfault i v).slots = d.slots := rfl
@[simp] theorem Dev.setWfault_regions (i : Nat) (v : WheelFault) : (d.setWfault i v).regions = d.regions := rfl
@[simp] theorem Dev.setWfault_pmic (i : Nat) (v : WheelFault) : (d.setWfault i v).pmic = d.pmic := rfl
@[simp] theorem Dev.setWfault_arbs (i : Nat) (v : WheelFault) : (d.setWfault i v).arbs = d.arbs := rfl
@[simp] theorem Dev.setWfault_boot (i : Nat) (v : WheelFault) : (d.setWfault i v).boot = d.boot := rfl
@[simp] theorem Dev.setWfault_dap (i : Nat) (v : WheelFault) : (d.setWfault i v).dap = d.dap := rfl
@[simp] theorem Dev.setWfault_links (i : Nat) (v : WheelFault) : (d.setWfault i v).links = d.links := rfl
@[simp] theorem Dev.setWfault_hwtHeld (i : Nat) (v : WheelFault) : (d.setWfault i v).hwtHeld = d.hwtHeld := rfl
@[simp] theorem Dev.setWfault_quiesce (i : Nat) (v : WheelFault) : (d.setWfault i v).quiesce = d.quiesce := rfl
@[simp] theorem Dev.setWfault_held (i : Nat) (v : WheelFault) : (d.setWfault i v).held = d.held := rfl
@[simp] theorem Dev.setWfault_portA (i : Nat) (v : WheelFault) : (d.setWfault i v).portA = d.portA := rfl
@[simp] theorem Dev.setWfault_portB (i : Nat) (v : WheelFault) : (d.setWfault i v).portB = d.portB := rfl
@[simp] theorem Dev.setWfault_sent (i : Nat) (v : WheelFault) : (d.setWfault i v).sent = d.sent := rfl
@[simp] theorem Dev.setWfault_cpl (i : Nat) (v : WheelFault) : (d.setWfault i v).cpl = d.cpl := rfl
@[simp] theorem Dev.setWfault_resp (i : Nat) (v : WheelFault) : (d.setWfault i v).resp = d.resp := rfl
@[simp] theorem Dev.setWfault_freeCtr (i : Nat) (v : WheelFault) : (d.setWfault i v).freeCtr = d.freeCtr := rfl
@[simp] theorem Dev.setWfault_seq (i : Nat) (v : WheelFault) : (d.setWfault i v).seq = d.seq := rfl

end Sys2Proof.Machine
end

