-- ==== Sys2Proof/Laws/Ops.lean ====
section
/-!
SUPPORT. One lemma for each shared operation that says what it can do, so that a proof cites it and does not unfold the operation: completion,
register words, counters, the ledger, domains, the wake list, memory.
-/

namespace Sys2Proof.Machine

/-! ### Completion -/

/-- A command that is one function of the device completes with that function's value. -/
theorem runs_of_run {c : Instr} {s : State} {f : Dev → Dev} {e : Dev} (h : exec c s = s.run f) (he : f s.dev = e) : Runs c s e := by
  subst he; exact h

/-- What no step of a fold changes, the fold does not change. -/
theorem foldl_keep {α β : Type} (g : Dev → α) {f : Dev → β → Dev} (h : ∀ d x, g (f d x) = g d) (l : List β) (d : Dev) :
    g (l.foldl f d) = g d := by
  induction l generalizing d with
  | nil => rfl
  | cons x xs ih => rw [List.foldl_cons, ih, h]

/-! ### The entry just written -/

theorem scb_setScb (d : Dev) (i : Nat) {v : Scb} (h : v ≠ {}) : (d.setScb i v).scb i = v := smGet_smSet_of_ne _ _ h
theorem ctx_setCtx (d : Dev) (i : Nat) {v : Ctx} (h : v ≠ {}) : (d.setCtx i v).ctx i = v := smGet_smSet_of_ne _ _ h
theorem dom_setDom (d : Dev) (k : Nat) {v : Dom} (h : v ≠ {}) : (d.setDom k v).dom k = v := smGet_smSet_of_ne _ _ h
theorem src_setSrc (d : Dev) (k : Nat) {v : Src} (h : v ≠ {}) : (d.setSrc k v).src k = v := smGet_smSet_of_ne _ _ h
theorem mbox_setMbox (d : Dev) (m : Nat) {v : Mbox} (h : v ≠ {}) : (d.setMbox m v).mbox m = v := smGet_smSet_of_ne _ _ h
theorem lock_setLock (d : Dev) (k : Nat) {v : Lock} (h : v ≠ {}) : (d.setLock k v).lock k = v := smGet_smSet_of_ne _ _ h

/-! ### Register words -/

/-- A register written reads back, and every other as before, where the register words are kept in their order. -/
theorem reg_setReg {d : Dev} (hs : smSorted none d.regs = true) (p o q x : Nat) (v : Word) :
    (d.setReg p o v).reg q x = if rk q x = rk p o then v else d.reg q x := by
  unfold Dev.reg Dev.setReg
  by_cases h : rk q x = rk p o
  · rw [if_pos h, h]; simp only []
    rw [smGet_smSet hs, if_pos rfl]
  · rw [if_neg h]
    simp only []
    unfold smGet smSet
    split
    · rw [smFind_smErase hs, if_neg h]
    · rw [smFind_smPut_other _ _ h]

/-- A write keeps that order. -/
theorem setReg_sorted {d : Dev} (hs : smSorted none d.regs = true) (p o : Nat) (v : Word) : smSorted none (d.setReg p o v).regs = true := by
  unfold Dev.setReg smSet; simp only []
  split
  · exact smSorted_smErase hs
  · exact smSorted_smPut hs (by intro b h; cases h)

/-- The plain write of a register, shadowed or banked or neither, changes register words alone (R131, R537, R539). -/
theorem plain_eq (d : Dev) (a p o v) : d.plain a p o v =
    { d with regs := (d.plain a p o v).regs, shadow := (d.plain a p o v).shadow, banked := (d.plain a p o v).banked } := by
  unfold Dev.plain; split
  · rfl
  · split
    · rfl
    · split <;> rfl

/-- A counter's bump changes register words alone (R75). -/
theorem bump_eq (d : Dev) (p o n so sb) : d.bump p o n so sb = { d with regs := (d.bump p o n so sb).regs } := by
  unfold Dev.bump; simp only []; split <;> rfl

/-- So does a page's event. -/
theorem setReg_eq (d : Dev) (p o v) : d.setReg p o v = { d with regs := (d.setReg p o v).regs } := rfl
theorem pageEvt_eq (d : Dev) (p bits) : d.pageEvt p bits = { d with regs := (d.pageEvt p bits).regs } := setReg_eq ..

/-- So does a discarded write (R6). -/
theorem badWrite_eq (d : Dev) (p a o) : d.badWrite p a o = { d with regs := (d.badWrite p a o).regs } := by
  unfold Dev.badWrite; simp only []; split
  · exact pageEvt_eq ..
  · exact (pageEvt_eq ..).trans (by rw [setReg_eq d p 0x00C])

/-! ### The ledger -/

/-- A charge changes the ledger alone (R60). -/
theorem charge_eq (d : Dev) (tag x) : d.charge tag x = { d with ledger := (d.charge tag x).ledger } := rfl

/-- A charge of a region is noted for the calibration and the governor (R66, R70). -/
theorem noteRegion_eq (d : Dev) (r x w) :
    d.noteRegion r x w = { d with ledger := (d.noteRegion r x w).ledger, gov := (d.noteRegion r x w).gov } := by
  unfold Dev.noteRegion; split <;> rfl

/-- A fold of pending counts changes the ledger, and the charges the governor watches (R59, R70). -/
theorem foldEntry_eq (d : Dev) (e) : d.foldEntry e = { d with ledger := (d.foldEntry e).ledger, gov := (d.foldEntry e).gov } := by
  have h : ∀ t x r y, (d.charge t x).noteRegion r x y =
      { d with ledger := ((d.charge t x).noteRegion r x y).ledger, gov := ((d.charge t x).noteRegion r x y).gov } := by
    intro t x r y
    rw [noteRegion_eq]
    generalize (d.charge t x).noteRegion r x y = z
    rfl
  exact h ..

theorem foldEntries_eq (l : List (Nat × Nat)) (d : Dev) :
    l.foldl Dev.foldEntry d = { d with ledger := (l.foldl Dev.foldEntry d).ledger, gov := (l.foldl Dev.foldEntry d).gov } := by
  induction l generalizing d with
  | nil => rfl
  | cons e l ih => rw [List.foldl_cons, ih (d.foldEntry e), foldEntry_eq d e]

theorem foldTag_eq (d : Dev) (tag) : d.foldTag tag = { d with ledger := (d.foldTag tag).ledger, gov := (d.foldTag tag).gov } := by
  unfold Dev.foldTag Dev.foldWhere
  simp only []
  split
  · rw [foldEntries_eq]
  · rfl

/-- A sample of DT64 is the pacer's value, and changes the pacer, the clamp's counter and the ledger alone (R39, R40). -/
theorem sample_eq (d : Dev) (tag) : (d.sample tag).1 = d.now ∧ (d.sample tag).2 =
    { d with pacer := (d.sample tag).2.pacer, regs := (d.sample tag).2.regs, ledger := (d.sample tag).2.ledger } := by
  refine ⟨rfl, ?_⟩
  unfold Dev.sample
  simp only []
  rw [count_eq]
  split
  · rw [bump_eq]
  · rfl

/-! ### Domains -/

/-- A request that touches a domain, or wakes it, changes the domains alone (R25, R438). -/
theorem touch_eq (d : Dev) (k) : d.touch k = { d with doms := (d.touch k).doms } := by unfold Dev.touch; split <;> rfl
theorem startExit_eq (d : Dev) (k b t) : d.startExit k b t = { d with doms := (d.startExit k b t).doms } := by
  unfold Dev.startExit
  simp only []
  split
  · rfl
  · split
    · rfl
    · rfl
    · split <;> rfl
theorem demandWake_eq (d : Dev) (k) : d.demandWake k = { d with doms := (d.demandWake k).doms } := by
  unfold Dev.demandWake
  split
  · rfl
  · exact startExit_eq ..

/-- A request that arrives at a domain gets through, meets a fence, or wakes the domain; it changes the domains alone (R25, R474). -/
theorem knock_eq (d : Dev) (k) : d.knock k = (d.gate k, { d with doms := (d.knock k).2.doms }) := by
  unfold Dev.knock
  cases d.gate k with
  | ok => exact Prod.ext rfl (touch_eq d k)
  | fenced => rfl
  | asleep => exact Prod.ext rfl (demandWake_eq d k)

/-! ### The wake list -/

/-- An insertion is refused by a full list or finds its time reached, or places its entry (R51, R55). -/
theorem wlInsert_cases (d : Dev) (tag : Nat) (e : WlEntry) :
    (reached d.now e.target = true ∧ d.wlInsert tag e = (.reached, d)) ∨
    (reached d.now e.target = false ∧ 512 ≤ d.wl.length ∧ d.wlInsert tag e = (.refused, d.bump pgPCR 0x078 1 0x084 1)) ∨
    (reached d.now e.target = false ∧ d.wl.length < 512 ∧ ∃ f : Dev, d.wlInsert tag e = (.inserted, f) ∧
      f = { d with wl := wlPlace e d.wl, regs := f.regs, ledger := f.ledger }) := by
  unfold Dev.wlInsert
  cases hr : reached d.now e.target with
  | true => exact .inl ⟨rfl, rfl⟩
  | false =>
    by_cases hc : 512 ≤ d.wl.length
    · exact .inr (.inl ⟨rfl, hc, by rw [if_neg (by decide), if_pos hc]⟩)
    · refine .inr (.inr ⟨rfl, by omega, _, by rw [if_neg (by decide), if_neg hc], ?_⟩)
      rw [count_eq]
      split <;> rfl

/-- A removal changes the list and the ledger alone. -/
theorem wlRemove_eq (d : Dev) (t k i) : d.wlRemove t k i = { d with wl := (d.wlRemove t k i).wl, ledger := (d.wlRemove t k i).ledger } := by
  unfold Dev.wlRemove
  split
  · rw [count_eq]
  · rfl

/-! ### Memory -/

/-- The check of a word changes no byte (R395). -/
theorem checkWord_mem (d : Dev) (a) : (d.checkWord a).2.mem = d.mem := by
  have hi : ∀ p c, (d.takeInject p c).2.mem = d.mem := by
    intro p c; unfold Dev.takeInject; simp only []
    split
    · split <;> rfl
    · rfl
  unfold Dev.checkWord
  split
  · rfl
  · rename_i c _
    have h := hi c.page c.num
    cases hm : d.takeInject c.page c.num with
    | mk x e =>
      rw [hm] at h
      cases x with
      | none => exact h
      | some dbl =>
        have he : ∀ x, (e.eccCount c.page x).mem = d.mem := by
          intro x; unfold Dev.eccCount
          split
          · exact h
          · exact h
        simp only []
        split
        · exact h
        · split
          · simp only []
            split <;> exact he _
          · exact he _

/-- A write of part of a word keeps the canonical form. -/
theorem writeWord_wf {d : Dev} (h : Memory.wf d.mem) (a : Nat) (bs : List Byte) : Memory.wf (d.writeWord a bs).2.mem := by
  unfold Dev.writeWord
  split
  · exact poke_wf (d := d.setPoison a false) h a bs
  · split
    · exact poke_wf h a bs
    · have hc : Memory.wf (d.checkWord (a / 8 * 8)).2.mem := by rw [checkWord_mem]; exact h
      simp only []
      split
      · exact hc
      · exact poke_wf hc _ _

theorem writeWords_wf (l : List (Nat × List Byte)) (r : Bool × Dev) (h : Memory.wf r.2.mem) :
    Memory.wf (l.foldl (fun r p => let c := r.2.writeWord p.1 p.2; (r.1 || c.1, c.2)) r).2.mem := by
  induction l generalizing r with
  | nil => exact h
  | cons p l ih => exact ih _ (writeWord_wf h p.1 p.2)

/-- A write to device memory keeps the canonical form. -/
theorem memWrite_wf {d : Dev} (h : Memory.wf d.mem) (a : Nat) (bs : List Byte) : Memory.wf (d.memWrite a bs).2.mem :=
  writeWords_wf _ _ h

/-- So does a write to host memory, of the host's. -/
theorem hostPoke_wf {d : Dev} (h : Memory.wf d.hostMem) (a : Nat) (bs : List Byte) : Memory.wf (d.hostPoke a bs).hostMem :=
  memPutAll_wf h _ bs

/-- The host window table's reset keeps it; and a cold reset leaves memory empty (R404, R489). -/
theorem clearHwt_wf {d : Dev} (h : Memory.wf d.mem) : Memory.wf d.clearHwt.mem := memClear_wf h _ _
theorem powerOn_wf (d : Dev) (b : Bool) : Memory.wf (d.powerOn b).mem := reset_mem_wf

/-! ### Held requests -/

/-- With nothing held, nothing is made again. -/
theorem retryHeld_nil {d : Dev} (h : d.held = []) : d.retryHeld = d := by
  unfold Dev.retryHeld; rw [h]; cases d; cases h; rfl

/-- An access that finds a domain asleep on its way is held last, and that domain has begun its exit. -/
theorem wr_asleep {d e : Dev} {a p o : Nat} {v : Word} (hc : d.canAccess a = true) (hd : a ≠ agDebug)
    (hg : d.regReach a p o true = (.asleep, e)) : d.wr a p o v = d.holds e (.regWrite a p o v) := by
  simp [Dev.wr, Dev.regWrite, Dev.regPut, hc, hd, hg]

theorem rd_asleep {d e : Dev} {a p o : Nat} (hc : d.canAccess a = true) (hd : a ≠ agDebug)
    (hg : d.regReach a p o false = (.asleep, e)) : d.rd a p o = d.holds e (.regRead a p o) := by
  simp [Dev.rd, Dev.regRead, hc, hd, hg]

end Sys2Proof.Machine
end

