-- ==== Sys2Proof/Laws/Routes.lean ====
section
/-!
SUPPORT. Which of the block's rules a register write comes to: for each page the rules of its block, and for the registers of a row of
instances the instance.
-/

namespace Sys2Proof.Machine

/-- A register of a block, past the common header, that has a writable bit. -/
def blockWritable (p o : Nat) : Bool := match regRow p o with
  | some r => !(decide (r.rw = 0) && decide (r.w1c = 0) && decide (r.wo = 0)) && !decide (o < 0x040)
  | none => false

/-- A register of the common header that has a writable bit. -/
def headerWritable (p o : Nat) : Bool := match regRow p o with
  | some r => !(decide (r.rw = 0) && decide (r.w1c = 0) && decide (r.wo = 0)) && decide (o < 0x040)
  | none => false

/-- A write that arrives at a writable register of an unlocked block does what the block's rules say. -/
theorem wr_block {d e e' : Dev} {a p o : Nat} {v : Word} (h : d.arrives a p o true = some e) (hu : e.unlocked p a)
    (hb : blockWritable p o = true) (hw : e.writeBlock a (e.tagOf a) p o v = some e') : e' = d.wr a p o v := by
  rw [wr_arrives h]
  unfold blockWritable at hb
  cases hr : regRow p o with
  | none => rw [hr] at hb; cases hb
  | some r =>
    rw [hr] at hb
    simp at hb
    rw [writeReg_block hr (by omega) hu (by omega), hw]; rfl

/-- The same for a register of the header. -/
theorem wr_header {d e e' : Dev} {a p o : Nat} {v : Word} (h : d.arrives a p o true = some e) (hu : e.unlocked p a)
    (hb : headerWritable p o = true) (hw : e.writeHeader a p o v = some e') : e' = d.wr a p o v := by
  rw [wr_arrives h]
  unfold headerWritable at hb
  cases hr : regRow p o with
  | none => rw [hr] at hb; cases hb
  | some r =>
    rw [hr] at hb
    simp at hb
    rw [writeReg_header hr (by omega) hu (by omega), hw]; rfl

/-- A read that arrives answers what the register's rules say. -/
theorem answers_rd {c : Instr} {s : State} {d e e' : Dev} {a p o : Nat} {w : Word} (h : exec c s = s.run fun _ => d.rd a p o)
    (ha : d.arrives a p o false = some e) (hq : ¬ (p = pgHWT ∧ o = 0x040)) (hr : (regRow p o).isSome = true)
    (hw : e.readReg a (e.tagOf a) p o = (w, e')) : Answers c s e' w := by
  have := rd_arrives ha hq hr
  unfold Answers Runs
  rw [h]; unfold State.run; rw [this, hw]

/-- A register that is all plain writable bits takes the word written. -/
def wholeWord (p o : Nat) : Bool := match regRow p o with
  | some r => !r.banked && !r.rws && decide (w32 r.rw = BitVec.allOnes 32) && decide (r.w1c = 0)
  | none => false

theorem plain_whole {d : Dev} {a p o : Nat} {v : Word} (h : wholeWord p o = true) : d.plain a p o v = d.setReg p o v := by
  unfold wholeWord at h
  cases hr : regRow p o with
  | none => rw [hr] at h; cases h
  | some r =>
    rw [hr] at h
    simp at h
    unfold Dev.plain RegRow.written
    simp only [hr, h.1.1.1, h.1.1.2, h.1.2, h.2]
    have : (4294967295#32 : Word) = BitVec.allOnes 32 := by decide
    simp
    rw [this, BitVec.and_allOnes]

/-! ### The block of a page -/

theorem writeBlock_ce (e : Dev) (a t o : Nat) (v : Word) (n : Fin 16) : e.writeBlock a t (pgCE + n) o v = e.writeCE a n o v := by
  obtain ⟨n, hn⟩ := n
  have : n = 0 ∨ n = 1 ∨ n = 2 ∨ n = 3 ∨ n = 4 ∨ n = 5 ∨ n = 6 ∨ n = 7 ∨ n = 8 ∨ n = 9 ∨ n = 10 ∨ n = 11 ∨ n = 12 ∨ n = 13 ∨
    n = 14 ∨ n = 15 := by omega
  rcases this with rfl | rfl | rfl | rfl | rfl | rfl | rfl | rfl | rfl | rfl | rfl | rfl | rfl | rfl | rfl | rfl <;> rfl

theorem writeBlock_wicu (e : Dev) (a t : Nat) (w : Fin 8) (o : Nat) (v : Word) : e.writeBlock a t (pgWICU + w) o v = e.writeWICU a t w o v := by
  obtain ⟨w, hw⟩ := w
  have : w = 0 ∨ w = 1 ∨ w = 2 ∨ w = 3 ∨ w = 4 ∨ w = 5 ∨ w = 6 ∨ w = 7 := by omega
  rcases this with rfl | rfl | rfl | rfl | rfl | rfl | rfl | rfl <;> rfl

theorem writeBlock_wmbx (e : Dev) (a t : Nat) (w : Fin 8) (o : Nat) (v : Word) : e.writeBlock a t (pgWMBX + w) o v = e.writeWMBX a t w o v := by
  obtain ⟨w, hw⟩ := w
  have : w = 0 ∨ w = 1 ∨ w = 2 ∨ w = 3 ∨ w = 4 ∨ w = 5 ∨ w = 6 ∨ w = 7 := by omega
  rcases this with rfl | rfl | rfl | rfl | rfl | rfl | rfl | rfl <;> rfl

theorem writeBlock_warb (e : Dev) (a t : Nat) (w : Fin 8) (o : Nat) (v : Word) : e.writeBlock a t (pgWARB + w) o v = e.writeWARB a w o v := by
  obtain ⟨w, hw⟩ := w
  have : w = 0 ∨ w = 1 ∨ w = 2 ∨ w = 3 ∨ w = 4 ∨ w = 5 ∨ w = 6 ∨ w = 7 := by omega
  rcases this with rfl | rfl | rfl | rfl | rfl | rfl | rfl | rfl <;> rfl

theorem writeBlock_wcor (e : Dev) (a t : Nat) (w : Fin 8) (o : Nat) (v : Word) : e.writeBlock a t (pgWCOR + w) o v = e.writeWCOR a w o v := by
  obtain ⟨w, hw⟩ := w
  have : w = 0 ∨ w = 1 ∨ w = 2 ∨ w = 3 ∨ w = 4 ∨ w = 5 ∨ w = 6 ∨ w = 7 := by omega
  rcases this with rfl | rfl | rfl | rfl | rfl | rfl | rfl | rfl <;> rfl

theorem writeBlock_wdm (e : Dev) (a t o : Nat) (v : Word) (k : Fin 128) : e.writeBlock a t (chPage k) o v = e.writeWDM a (k / 16) o v := by
  obtain ⟨k, hk⟩ := k
  unfold chPage
  have : k / 16 = 0 ∨ k / 16 = 1 ∨ k / 16 = 2 ∨ k / 16 = 3 ∨ k / 16 = 4 ∨ k / 16 = 5 ∨ k / 16 = 6 ∨ k / 16 = 7 := by omega
  rcases this with h | h | h | h | h | h | h | h <;> simp only [h] <;> rfl

theorem writeBlock_nva (e : Dev) (a t o : Nat) (v : Word) : e.writeBlock a t pgNVA o v = e.writeNVA a o v := rfl
theorem writeBlock_i3c (e : Dev) (a t o : Nat) (v : Word) : e.writeBlock a t pgI3C o v = e.writeI3C a o v := rfl
theorem writeBlock_gpi (e : Dev) (a t o : Nat) (v : Word) : e.writeBlock a t pgGPI o v = e.writeGPI a t o v := rfl
theorem writeBlock_hif (e : Dev) (a t o : Nat) (v : Word) : e.writeBlock a t pgHIF o v = e.writeHIF a o v := rfl
theorem writeBlock_fif (e : Dev) (a t o : Nat) (v : Word) : e.writeBlock a t pgFIF o v = e.writeFIF a o v := rfl
theorem writeBlock_xcr (e : Dev) (a t o : Nat) (v : Word) : e.writeBlock a t pgXCR o v = e.writeXCR a o v := rfl
theorem writeBlock_xae (e : Dev) (a t o : Nat) (v : Word) : e.writeBlock a t pgXAE o v = e.writeXAE a o v := rfl
theorem writeBlock_cdy (e : Dev) (a t o : Nat) (v : Word) : e.writeBlock a t pgCDY o v = e.writeCDY a o v := rfl
theorem writeBlock_pwd (e : Dev) (a t o : Nat) (v : Word) : e.writeBlock a t pgPWD o v = e.writePWD a o v := rfl
theorem writeBlock_ktl (e : Dev) (a t o : Nat) (v : Word) : e.writeBlock a t pgKTL o v = e.writeKTL a t o v := rfl

/-! ### The instance of a register -/

theorem writeWDM_cfg (e : Dev) (a : Nat) (v : Word) (k : Fin 128) : e.writeWDM a (k / 16) (mvOff k 8) v = e.mvCfgWrite k v := by
  unfold Dev.writeWDM mvOff
  have := k.isLt
  simp only []
  rw [if_pos (by omega)]
  rw [if_neg (by omega)]
  rw [if_pos (by omega), show 16 * (k.val / 16) + (0x100 + 0x20 * (k.val % 16) + 8 - 0x100) / 32 = k by omega]

theorem writeWDM_tail (e : Dev) (a : Nat) (v : Word) (k : Fin 128) : e.writeWDM a (k / 16) (mvOff k 0x0C) v = e.mvTailWrite k v := by
  unfold Dev.writeWDM mvOff
  have := k.isLt
  simp only []
  rw [if_pos (by omega)]
  iterate 2 rw [if_neg (by omega)]
  rw [if_pos (by omega), show 16 * (k.val / 16) + (0x100 + 0x20 * (k.val % 16) + 12 - 0x100) / 32 = k by omega]

theorem writeWCOR_ctrl (d : Dev) (a : Nat) (k : Fin 64) (v : Word) : d.writeWCOR a (k / 8) (corOff k 0) v = some (d.coreCtrl a k v) := by
  unfold Dev.writeWCOR
  have h1 : ¬ corOff k 0 < 0x100 := by unfold corOff; omega
  have h2 : 8 * (k.val / 8) + (corOff k 0 - 0x100) / 32 = k := by unfold corOff; omega
  have h3 : corOff k 0 % 32 = 0 := by unfold corOff; omega
  simp only []
  rw [if_neg h1, if_pos h3, h2]

theorem writeHIF_cfg (e : Dev) (a : Nat) (i : Fin 128) (v : Word) : e.writeHIF a (rcfgOff i) v = e.writeRCFG i v := by
  unfold Dev.writeHIF rcfgOff
  have := i.isLt
  iterate 4 rw [if_neg (by omega)]
  rw [if_pos (by omega), show (0x600 + 4 * i.val - 0x600) / 4 = i by omega]

theorem writeHIF_cons (e : Dev) (a : Nat) (i : Fin 128) (v : Word) : e.writeHIF a (rconsOff i) v = e.writeRCONS i v := by
  unfold Dev.writeHIF rconsOff
  have := i.isLt
  iterate 7 rw [if_neg (by omega)]
  rw [if_pos (by omega), show (0xE00 + 4 * i.val - 0xE00) / 4 = i by omega]

end Sys2Proof.Machine
end

