-- ==== Sys2Proof/Tests/Slice0.lean ====
section
/-!
SUPPORT. Tests of the model: ill-formed commands, figures worked in the spec, and for each statement with hypotheses the states and operands
that meet them. The state of a witness is the state after reset with little changed.
-/

namespace Sys2Proof.Tests

open Sys2Proof Sys2Proof.Machine

-- one theorem after another: each waits for the kernel
set_option Elab.async false

/-- Every condition of a list holds. -/
def allHold (l : List Bool) : Bool := l.all id

/-- The device right after reset. -/
def r : Dev := State.reset.dev

/-- An agent's access gets through, to a device with a property; the page is not locked. -/
def gets (d : Dev) (a p o : Nat) (w : Bool) (f : Dev → Bool) : Bool := (d.arrives a p o w).any fun e => !e.rb p 0x03C 0 && f e

/-- A register read of the host gets through. -/
def reads (d : Dev) (p o : Nat) : Bool := gets d agHost p o false fun _ => true

/-- A register write of the host gets through. -/
def writes (d : Dev) (p o : Nat) : Bool := gets d agHost p o true fun _ => true

/-- Engine 0 is about to execute a CCW, for its subchannel 0. -/
def ready (c : Ccw) : Dev := (r.setScb 0 { state := .active }).setCtx 0 { phase := .ready, ccw := c }

/-- A link in L0 and a host that is awake and lets the device master its bus. -/
def hostUp : Dev := ((r.setLink 6 4 3 0 true).setCfg cfEp cdCommand 4).setRf pgHIF 0x040 0 1 1

/-- Core `k` runs, with an instruction in its local RAM at 0x200. -/
def coreAt (k : Nat) (c : Core) (enc : List (BitVec 16)) : Dev :=
  { r.setCore k { c with state := .running, pc := 0x200 } with
    mem := memPutAll [] (coreLram k + 0x200) (enc.flatMap fun w => leBytes 2 w.toNat) }

/-- It is about to execute the instruction, and goes on to a device with a property. -/
def executesThen (c : Core) (i : Instr) (f : BitVec 16 → Dev → Nat → Bool) : Bool :=
  match coreWords i with
  | none => false
  | some (k, enc) => match (coreAt k c enc).executes k enc with
    | none => false
    | some (next, e) => (e.core k).state = .running && ((e.core k).pend.all fun q => q.fail = none) &&
        ((e.core k).loopBack 0x200 next 3).2.toNat % 2 = 0 && f next e k

/-- Core 0 is about to execute an instruction, and nothing stands in its way. -/
def executes (i : Instr) : Bool := executesThen {} i fun _ _ _ => true

/-- The device after reset, some of its registers holding other words. -/
def having (l : List (Nat × Word)) : Dev := { r with regs := l }


/-- A domain is fenced. -/
def fencedAt (d : Dev) (k : Nat) : Dev := d.setDom k { d.dom k with fenceF := true }

/-- A domain naps. -/
def naps (d : Dev) (k : Nat) : Dev := d.setDom k { d.dom k with state := .nap }

/-- The time has come to `2 ^ 32` units. -/
def later (d : Dev) : Dev := { d with pacer := { d.pacer with base := 0x100000000 } }
/-! ### Well-formed commands -/

/-- A read of more than 4,096 bytes is no command, and runs into its fault. -/
theorem test_illformed_host_read :
    (Instr.hostMemoryRead 0 4097).wellFormed = false ∧ (exec (.hostMemoryRead 0 4097) State.reset) = .fault .badOperand := ⟨by decide, rfl⟩
theorem test_illformed_downstream_read : (Instr.downstreamMemoryRead 0 ⟨0, 0⟩ 0 5000).wellFormed = false ∧
    (exec (.downstreamMemoryRead 0 ⟨0, 0⟩ 0 5000) State.reset) = .fault .badOperand := ⟨by decide, rfl⟩
theorem test_illformed_thermal_sample : (Instr.thermalSample [0, 0]).wellFormed = false ∧
    (exec (.thermalSample [0, 0]) State.reset) = .fault .badOperand := ⟨by decide, rfl⟩

/-! ### Worked figures of the spec -/

/-- Chapter 02, after R33: a deadline of 16,384 units, and the DS32 stamp of its target. -/
theorem test_worked_deadline :
    dsTarget 0x000000052000C7BD 0x4000 = 0x000000052040C7BD ∧ toDs32 0x000000052040C7BD = 0x052040C7 := by decide

/-- Chapter 00: 1.5 s in DT64 and in DS32. -/
theorem test_ds32_of_one_and_a_half_seconds : toDs32 0x0000000180000000 = 0x01800000 := by decide

/-- R34 and the case worked after it. -/
theorem test_ef16 : ef16nJ 0x1600 = ef16nJ 0x0C00 ∧ ef16nJ 0x4FA0 = 64000000 := by decide

/-- The worked interpolation of R39 and its clamp. -/
theorem test_worked_interpolation :
    ({ base := 0x0000000520000000, prev := 7690, ring := 3000, interp := .ring } : Pacer).value = 0x000000052000C7BD ∧
    ({ base := 0x0000000520000000, prev := 7690, ring := 7800, interp := .ring } : Pacer).value = 0x000000052001FFFF := by decide

/-- The worked rate adjustment: three periods. -/
theorem test_worked_rate_adjustment :
    let p := fun (q : Pacer) => q.advance 21990233 0
    (p {}).inc = 131074 ∧ (p {}).frac = 10426034 ∧ (p (p {})).inc = 131075 ∧ (p (p {})).frac = 4074852 ∧
    (p (p (p {}))).inc = 131074 ∧ (p (p (p {}))).frac = 14500886 := by decide

/-- The worked calibration: E_meas, and G after two seconds. -/
theorem test_worked_calibration :
    let d := { having [(rk pgLDG 0x064, 1000)] with ledger := { r.ledger with vcode := 750 * 1125035, eraw := 10000000000 * 65536000 } }
    d.eMeas = 10300003051 ∧ d.eRaw = 10000000000 := by decide +kernel

/-- The worked encoding of chapter 03. -/
theorem test_worked_ccw : parseCcw [0x20, 0x41, 0xF0, 0, 0, 0, 1, 0, 0, 0, 0x28, 0, 0, 0, 0, 0, 0, 0, 0x20, 0, 1, 0, 0, 0,
      0x23, 0x01, 0xD0, 0x07, 0x13, 0x83, 0, 0] =
    { op := 0x20, flagsA := 0x41, flagsB := 0xF0, count := 0x10000, addr := 0x280000, param := 0x100200000, xdt := 291, ebound := 0x07D0,
      deadline := 33555 } := by decide

/-- The worked placement of chapter 01: core 3 of wheel 5, and channel engine 11. -/
theorem test_worked_placement : coreAgent 43 = 0x2C ∧ coreDomain 43 = 91 ∧ coreLram 43 = 0x04160000 ∧ corPage 43 = 0x3D ∧
    ceDom 11 = 97 ∧ ceAgent 11 = 0x5B := by decide

/-- The case worked after R398: bits of a byte set, and then cleared. -/
theorem test_worked_set_and_clear :
    let d := { r with mem := memPutAll [] 0x280100 [0xF0] }
    let e := (d.memWrite 0x400000280100 [0x03]).2
    e.peek 0x280100 1 = [0xF3] ∧ (e.memWrite 0x200000280100 [0x10]).2.peek 0x280100 1 = [0xE3] := by decide +kernel

/-- The worked descriptor of chapter 07: stream bytes 11 and 299 in the destination's window. -/
theorem test_worked_wrap : sideAddr 0x03001FF5 512 11 = 0x03001E00 ∧ sideAddr 0x03001FF5 512 299 = 0x03001F20 := by decide

/-- SHA-256 of "abc", by the standard that R305 names. -/
theorem test_sha256_abc : (sha256 [0x61, 0x62, 0x63]).take 8 = [0xBA, 0x78, 0x16, 0xBF, 0x8F, 0x01, 0xCF, 0xEA] := by decide +kernel

/-! ### Words written out from R330 -/

/-- The words of the worked loop of chapter 10, and ADDP p12, −1. -/
theorem test_worked_loop_words :
    [coreWords (.coreMovip 0 12 0x0400), coreWords (.coreMovi 0 4 0), coreWords (.coreLoop 0 0 (.imm 64) 0x0110), coreWords (.coreLdb 0 2 0 0),
      coreWords (.coreAddp 0 12 1), coreWords (.coreAdd 0 4 2), coreWords (.coreSta 0 4 false 0x0500), coreWords (.coreAddp 0 12 0x7F)] =
    [[0x4600, 0x0400], [0x3120, 0x0000], [0xA040, 0x0110], [0x5900], [0x3E01], [0x0904], [0x7920, 0x0500], [0x3E7F]].map
      fun ws => some (0, ws) := by decide

/-- The sum of the worked loop's first round: ADD g4, g2 executes at the loop's end, and the core goes back to LSTART. -/
theorem test_worked_loop_round :
    (match step { State.reset with
        pending := [.coreAdd 0 4 2]
        dev := coreAt 0 ({ g := [(2, 5), (4, 0xFE)] } : Core) [0x0904] |> fun d => d.setCore 0
          (((((d.core 0).setCsrPair (lStart 0) 0x1F0).setCsrPair (lEnd 0) 0x200).setCsrPair (lCount 0) 64).setLoop 0 true) } with
    | .next t => (t.dev.core 0).reg 4 = 3 && (t.dev.core 0).c && (t.dev.core 0).pc = 0x1F0 &&
        (t.dev.core 0).csrPair (lCount 0) = 63 && t.pending.isEmpty
    | _ => false) = true := by decide +kernel

/-! ### The step -/

/-- An engine takes a pending subchannel: DISPATCH, and then its CCW is to be fetched. -/
theorem test_dispatch :
    (match step { pending := [.subchannelDispatch 0, .nop 0], dev := r.setScb 7 { state := .pending } } with
    | .next t => (t.dev.scb 7).state = .active && t.pending = [.nop 0]
    | _ => false) = true := by decide +kernel

/-- A write that finds GPIO's domain in NAP is held, and is served as the domain's exit completes (R25). -/
theorem test_held_write :
    let d := r.setDom 20 { state := .nap }
    let e := d.wr agKettle pgGPI 0x054 5
    let f := (e.exitComplete 20 300 []).quiesceDrop.retryHeld
    e.held = [.regWrite agKettle pgGPI 0x054 5] ∧ e.reg pgGPI 0x054 = 0 ∧ (e.dom 20).state = .nap ∧
    f.held = [] ∧ f.reg pgGPI 0x054 = 5 ∧ (f.dom 20).state = .freewheel := by decide +kernel

/-- An empty queue idles. -/
theorem test_idle : step State.reset = .next State.reset := rfl

/-! ### The hypotheses of the statements -/

/-- The hypotheses of CrystalMovesThePacer are met, clause by clause. -/
theorem witness_CrystalMovesThePacer : allHold [
  3906 ≤ (r.pacer.setCounts ⟨3906, 0⟩).ring - (r.pacer.setCounts ⟨3906, 0⟩).synth * (r.pacer.setCounts ⟨3906, 0⟩).ringRef,
  (r.pacer.setCounts ⟨3905, 0⟩).ring - (r.pacer.setCounts ⟨3905, 0⟩).synth * (r.pacer.setCounts ⟨3905, 0⟩).ringRef < 3906,
  (r.pacer.setCounts ⟨15625, 0⟩).missing = false && 15625 ≤ (r.pacer.setCounts ⟨15625, 0⟩).ring,
  (fun p : Pacer => p.missing = true && 0 < p.ringRef && (p.synth + 1) * p.ringRef ≤ p.ring) ({ r.pacer with missing := true, ringRef := 4000 }.setCounts ⟨4000, 0⟩),
  (fun p : Pacer => p.trust = .holdover && p.missing = true && 2 ^ 32 ≤ (p.value - p.hoEntry).toNat) ({ r.pacer with missing := true, trust := .holdover, base := 0x100000000 }.setCounts ⟨0, 0⟩)] = true := by decide +kernel

/-- The hypotheses of PtmDisciplinesThePacer are met, clause by clause. -/
theorem witness_PtmDisciplinesThePacer : allHold [
  (fun d : Dev => d.src_ = 3 && d.rb pgPCR 0x040 2 && bitAt (d.cfgHeld cfEp 0x56) 0 && d.awakeHost && d.linkActive 6 && !d.pacer.ptmBusy && d.pmState 6 = 0) ((((r.setRf pgPCR 0x040 0 3 7).setCfg cfEp 0x56 1).setRf pgHIF 0x040 0 1 1).setLink 6 4 3 0 true),
  (fun d : Dev => d.pacer.ptmBusy && d.rf pgPCR 0x060 16 16 * 2 ^ 8 < (0xFFFFFFFFFFFFFFFF : DT).toNat && (0 : DT).toNat ≤ d.rf pgPCR 0x060 16 16 * 2 ^ 8 && d.pacer.ptmFirst) { r with pacer := { r.pacer with ptmBusy := true } },
  (fun d : Dev => d.pacer.ptmBusy && !d.pacer.ptmFirst && ((1 : DT) - d.pacer.ptmPrevD).toInt ≠ 0) { r with pacer := { r.pacer with ptmBusy := true, ptmFirst := false } },
  ({ r.pacer with ptmValid := true }).ptmValid] = true := by decide +kernel

/-- The hypotheses of LowerReadsLatchTheUpperHalf are met, clause by clause. -/
theorem witness_LowerReadsLatchTheUpperHalf : allHold [
  ((r.atCounts ⟨0, 0⟩).arrives agHost pgPCR 0x048 false).isSome,
  reads r pgPCR 0x058 && reads r pgPCR 0x068 && reads r pgLDG 0x048 && reads r pgLDG 0x054,
  reads r pgUAR (uarOff 3 0x20) && reads r pgUAR (uarOff 3 0x28) && reads r pgSPI (spiOff 3 0x20) && reads r pgSPI (spiOff 3 0x28),
  reads r (chPage 127) (mvOff 127 0x18) && reads r pgBRG 0x04C && reads r pgBRG 0x054] = true := by decide +kernel

/-- The hypotheses of ReadsAnswerTheRegister are met, clause by clause. -/
theorem witness_ReadsAnswerTheRegister : allHold [
  reads r pgDEV 0x040 && (regRow pgDEV 0x040).isSome && wideLow pgDEV 0x040 = false && lockReg pgDEV 0x040 = none,
  reads r pgI3C (i3cOff 5 0x1C),
  gets r agHost pgHWT 0x040 false fun e => e.quiesce = [] && e.hostOut = []] = true := by decide +kernel

/-- The hypotheses of UnpopulatedOffsets are met, clause by clause. -/
theorem witness_UnpopulatedOffsets : allHold [
  regRow pgDEV 0xFFC = none && reads r pgDEV 0xFFC && writes r pgDEV 0xFFC] = true := by decide +kernel

/-- The hypotheses of WakeListExpiryServesItsEntry are met, clause by clause. -/
theorem witness_WakeListExpiryServesItsEntry : allHold [
  (r.atCounts ⟨0, 0⟩).wlDue.1 = [],
  (fun d : Dev => d.wlDue.1 = [⟨0, .core, 3⟩] && (⟨0, .core, 3⟩ : WlEntry).dom.any (fun k => (d.dom k).asleep) = false) ({ r with wl := [⟨0, .core, 3⟩] }.atCounts ⟨0, 0⟩),
  (fun d : Dev => d.wlDue.1 = [⟨0, .core, 3⟩] && (⟨0, .core, 3⟩ : WlEntry).dom = some (coreDomain 3) && (d.dom (coreDomain 3)).asleep) (({ r with wl := [⟨0, .core, 3⟩] }.setDom (coreDomain 3) { state := .off }).atCounts ⟨0, 0⟩)] = true := by decide +kernel

/-- The hypotheses of WakeListKeepsItsOrder are met, clause by clause. -/
theorem witness_WakeListKeepsItsOrder : allHold [
  ([⟨1, .core, 0⟩, ⟨2, .core, 1⟩] : List WlEntry).Pairwise (fun a b => a.target.toNat ≤ b.target.toNat)] = true := by decide +kernel

/-- The hypotheses of LedgerCommandsComplete are met, clause by clause. -/
theorem witness_LedgerCommandsComplete : allHold [
  r.regionFold.scbs = [],
  (fun d : Dev => d.ledgerOn && !d.ledger.secWhole) { r with ledger := { r.ledger with secWhole := false } },
  (fun d : Dev => d.ledgerOn && d.ledger.secWhole && !d.ledger.clipSec && !d.rb pgLDG 0x040 1) ({ r with ledger := { r.ledger with secWhole := true } }.setRf pgLDG 0x040 1 1 0).foldAll,
  !(r.setRf pgLDG 0x040 0 1 0).ledgerOn && !(r.setRf pgLDG 0x040 0 1 0).foldAll.ledgerOn,
  [(0x40000, true), (0x30000, false)].all fun x : Nat × Bool => (fun e : Dev => e.ledgerOn && e.ledger.secWhole && decide (e.rf pgLDG 0x068 0 16 * 1000000 ≤ e.eRaw) && !e.ledger.clipSec && e.rb pgLDG 0x040 1 && !e.ledger.untrSec && (fun y : Nat => (y = min (max y 0x30000) 0x5000F) = x.2) (e.ledger.s.toNat + (e.eMeas * 2 ^ 14 + e.eRaw / 2) / e.eRaw - e.ledger.s.toNat / 16)) ({ r.setRf pgLDG 0x040 0 2 3 with ledger := { r.ledger with secWhole := true, untrSec := false, s := BitVec.ofNat 20 x.1, eraw := 10 ^ 20 } }.foldAll),
  [true, false].all fun b => (fun e : Dev => e.ledgerOn && e.ledger.secWhole && e.ledger.clipSec = b && e.ledger.untrSec = !b) ({ r with ledger := { r.ledger with secWhole := true, clipSec := b, untrSec := !b } }.foldAll)] = true := by decide +kernel

/-- The hypotheses of OperationsTakeEffect are met, clause by clause. -/
theorem witness_OperationsTakeEffect : allHold [
  agentBanked agHost && [SubState.idle, .suspended, .stopped].all fun st => gets ((r.setRf (pgCE + 15) 0x008 0 1 1).setScb (256 * 15 + 255) { state := st, cls := 1 }) agHost (pgCE + 15) 0x040 true fun e => !e.isFenced (ceDom 15) && e.pageEn (pgCE + 15) && (e.scb (256 * 15 + 255)).state = st && !(e.scb (256 * 15 + 255)).haltReq,
  [SubState.active, .pending, .waiting].all fun st => gets ((r.setRf (pgCE + 15) 0x008 0 1 1).setScb 3840 { state := st }) agHost (pgCE + 15) 0x040 true fun e => !e.isFenced (ceDom 15) && (e.scb 3840).state = st && !(e.scb 3840).haltReq,
  gets (r.setScb 0 { state := .active, haltReq := true }) agHost pgCE 0x040 true fun e => !e.isFenced (ceDom 0) && (e.scb 0).haltReq,
  [true, false].all fun b => gets (((r.setRf pgCE 0x008 0 1 1).setScb 0 { state := .suspended }).setCtx 0 { boundary := b }) agHost pgCE 0x040 true fun e => !e.isFenced (ceDom 0) && e.pageEn pgCE && (e.ctx 0).boundary = b && (e.scb 0).state = .suspended] = true := by decide +kernel

/-- The hypotheses of BadStateHasNoEffect are met, clause by clause. -/
theorem witness_BadStateHasNoEffect : allHold [
  agentBanked agHost && gets (r.setRf pgCE 0x008 0 1 1) agHost pgCE 0x040 true fun e => !e.isFenced (ceDom 0) && e.pageEn pgCE && (e.scb 0).state = .idle,
  gets ((r.setRf pgCE 0x008 0 1 1).setScb 0 { state := .pending }) agHost pgCE 0x040 true fun e => !e.isFenced (ceDom 0) && e.pageEn pgCE && (e.scb 0).state = .pending] = true := by decide +kernel

/-- The hypotheses of ScbWindowWritesComplete are met, clause by clause. -/
theorem witness_ScbWindowWritesComplete : allHold [
  agentBanked agHost && [0x080, 0x084, 0x0B0].all fun o => gets r agHost pgCE o true fun e => (e.scb (e.bank pgCE 0x050 agHost).toNat).state = .idle,
  bindingOk 0,
  gets (r.setScb 0 { state := .pending }) agHost pgCE 0x084 true fun e => (e.scb (e.bank pgCE 0x050 agHost).toNat).state = .pending,
  gets (r.setScb 0 { state := .pending }) agHost pgCE 0x080 true fun e => BitVec.ofNat 7 (fld (0x00030000 : Word) 24 7) = (e.scb 0).ring,
  gets (r.setScb 0 { state := .pending }) agHost pgCE 0x080 true fun e => BitVec.ofNat 7 (fld (0x7F000000 : Word) 24 7) ≠ (e.scb (e.bank pgCE 0x050 agHost).toNat).ring && bindingOk 0xF0000000 = false,
  gets (r.setScb 0 { state := .pending }) agHost pgCE 0x0B0 true (fun e => (e.scb (e.bank pgCE 0x050 agHost).toNat).state = .pending) && [0x088, 0x0AC, 0x0B4, 0x0BC].all fun o => gets r agHost pgCE o true fun _ => true] = true := by decide +kernel

/-- The hypotheses of DispatchPicksASubchannel are met, clause by clause. -/
theorem witness_DispatchPicksASubchannel : allHold [
  [({ phase := .done } : Ctx), {}, { boundary := true }].all fun x => (fun d : Dev => d.gate (ceDom 0) = .ok && d.activeSub 0 = none && d.pickSub 0 (fun _ b => b.state = .pending) = some 7 && d.ctx 7 = x) ((r.setScb 7 { state := .pending, suspReq := x.boundary }).setCtx 7 x)] = true := by decide +kernel

/-- The hypotheses of FetchBringsTheCcw are met, clause by clause. -/
theorem witness_FetchBringsTheCcw : allHold [
  (fun d : Dev => d.gate (ceDom 0) = .ok && d.activeSub 0 = some 0 && (d.ctx 0).phase = .fetching && rangeOf 0x1000 ≠ .hostwin && (d.reach (ceDom 0) 0x1000).1 = .ok && !((d.reach (ceDom 0) 0x1000).2.memRead 0x1000 32).2.1) ((r.setScb 0 { state := .active, ccwAddr := 0x1000 }).setCtx 0 { phase := .fetching }),
  (fun d : Dev => (d.reach (ceDom 0) 0x1000).1 = .ok && ((d.reach (ceDom 0) 0x1000).2.memRead 0x1000 32).2.1) (((r.setScb 0 { state := .active, ccwAddr := 0x1000 }).setCtx 0 { phase := .fetching }).setPoison 0x1018 true),
  opDefined (parseCcw (List.replicate 32 0)).op.toNat = false,
  (fun d : Dev => d.gate (ceDom 0) = .ok && d.activeSub 0 = some 0 && (d.ctx 0).phase = .fetching && (d.reach (ceDom 0) 0x1000).1 = .fenced) (fencedAt (((r.setScb 0 { state := .active, ccwAddr := 0x1000 }).setCtx 0 { phase := .fetching })) (addrDom 0x1000)),
  (fun d : Dev => d.gate (ceDom 0) = .ok && d.activeSub 0 = some 0 && (d.ctx 0).phase = .fetching && rangeOf (d.scb 0).ccwAddr.toNat = .hostwin) ((r.setScb 0 { state := .active, ccwAddr := BitVec.ofNat 48 hostBase }).setCtx 0 { phase := .fetching })] = true := by decide +kernel

/-- The hypotheses of CompletionGoesOnToTheNextCcw are met, clause by clause. -/
theorem witness_CompletionGoesOnToTheNextCcw : allHold [
  (fun d : Dev => d.gate (ceDom 0) = .ok && d.activeSub 0 = some 0 && (d.ctx 0).phase = .done && (d.ctx 0).ccw.op = 0x30 && (d.ctx 0).ccw.cc && !(d.ctx 0).ccw.cd && (d.ctx 0).headA = (d.ctx 0).ccw.flagsA && !bitAt (d.ctx 0).ccw.flagsA 0 && (d.ctx 0).exc = none && (d.ctx 0).plan = [] && d.pageEn pgCE && (d.foldTag 0).boundHit 0 true = none) (((r.setRf pgCE 0x008 0 1 1).setScb 0 { state := .active }).setCtx 0 { phase := .done, headA := 0x40, ccw := { op := 0x30, flagsA := 0x40 } })] = true := by decide +kernel

/-- The hypotheses of ControlCommandsExecute are met, clause by clause. -/
theorem witness_ControlCommandsExecute : allHold [
  [0x0B, 0x09, 0x0A, 0x10, 0x12, 0x11, 0x18, 0x19, 0x1A, 0x30, 0x3F].all fun op => (ready { op := BitVec.ofNat 8 op }).toExecute 0 (BitVec.ofNat 8 op) = some 0 && (ready {}).gate (ceDom 0) = .ok,
  [(0x01 : Byte), 0x82].all fun m => ((ready { op := 0x09, mod_ := m }).ctx 0).ccw.sel = 1 || ((ready { op := 0x09, mod_ := m }).ctx 0).ccw.sel = 2,
  reached r.now 0 && ((ready { op := 0x10, param := 0x100000000 }).wlInsert 0 ⟨0x100000000, .subch, 0⟩).1 = .inserted,
  ((ready { op := 0x12 }).wlInsert 0 ⟨dsTarget 0 0x1000, .subch, 0⟩).1 = .inserted,
  ({ ready { op := 0x12 } with wl := List.replicate 512 ⟨0, .core, 0⟩ }.wlInsert 0 ⟨dsTarget 0 0x1000, .subch, 0⟩).1 = .refused,
  smGet (((ready { op := 0x11 }).setEng 0 { arr := [(0, 1)] }).eng 0).arr 0 0 % 256 ≠ 0 && smGet ((ready { op := 0x11 }).eng 0).arr 0 0 % 256 = 0,
  match (ready { op := 0x1A, addr := 0x1000 }).engWriteAll 0 ((ready { op := 0x1A }).useRow 0x1000) 0x1000 (leBytes 8 0) with | .ok _ _ => true | _ => false,
  [0, 1, 2, 3].all fun m => [0x09, 0x0A].all fun op => ((ready { op := BitVec.ofNat 8 op, mod_ := BitVec.ofNat 8 m }).ctx 0).ccw.sel = m && (ready { op := BitVec.ofNat 8 op, mod_ := BitVec.ofNat 8 m }).toExecute 0 (BitVec.ofNat 8 op) = some 0,
  match (ready { op := 0x09 }).engRead 0 .cond ((ready { op := 0x09 }).condAddr 0) 8 with | .ok bs _ => bs.length = 8 | _ => false,
  match (ready { op := 0x0A, addr := BitVec.ofNat 64 hostBase }).engRead 0 .cond ((ready { op := 0x0A, addr := BitVec.ofNat 64 hostBase }).condAddr 0) 8 with | .fail _ _ _ => true | _ => false,
  (fun d : Dev => d.toExecute 0 0x0A = some 0 && ((d.condition 0).ctx 0).hostReq.isSome) { hostUp with scbs := (ready {}).scbs, ctxs := (ready { op := 0x0A, addr := BitVec.ofNat 64 hostBase }).ctxs, mem := memPutAll [] (hwtBase + 7) [0xE0] },
  match (ready { op := 0x1A, addr := 0x5000000 }).engWriteAll 0 ((ready { op := 0x1A }).useRow 0x5000000) 0x5000000 (leBytes 8 0) with | .fail _ _ _ => true | _ => false,
  [true, false].all fun b => (fun d : Dev => d.toExecute 0 0x10 = some 0 && reached d.now (d.ctx 0).ccw.param = b && d.wl.length < wlCapacity) (ready { op := 0x10, param := if b then 0 else 0x100000000 }),
  [true, false].all fun b => [(0 : Byte), 1].all fun m => (fun d : Dev => d.toExecute 0 0x11 = some 0 && fld (d.ctx 0).ccw.param 32 32 ≠ 0 && reached d.now (dsTarget (d.ctx 0).started (w32 (fld (d.ctx 0).ccw.param 32 32))) = b && bitAt (d.ctx 0).ccw.mod_ 0 = (m = 1) && (d.scb 0).state = .active) (if b then later (ready { op := 0x11, mod_ := m, param := 0x100000000 }) else ready { op := 0x11, mod_ := m, param := 0x100000000 }),
  (fun d : Dev => wlCapacity ≤ d.wl.length && d.toExecute 0 0x11 = some 0 && reached d.now (dsTarget (d.ctx 0).started (w32 (fld (d.ctx 0).ccw.param 32 32))) = false) { ready { op := 0x11, param := 0x100000000 } with wl := List.replicate 512 ⟨0, .core, 0⟩ },
  ((r.setRf pgCE 0x008 0 1 1).scb 0).haltReq = false && (r.setRf pgCE 0x008 0 1 1).pageEn pgCE] = true := by decide +kernel

/-- The hypotheses of MovesAndCallsBegin are met, clause by clause. -/
theorem witness_MovesAndCallsBegin : allHold [
  (ready { op := 0x20, addr := 0x1000, param := 0x2000, count := 32 }).toExecute 0 0x20 = some 0 && !((ready { op := 0x20 }).ctx 0).ccw.xf && !((ready { op := 0x20 }).ctx 0).ccw.idal,
  (fun d : Dev => d.toExecute 0 0x21 = some 0 && (d.stream 0).isSome) { ready { op := 0x21 } with streams := [(0, {})] },
  (fun d : Dev => d.toExecute 0 0x28 = some 0 && (d.knock (commonDom 0)).1 = .ok && ((d.knock (commonDom 0)).2.mboxPost 0 (ceAgent 0) 0 0 (List.replicate 16 0) true).1 = .accepted) (ready { op := 0x28 }),
  (fun d : Dev => (d.wl.find? fun v => wlMine .subch 0 v && reached d.now v.target) = some ⟨0, .subch, 0⟩ && (d.scb 0).state = .waiting && (d.scb 0).cause = .spoke) ({ r with wl := [⟨0, .subch, 0⟩] }.setScb 0 { state := .waiting, cause := .spoke }),
  (fun d : Dev => d.toExecute 0 0x20 = some 0 && (d.ctx 0).ccw.xf && d.stream 0 = none && (d.ctx 0).succ) ((ready {}).setCtx 0 { phase := .ready, ccw := { op := 0x20, flagsB := 0x10 }, succ := true }),
  [true, false].all fun b => (fun d : Dev => d.toExecute 0 0x20 = some 0 && (d.ctx 0).ccw.xf && d.stream 0 = none && !(d.ctx 0).succ && ((d.askStream 0).stream 0).isSome = b) (if b then { ready { op := 0x20, flagsB := 0x10 } with xdt := [(0, [0x81, 0x0C, 0, 0, 1] ++ List.replicate 59 0)] } else ready { op := 0x20, flagsB := 0x10 }),
  (fun d : Dev => d.toExecute 0 0x28 = some 0 && (d.knock (commonDom 0)).1 = .ok && ((d.knock (commonDom 0)).2.mboxPost 0 (ceAgent 0) 0 0 (List.replicate 16 0) true).1 = .full) ((ready { op := 0x28 }).setMbox 0 { full := true }),
  (fun d : Dev => (d.knock (commonDom 0)).1 = .fenced && ((d.knock (commonDom 0)).2.mboxPost 0 (ceAgent 0) 0 0 (List.replicate 16 0) true).1 = .fenced) (fencedAt (ready { op := 0x28 }) (commonDom 0)),
  [0, 1].all fun n => (fun d : Dev => fld (d.ctx 0).ccw.param 32 32 ≠ 0 && match d.mboxPost 0 (ceAgent 0) 0 0 (List.replicate 16 0) true with | (.accepted, f) => (f.wlInsert 0 ⟨dsTarget (d.ctx 0).started (w32 (fld (d.ctx 0).ccw.param 32 32)), .subch, 0⟩).1 = (if n = 0 then .inserted else .reached) | _ => false) (if n = 0 then ready { op := 0x28, param := 0x100000000 } else later (ready { op := 0x28, param := 0x100000000 })),
  (fun d : Dev => wlCapacity ≤ d.wl.length && reached d.now (dsTarget (d.ctx 0).started (w32 (fld (d.ctx 0).ccw.param 32 32))) = false && fld (d.ctx 0).ccw.param 32 32 ≠ 0 && (d.mboxPost 0 (ceAgent 0) 0 0 (List.replicate 16 0) true).1 = .accepted) { ready { op := 0x28, param := 0x100000000 } with wl := List.replicate 512 ⟨0, .core, 0⟩ }] = true := by decide +kernel

/-- The hypotheses of StepRunsTheFrontCommand are met, clause by clause. -/
theorem witness_StepRunsTheFrontCommand : allHold [
  ({ pending := [.nop 0], dev := r } : State).pending = .nop 0 :: []] = true := by decide +kernel

/-- The hypotheses of EmptyQueueIdles are met, clause by clause. -/
theorem witness_EmptyQueueIdles : allHold [
  State.reset.pending.isEmpty] = true := by decide +kernel

/-- The hypotheses of WellFormedCommandsComplete are met, clause by clause. -/
theorem witness_WellFormedCommandsComplete : allHold [
  (Instr.nop 0).wellFormed,
  (Instr.hostMemoryRead 0 4097).wellFormed = false] = true := by decide +kernel

/-- The hypotheses of SafeQueuesAreWorkedOff are met, clause by clause. -/
theorem witness_SafeQueuesAreWorkedOff : allHold [
  ({ pending := [.nop 0, .tic 15], dev := r } : State).pending.all Instr.wellFormed] = true := by decide +kernel

/-- The hypotheses of StepKeepsUrgentByte are met, clause by clause. -/
theorem witness_StepKeepsUrgentByte : allHold [
  r.ecp.urgPrev = r.urgentByte && (match step { pending := [.nop 0], dev := r } with | .next _ => true | _ => false)] = true := by decide +kernel

/-- The hypotheses of DeviceCommandsBegin are met, clause by clause. -/
theorem witness_DeviceCommandsBegin : allHold [
  (fun d : Dev => d.gate (ceDom 0) = .ok && d.toExecute 0 0x40 = some 0 && d.notReady (d.scb 0).binding (d.ctx 0).ccw = none && d.mwForbids (d.scb 0).binding 0x40 = false && (d.knock (d.bindDom (d.scb 0).binding)).1 = .ok && ((d.knock (d.bindDom (d.scb 0).binding)).2.scb 0).state = .active && !(d.ctx 0).ccw.xf && !(d.ctx 0).succ) (((ready { op := 0x40, count := 4 }).setScb 0 { state := .active, binding := 0x50000000 }).setRf pgUAR (uarOff 0 0) 31 1 1),
  (fun d : Dev => d.gate (ceDom 0) = .ok && d.toExecute 0 0x41 = some 0 && d.notReady (d.scb 0).binding (d.ctx 0).ccw = some codeNOTREADY) ((ready { op := 0x41, count := 4 }).setScb 0 { state := .active, binding := 0x50000000 }),
  (fun d : Dev => d.activeSub 0 = some 0 && (d.ctx 0).phase = .running && (d.ctx 0).ccw.op = 0x41) ((ready {}).setCtx 0 { phase := .running, ccw := { op := 0x41 } }),
  (fun d : Dev => d.toExecute 0 0x41 = some 0 && d.notReady (d.scb 0).binding (d.ctx 0).ccw = none && d.mwForbids (d.scb 0).binding 0x41) (((ready { op := 0x41, count := 4 }).setScb 0 { state := .active, binding := 0x20000000 }).setReg pgWCH 0x308 0x80000000 |> fun d => { d with linkLevel := [(262, true)] }),
  (fun d : Dev => d.notReady (d.scb 0).binding (d.ctx 0).ccw = none && (d.knock (d.bindDom (d.scb 0).binding)).1 = .asleep) (naps (((ready { op := 0x43 }).setScb 0 { state := .active, binding := 0x50000000 }).setRf pgUAR (uarOff 0 0) 31 1 1) 19),
  [true, false].all fun b => (fun d : Dev => d.toExecute 0 0x40 = some 0 && d.notReady (d.scb 0).binding (d.ctx 0).ccw = none && (d.knock 19).1 = .ok && (d.ctx 0).ccw.xf && (d.ctx 0).succ = b && ((if b then d else (d.knock 19).2.askStream 0).stream 0) = none) (((ready {}).setScb 0 { state := .active, binding := 0x50000000 }).setCtx 0 { phase := .ready, ccw := { op := 0x40, flagsB := 0x10 }, succ := b } |>.setRf pgUAR (uarOff 0 0) 31 1 1),
  (fun d : Dev => d.toExecute 0 0x40 = some 0 && d.notReady (d.scb 0).binding (d.ctx 0).ccw = none && (d.ctx 0).ccw.xf && (((d.knock 19).2.askStream 0).stream 0).isSome) { ((ready { op := 0x40, flagsB := 0x10 }).setScb 0 { state := .active, binding := 0x50000000 }).setRf pgUAR (uarOff 0 0) 31 1 1 with xdt := [(0, [0x81, 0x0C, 0, 0, 1] ++ List.replicate 59 0)] }] = true := by decide +kernel

/-- The hypotheses of DeviceOperationsProgress are met, clause by clause. -/
theorem witness_DeviceOperationsProgress : allHold [
  (fun d : Dev => (d.eng 0).reaping.isEmpty && ((d.ctx 0).ops.filter (!·.taken))[0]? = some { id := 0, slot := 0 } && d.gate (d.bindDom (d.scb 0).binding) ≠ .asleep && (d.outcome 0 { id := 0, slot := 0 } ⟨0, 0, 0, false, []⟩).isSome) ((r.setScb 0 { state := .waiting, binding := 0x80000000 }).setCtx 0 { phase := .running, ccw := { op := 0x41 }, ops := [{ id := 0, slot := 0 }] }),
  ((r.setEng 0 { reaping := [(5, 0)] }).eng 0).reaping = (5, 0) :: [],
  (fun d : Dev => (d.ctx 0).phase = .running && (d.scb 0).state = .waiting && d.served 0 && (d.ctx 0).burst = 0 && (d.ctx 0).data.isEmpty && (d.ctx 0).outq.isEmpty && (d.ctx 0).exc = none && ((d.ctx 0).frontOp.bind (·.res)) = none && d.gate (d.bindDom (d.scb 0).binding) = .ok && bKind (d.scb 0).binding = 3 && (d.ctx 0).ccw.sink) ((r.setScb 0 { state := .waiting, binding := 0x30000000 }).setCtx 0 { phase := .running, ccw := { op := 0x40, count := 1 }, ops := [{ id := 0, slot := 0 }] }),
  (fun d : Dev => ((d.ctx 0).ops.filter (!·.taken))[0]? = some { id := 0, slot := 0 } && bKind (d.scb 0).binding = 2 && (d.ctx 0).ccw.sink && (d.reg pgWCH 0x30C ≠ 0 && (ds32Dur (d.reg pgWCH 0x30C)).toNat ≤ (d.now - 0).toNat)) ({ ((r.setScb 0 { state := .waiting, binding := 0x20000000 }).setCtx 0 { ccw := { op := 0x40 }, ops := [{ id := 0, slot := 0 }] }).setReg pgWCH 0x30C 1 with pacer := { r.pacer with base := 0x100000000 } }),
  [true, false].all fun b => (fun d : Dev => d.served 0 && (d.ctx 0).burst = 0 && (d.ctx 0).data.isEmpty && bKind (d.scb 0).binding = 5 && d.portOn (d.scb 0).binding && (d.ctx 0).ccw.op = opREAD && (leadBytes (d.uart 0).rx).isEmpty = b) (((r.setScb 0 { state := .waiting, binding := 0x50000000 }).setCtx 0 { phase := .running, ccw := { op := 0x40, count := 1 }, ops := [{ id := 0, slot := 0 }] } |>.setRf pgUAR (uarOff 0 0) 31 1 1).setUart 0 { rx := if b then [.parity] else [.byte 7] }),
  (fun d : Dev => d.served 0 && d.portOn (d.scb 0).binding && bKind (d.scb 0).binding = 5 && (d.ctx 0).ccw.op = opWRITE) ((r.setScb 0 { state := .draining, binding := 0x50000000 }).setCtx 0 { phase := .running, ccw := { op := 0x41, count := 1 }, ops := [{ id := 0, slot := 0 }] } |>.setRf pgUAR (uarOff 0 0) 31 1 1),
  [true, false].all fun b => (fun d : Dev => d.served 0 && d.portOn (d.scb 0).binding && bKind (d.scb 0).binding = 7 && (d.ctx 0).ccw.op = opREAD && d.fifoReady 0 && (packetBytes (d.fifo 0).chain = 0) = b && (d.fifoTake 0 0).1.isSome) (((r.setScb 0 { state := .waiting, binding := 0x70000000 }).setCtx 0 { phase := .running, ccw := { op := 0x40, count := 1 }, ops := [{ id := 0, slot := 0 }] } |>.setReg pgFIF (fifOff 0 0) 0x80000000).setFifo 0 { chain := [{ data := if b then [] else [7], eop := true }] }),
  ((r.setEng 0 { reaping := [(5, 0)] }).eng 0).reaping.find? (fun (k : Nat × Nat) => k.1 % 256 = 5) = some (5, 0),
  (fun d : Dev => ((d.ctx 0).ops.filter (!·.taken))[0]? = some { id := 0, slot := 0 } && bKind (d.scb 0).binding = 2 && (d.ctx 0).flushOp = some 0 && d.reg pgWCH 0x30C ≠ 0 && (ds32Dur (d.reg pgWCH 0x30C)).toNat ≤ (d.now - 0).toNat) (later (((r.setScb 0 { state := .waiting, binding := 0x20000000 }).setCtx 0 { ccw := { op := 0x41 }, flushOp := some 0, ops := [{ id := 0, slot := 0 }] }).setReg pgWCH 0x30C 1))] = true := by decide +kernel

/-- The hypotheses of LentQueueCommandsComplete are met, clause by clause. -/
theorem witness_LentQueueCommandsComplete : allHold [
  gets ((((r.setReg pgNVA (lqOff 31 8) 0x00100000).setReg pgNVA (lqOff 31 0xC) 0x00200000).setReg pgNVA (lqOff 31 0x28) 0x00300000 |>.setReg pgNVA 0x040 0x00400000).setReg pgWCH 0x100 0x8000 |>.setReg pgWCH 0x104 0xC0000000) agHost pgNVA (lqOff 31 0x00) true fun e => (e.lq 31).state = .free && e.lendOk 31 && e.cqSize 31 = 1 && e.gate (addrDom (e.cqBase 31)) ≠ .asleep,
  gets r agHost pgNVA (lqOff 0 0x00) true fun e => (e.lq 0).state = .free && !e.lendOk 0,
  gets (r.setLq 0 { state := .lent }) agHost pgNVA (lqOff 0 0x00) true fun e => (e.lq 0).state = .lent,
  (fun f : Dev => (f.reach 3 (f.cqBase 0)).1 = .ok && (fun g : Dev => (g.lq 0).cqHead = 0 && (g.lq 0).phase) (((f.reach 3 (f.cqBase 0)).2.setLq 0 { state := .lent, phase := true }).cqScan 0 1)) (r.setLq 0 { state := .lent, phase := true, due := true }),
  (fun d : Dev => d.overdue 0 = some ⟨0, 0, 0, 0, 0⟩ && ((d.ctx 0).ops.find? fun o => o.id = 0 && !o.taken) = some { id := 0, slot := 0 }) ({ ((r.setLq 0 { state := .lent, cmds := [⟨0, 0, 0, 0, 0⟩] }).setReg pgNVA (lqOff 0 0x24) 1).setCtx 0 { ops := [{ id := 0, slot := 0 }] } with pacer := { r.pacer with base := 0x100000000 } }.atCounts ⟨0, 0⟩),
  gets (naps ((((r.setReg pgNVA (lqOff 31 8) 0x00100000).setReg pgNVA (lqOff 31 0xC) 0x00200000).setReg pgNVA (lqOff 31 0x28) 0x00300000 |>.setReg pgNVA 0x040 0x00400000).setReg pgWCH 0x100 0x8000 |>.setReg pgWCH 0x104 0xC0000000) (addrDom 0)) agHost pgNVA (lqOff 31 0x00) true fun e => (e.lq 31).state = .free && e.lendOk 31 && (((List.range ((e.cqSize 31 * 16 + 4095) / 4096)).map fun k => addrDom (e.cqBase 31 + 4096 * k)).eraseDups.any fun k => e.gate k = .asleep),
  (fun d : Dev => (d.reach 3 (d.cqBase 0)).1 = .asleep && (d.lq 0).due) (naps (r.setLq 0 { state := .lent, due := true }) (addrDom (r.cqBase 0))),
  (fun f : Dev => (fun g : Dev => (g.lq 0).cqHead ≠ (f.lq 0).cqHead || (g.lq 0).phase ≠ (f.lq 0).phase) ((f.setLq 0 { state := .lent, due := false }).cqScan 0 1)) (r.setLq 0 { state := .lent, due := true }),
  (fun d : Dev => d.overdue 0 = some ⟨0, 0, 0, 0, 0⟩ && (d.ctx 0).ops = [] && !d.isFenced (ceDom 0) && (d.eng 0).reaping.contains (0, 0)) ((later (((r.setLq 0 { state := .lent, cmds := [⟨0, 0, 0, 0, 0⟩] }).setReg pgNVA (lqOff 0 0x24) 1).setEng 0 { reaping := [(0, 0)] })).atCounts ⟨0, 0⟩)] = true := by decide +kernel

/-- The hypotheses of SerialPortsReceive are met, clause by clause. -/
theorem witness_SerialPortsReceive : allHold [
  (fun d : Dev => d.uartHears 3 && (d.knock 19).1 = .ok && d.rf pgUAR (uarOff 3 0) 2 2 ≠ 0) (r.setReg pgUAR (uarOff 3 0) 0x80000004),
  (fun d : Dev => d.uartHears 3 && (d.knock 19).1 = .ok && d.producerFifo 1 3 = none) (r.setReg pgUAR (uarOff 3 0) 0x80000000),
  (fun d : Dev => d.uartHears 3 && d.producerFifo 1 3 = some 31) ((r.setReg pgUAR (uarOff 3 0) 0x80000000).setReg pgFIF (fifOff 31 0) 0x81030000),
  ((r.setUart 0 { inBreak := true }).uart 0).inBreak,
  (fun d : Dev => d.uartReader 0 = some 0 && ds32Dur (w32 (fld (d.ctx 0).ccw.param 0 32)) ≠ 0 && (ds32Dur (w32 (fld (d.ctx 0).ccw.param 0 32))).toNat ≤ d.now.toNat - max (((d.ctx 0).frontOp.map fun (o : DevOp) => o.issued).getD 0).toNat (d.uart 0).lastRx.toNat && (d.ctx 0).chainMoved + (d.ctx 0).moved ≠ 0) ({ (r.setScb 0 { binding := 0x50000000 }).setCtx 0 { ccw := { op := 0x40, param := 1 }, moved := 1, ops := [{ id := 0, slot := 0 }] } with pacer := { r.pacer with base := 0x100000000 } }),
  (fun d : Dev => d.producerFifo 1 3 = some 31 && ds32Dur (d.reg pgUAR (uarOff 3 8)) ≠ 0 && (ds32Dur (d.reg pgUAR (uarOff 3 8))).toNat ≤ (d.now - (d.uart 3).lastRx).toNat && (d.fifo 31).inPkt) ({ ((r.setReg pgUAR (uarOff 3 8) 1).setReg pgFIF (fifOff 31 0) 0x81030000).setFifo 31 { inPkt := true } with pacer := { r.pacer with base := 0x100000000 } }),
  [false, true].all fun t => (fun d : Dev => d.spiTarget 3 && (d.knock 18).1 = .ok && (d.spi 3).tgtSel = t && d.producerFifo 2 3 = some 0 && (d.fifo 0).inPkt) ((((r.setReg pgSPI (spiOff 3 0) 0xC0000000).setReg pgFIF (fifOff 0 0) 0x82030000).setSpi 3 { tgtSel := t }).setFifo 0 { inPkt := true }),
  (fun d : Dev => d.uartHears 3 && (d.knock 19).1 = .asleep && d.rf pgUAR (uarOff 3 0) 2 2 = 0) (naps (r.setReg pgUAR (uarOff 3 0) 0x80000000) 19),
  [true, false].all fun b => (fun d : Dev => d.uartHears 0 && d.producerFifo 1 0 = none && d.uartReader 0 = some 0 && ((d.ctx 0).ccw.count.toNat ≤ (d.ctx 0).moved) = b) (((r.setReg pgUAR (uarOff 0 0) 0x80000000).setScb 0 { state := .waiting, binding := 0x50000000 }).setCtx 0 { phase := .running, ccw := { op := 0x40, count := 1 }, moved := if b then 1 else 0, ops := [{ id := 0, slot := 0 }] }),
  [true, false].all fun t => (fun d : Dev => d.spiTarget 3 && (d.knock 18).1 = .ok && (d.spi 3).tgtSel = t && d.producerFifo 2 3 = none) ((r.setReg pgSPI (spiOff 3 0) 0xC0000000).setSpi 3 { tgtSel := t }),
  (fun d : Dev => d.producerFifo 2 3 = some 0 && !(d.fifo 0).inPkt) ((r.setReg pgSPI (spiOff 3 0) 0xC0000000).setReg pgFIF (fifOff 0 0) 0x82030000)] = true := by decide +kernel

/-- The hypotheses of I3cCommandsComplete are met, clause by clause. -/
theorem witness_I3cCommandsComplete : allHold [
  gets ((r.setReg pgI3C (i3cOff 4 0) 0x80000000)) agHost pgI3C (i3cOff 4 0) true fun e => (e.writeI3cCtrl 4 (withBit (e.reg pgI3C (i3cOff 4 0)) 28 true)).any fun f => bitAt (f.reg pgI3C (i3cOff 4 0)) 31 && !bitAt (f.reg pgI3C (i3cOff 4 0)) 29 && (f.i3c 4).daaBusy && !f.i3cBusy 4 && f.gate 16 = .ok,
  [false, true].all fun acc => (fun d : Dev => d.rb pgI3C (i3cOff 4 0) 31 && (d.knock 16).1 = .ok && (decide (((List.range 11).any fun t => bitAt (d.dat 4 t) 31 && bitAt (d.dat 4 t) 30 && fld (d.dat 4 t) 16 8 = 9) = acc)) && d.producerFifo 3 4 = none && !(d.i3c 4).ibiValid) ((r.setReg pgI3C (i3cOff 4 0) 0x80000000).setReg pgI3C (i3cOff 4 0x68) (if acc then 0xC0090000 else 0)),
  (fun d : Dev => d.rb pgI3C (i3cOff 4 0) 31 && (d.knock 16).1 = .ok && ((List.range 11).any fun t => bitAt (d.dat 4 t) 31 && bitAt (d.dat 4 t) 30 && fld (d.dat 4 t) 16 8 = 9) && d.producerFifo 3 4 = some 0) (((r.setReg pgI3C (i3cOff 4 0) 0x80000000).setReg pgI3C (i3cOff 4 0x40) 0xC0090000).setReg pgFIF (fifOff 0 0) 0x83040000),
  (fun d : Dev => (d.i3c 4).ibiValid && d.rb pgI3C (i3cOff 4 0) 31 && ((List.range 11).any fun t => bitAt (d.dat 4 t) 31 && bitAt (d.dat 4 t) 30 && fld (d.dat 4 t) 16 8 = 9)) (((r.setReg pgI3C (i3cOff 4 0) 0x80000000).setReg pgI3C (i3cOff 4 0x40) 0xC0090000).setI3c 4 { ibiValid := true })] = true := by decide +kernel

/-- The hypotheses of GpioCommandsComplete are met, clause by clause. -/
theorem witness_GpioCommandsComplete : allHold [
  [0, 3].all fun n => (fun d : Dev => d.gpioSenses && !d.rb pgGPI (0x100 + 4 * 31) 5 && !bitAt d.gpi.raw 31 && !bitAt d.gpi.level 31 && d.rf pgGPI (0x100 + 4 * 31) 0 2 = n) (r.setRf pgGPI (0x100 + 4 * 31) 0 2 n),
  (fun d : Dev => d.gpioSenses && d.rb pgGPI 0x100 5 && d.rf pgGPI 0x054 0 16 * 256 ≤ (d.now - smGet d.gpi.since 0 0).toNat && bitAt d.gpi.raw 0 && !bitAt d.gpi.level 0 && d.rf pgGPI 0x100 0 2 = 0) ({ r.setReg pgGPI 0x100 0x20 with gpi := { raw := 1 }, pacer := { r.pacer with base := 0x100000000 } }.atCounts ⟨0, 0⟩),
  writes r pgGPI 0x04C && writes r pgGPI 0x050,
  (fun d : Dev => !d.gpioSenses && (d.dom 20).asleep) (naps r 20),
  (fun d : Dev => d.gpioSenses && d.rb pgGPI 0x100 5 && d.rf pgGPI 0x054 0 16 * 256 ≤ (d.now - smGet d.gpi.since 0 0).toNat && bitAt d.gpi.raw 0 && bitAt d.gpi.level 0) ((later { r.setReg pgGPI 0x100 0x20 with gpi := { raw := 1, level := 1 } }).atCounts ⟨0, 0⟩)] = true := by decide +kernel

/-- The hypotheses of EcPortCommandsComplete are met, clause by clause. -/
theorem witness_EcPortCommandsComplete : allHold [
  [(0 : Word), 0x80800000].all fun w => (fun d : Dev => d.ecpOn && !d.isFenced 24 && !bitAt (d.reg pgECP 0x054) 31 && (d.setReg pgECP 0x074 0x87).ecpDyn = 0) (having [(rk pgECP 0x040, 0x80000000 ||| w)]),
  (fun d : Dev => d.ecpOn && !d.isFenced 24 && (d.setReg pgECP 0x074 0x06).ecpDyn ≠ 0 && d.ecpDyn ≠ 0) (having [(rk pgECP 0x040, 0x80000009)]),
  [0, 2].all fun t => (fun d : Dev => d.ecpOn && !d.isFenced 24 && d.ecp.ibiPend && d.ecpDyn ≠ 0 && d.rb pgECP 0x040 23 && !d.ecp.disec && d.ecp.tries = t) { having [(rk pgECP 0x040, 0x80800009)] with ecp := { ibiPend := true, tries := t } },
  (fun d : Dev => d.ecpOn && d.isFenced 24) (fencedAt (having [(rk pgECP 0x040, 0x80000000)]) 24),
  (fun d : Dev => d.ecpOn && bitAt (d.reg pgECP 0x054) 31 && d.ecpDyn = 0) (having [(rk pgECP 0x040, 0x80000000), (rk pgECP 0x054, 0x8000001F)])] = true := by decide +kernel

/-- The hypotheses of RingCommandsComplete are met, clause by clause. -/
theorem witness_RingCommandsComplete : allHold [
  gets (r.setReg pgHIF (0x400 + 4 * 127) 0x1000) agHost pgHIF (rcfgOff 127) true fun e => e.ringEn 127 = false && e.rf pgHIF (0x400 + 4 * 127) 5 21 * 32 % (32 * 2 ^ 6) = 0 && e.rf pgHIF (0x400 + 4 * 127) 5 21 * 32 + 32 * 2 ^ 6 ≤ xramBase && bitAt ((withBit (0x00060001 : Word) 31 true) &&& 0xE01F00FF) 31 && fld (withBit (0x00060001 : Word) 31 true) 16 5 = 6,
  gets (r.setReg pgHIF (rcfgOff 127) 0x80060001) agHost pgHIF (rcfgOff 127) true fun e => e.ringEn 127 && (e.rcfg 127 ^^^ (withBit (e.reg pgHIF (rcfgOff 127)) 31 false &&& 0xE01F00FF)) &&& 0x7FFFFFFF = 0 && e.prod 127 = e.cons 127 && !(e.hif.store.any fun w => decide (w.ring = 127)),
  gets { r with hif := { r.hif with prod := [(127, 3)] } } agHost pgHIF (rconsOff 127) true fun e => ((2 : Word) - e.cons 127).toNat ≤ (e.prod 127 - e.cons 127).toNat,
  gets (r.setLink 6 4 3 0 true) agHost pgHIF 0x040 true fun e => e.awakeHost = false && e.pmState 6 = 0 && ((e.setRf pgHIF 0x040 0 1 1).flushStart).pmState 6 = 0,
  gets (r.setReg pgHIF (0x400 + 4 * 127) 0x20) agHost pgHIF (rcfgOff 127) true fun e => e.ringEn 127 = false && e.rf pgHIF (0x400 + 4 * 127) 5 21 * 32 % (32 * 2 ^ 6) ≠ 0,
  gets (r.setReg pgHIF (rcfgOff 127) 0x80060001) agHost pgHIF (rcfgOff 127) true fun e => e.ringEn 127 && (e.rcfg 127 ^^^ 0x80070001) &&& 0x7FFFFFFF ≠ 0 && (e.rcfg 127 ^^^ 0x80060001) &&& 0x7FFFFFFF = 0,
  gets ({ r.setReg pgHIF (rcfgOff 127) 0x80060001 with hif := { r.hif with prod := [(127, 1)] } }) agHost pgHIF (rcfgOff 127) true fun e => e.ringEn 127 && e.prod 127 ≠ e.cons 127 && (e.prod 127 - e.cons 127).toNat < ((2 : Word) - e.cons 127).toNat,
  gets hostUp agHost pgHIF 0x040 true fun e => e.awakeHost] = true := by decide +kernel

/-- The hypotheses of MirrorAndPollCommandsComplete are met, clause by clause. -/
theorem witness_MirrorAndPollCommandsComplete : allHold [
  (fun d : Dev => d.mirrorReady 127 && d.modTimeDue 127 && d.mirrorDue 127 && (d.mirrorDoms 127 (d.prod 127)).all fun k => d.gate k = .ok) ({ hostUp.setReg pgHIF (rcfgOff 127) 0xC0060001 with hif := { r.hif with prod := [(127, 1)] }, pacer := { r.pacer with base := 0x100000000 } }.atCounts ⟨0, 0⟩),
  writes r pgHIF (0x070 + 4 * 3) && writes r pgHIF 0x04C,
  (fun e : Dev => e.linkActive 6 && e.pmState 6 = 0 && e.hif.flushing && e.hostOpen && e.flushNext = some 0 && (e.mirrorDoms 0 (e.prod 0)).all fun k => e.gate k = .ok) ({ hostUp with hif := { r.hif with prod := [(0, 1)] } }.setReg pgHIF (rcfgOff 0) 0xC0060001).flushStart,
  (fun e : Dev => e.linkActive 6 && e.pmState 6 = 0 && e.hif.flushing && e.hostOpen && e.flushNext = none) hostUp.flushStart,
  (fun e : Dev => e.hif.nextPoll ≠ 0 && reached e.now e.hif.nextPoll) ({ r with hif := { r.hif with nextPoll := 1 }, pacer := { r.pacer with base := 1 } }.atCounts ⟨0, 0⟩),
  (fun e : Dev => e.pmState 6 = 0 && !e.faults.halted && !(e.knockEach [3, 4]).1 && !(e.knockEach [3, 4]).2.fencedOn [3, 4]) (hostUp.atCounts ⟨0, 0⟩),
  (fun d : Dev => d.mirrorReady 127 && d.modTimeDue 127 && !d.batching 127 && (d.mirrorDoms 127 (d.prod 127)).any fun k => d.gate k = .asleep) ((naps ({ hostUp.setReg pgHIF (rcfgOff 127) 0xC0060001 with hif := { r.hif with prod := [(127, 1)] }, pacer := { r.pacer with base := 0x100000000 } }) (addrDom 0)).atCounts ⟨0, 0⟩),
  !r.mirrorDue 127 && !(r.mirrorReady 127 && r.modTimeDue 127),
  (fun e : Dev => e.linkActive 6 && e.pmState 6 = 0 && e.hif.flushing && e.hostOpen && e.flushNext = some 0 && (e.mirrorDoms 0 (e.prod 0)).any fun k => e.gate k = .asleep) (naps (({ hostUp with hif := { r.hif with prod := [(0, 1)] } }.setReg pgHIF (rcfgOff 0) 0xC0060001).flushStart) (addrDom 0)),
  (fun e : Dev => !e.faults.halted && !(e.knockEach [3, 4]).1 && (e.knockEach [3, 4]).2.fencedOn [3, 4]) ((fencedAt hostUp 4).atCounts ⟨0, 0⟩)] = true := by decide +kernel

/-- The hypotheses of MoverCommandsComplete are met, clause by clause. -/
theorem witness_MoverCommandsComplete : allHold [
  gets r agHost (chPage 127) (mvOff 127 0x08) true fun e => bitAt (withBit (0x0C : Word) 31 true) 31 && (e.mchan 127).state = .off && e.mvEnOk 127 0x8000000C && !bitAt (e.mvCfg 127) 31,
  gets ((r.setReg (chPage 0) (mvOff 0 8) 0x80000004).setMchan 0 { state := .idle }) agHost (chPage 0) (mvOff 0 0x08) true fun e => (e.mchan 0).state = .idle,
  gets ((r.setReg (chPage 0) (mvOff 0 8) 0x80000004).setMchan 0 { state := .ready, tail := 1 }) agHost (chPage 0) (mvOff 0 0x08) true fun e => (e.mchan 0).state = .ready && bitAt (e.mvCfg 0) 31 && !bitAt (e.mvCfg 0) 30,
  gets ((r.setReg (chPage 0) (mvOff 0 8) 0xC0000004).setMchan 0 { state := .braked }) agHost (chPage 0) (mvOff 0 0x08) true fun e => (e.mchan 0).state = .braked && bitAt (e.mvCfg 0) 31 && bitAt (e.mvCfg 0) 30,
  gets ((r.setReg (chPage 0) (mvOff 0 8) 0x80000004).setMchan 0 { state := .running }) agHost (chPage 0) (mvOff 0 0x0C) true fun e => e.mvEn 0 && fld (15 : Word) 0 12 < e.mvSize 0 && (e.mchan 0).state = .running,
  (fun d : Dev => d.gate (moverDom 0) = .ok && !(d.mover 0).running && d.pageEn (pgWDM + 0) && (d.knock (moverDom 0)).1 = .ok && (d.knock (moverDom 0)).2.mvNext 0 = some 7) ((r.setReg pgWDM 0x008 1).setMchan 7 { state := .ready }),
  (fun d : Dev => d.gate (moverDom 0) = .ok && (d.mover 0).running && (d.mover 0).cur = none && d.mvStops 0 = none && (d.knock (moverDom 0)).1 = .ok && (d.reach (moverDom 0) (d.mvBase 0)).1 = .ok && (fun x : List Byte × Bool × Dev => !x.2.1 && !bitAt (mdCtrl x.1) 31) ((d.reach (moverDom 0) (d.mvBase 0)).2.memRead (d.mvBase 0) 32)) ((((r.setReg pgWDM 0x008 1).setReg pgWDM (mvOff 0 8) 0x80000004).setMchan 0 { state := .running, tail := 1 }).setMover 0 { running := true }),
  ({ bytes := leBytes 4 0x50000000 ++ leBytes 4 8, wpos := 4 } : MvDesc).halfDue,
  ({ err := 1 } : MvDesc).needsFlush = false && ({ wpos := 1 } : MvDesc).needsFlush = false && mdCount ({ wpos := 1 } : MvDesc).bytes ≤ 1 && (r.reach (moverDom 0) (r.mvBase 0)).1 = .ok,
  gets (r.setReg (chPage 0) (mvOff 0 8) 0x80000004) agHost (chPage 0) (mvOff 0 0x08) true fun e => bitAt (e.mvCfg 0) 31 && fld (0x80000005 : Word) 0 4 ≠ fld (e.mvCfg 0) 0 4 && !e.mvEnOk 0 0x80000001,
  gets (r.setMchan 0 { state := .braked }) agHost (chPage 0) (mvOff 0 0x08) true fun e => !bitAt (e.mvCfg 0) 31 && (e.mchan 0).state ≠ .off,
  gets ((r.setReg (chPage 0) (mvOff 0 8) 0xC0000004).setMchan 0 { state := .idle }) agHost (chPage 0) (mvOff 0 0x08) true fun e => bitAt (e.mvCfg 0) 30 && (e.mchan 0).state ≠ .running && (e.mchan 0).state ≠ .ready,
  gets (r.setMchan 0 { state := .idle }) agHost (chPage 0) (mvOff 0 0x0C) true (fun e => !e.mvEn 0) && gets ((r.setReg (chPage 0) (mvOff 0 8) 0x80000004).setMchan 0 { state := .idle }) agHost (chPage 0) (mvOff 0 0x0C) true fun e => e.mvEn 0 && e.mvSize 0 ≤ (16 : Word).toNat && (e.mchan 0).state ≠ .running,
  [fencedAt, naps].all fun f => (f r (moverDom 0)).gate (moverDom 0) ≠ .ok,
  (fun d : Dev => d.pageEn (pgWDM + 0) && (d.touch (moverDom 0)).mvNext 0 = none && !(d.setReg pgWDM 0x008 0).pageEn (pgWDM + 0)) r,
  (fun d : Dev => d.gate (moverDom 0) = .ok && d.mvStops 0 = some .off) (r.setMover 0 { running := true }),
  [(Gate.asleep), .fenced].all fun g => (fun d : Dev => d.gate (moverDom 0) = .ok && d.mvStops 0 = none && (d.reach (moverDom 0) (d.mvBase 0)).1 = g) ((if g = .asleep then naps else fencedAt) ((((r.setReg pgWDM 0x008 1).setReg pgWDM (mvOff 0 8) 0x80000004).setMchan 0 { state := .running, tail := 1 }).setMover 0 { running := true }) (addrDom 0)),
  (fun d : Dev => d.mvStops 0 = none && (fun x : List Byte × Bool × Dev => !x.2.1 && bitAt (mdCtrl x.1) 31) ((d.reach (moverDom 0) (d.mvBase 0)).2.memRead (d.mvBase 0) 32)) { (((r.setReg pgWDM 0x008 1).setReg pgWDM (mvOff 0 8) 0x80000004).setMchan 0 { state := .running, tail := 1 }).setMover 0 { running := true } with mem := [(3, 0x80)] },
  (fun d : Dev => d.mvStops 0 = none && ((d.reach (moverDom 0) (d.mvBase 0)).2.memRead (d.mvBase 0) 32).2.1) (((((r.setReg pgWDM 0x008 1).setReg pgWDM (mvOff 0 8) 0x80000004).setMchan 0 { state := .running, tail := 1 }).setMover 0 { running := true }).setPoison 0x18 true),
  ({ bytes := leBytes 4 0x50000000 ++ leBytes 4 8, wpos := 3 } : MvDesc).halfDue = false && ({ bytes := leBytes 8 (2 ^ 32), hostReq := some (0, 1) } : MvDesc).hostReq.isSome && ({ bytes := leBytes 8 0x20000000FFFFFFFF, wpos := 1, hostWrote := some 0 } : MvDesc).needsFlush,
  [(Gate.asleep), .fenced].all fun g => (((if g = .asleep then naps else fencedAt) r (addrDom 0)).reach (moverDom 0) (r.mvBase 0)).1 = g] = true := by decide +kernel

/-- The hypotheses of FifoCommandsComplete are met, clause by clause. -/
theorem witness_FifoCommandsComplete : allHold [
  gets r agHost pgFIF (fifOff 31 0x00) true fun e => fifoSrcOk (withBit (0 : Word) 31 true) && !bitAt (e.fifoCfg 31) 31,
  gets (r.setReg pgFIF (fifOff 31 0) 0x80000000) agHost pgFIF (fifOff 31 0x00) true fun e => bitAt (e.fifoCfg 31) 31 && (e.fifoCfg 31 ^^^ (0 : Word)) &&& 0x4F070FFF = 0,
  writes r pgFIF (fifOff 31 0x08),
  gets (r.setReg pgFIF (fifOff 0 0) 0xC0000000) agHost pgFIF (fifOff 0 0x18) false fun e => bitAt (e.fifoCfg 0) 30 && (e.fifoTake 0 (e.tagOf agHost)).1 = none,
  gets ((r.setReg pgFIF (fifOff 0 0) 0xC0000000).setFifo 0 { chain := [{ data := [7], eop := true }] }) agHost pgFIF (fifOff 0 0x18) false fun e => bitAt (e.fifoCfg 0) 30 && (e.fifoTake 0 (e.tagOf agHost)).1.isSome,
  fifoSrcOk 0x8F000000 = false && fifoSrcOk 0x83050000 = false && gets (r.setReg pgFIF (fifOff 31 0) 0x81000000) agHost pgFIF (fifOff 31 0x00) true (fun e => bitAt (e.fifoCfg 31) 31 && (e.fifoCfg 31 ^^^ 0x80000000) &&& 0x4F070FFF ≠ 0),
  gets (r.setReg pgFIF (fifOff 30 0) 0x81000000) agHost pgFIF (fifOff 31 0x00) true fun e => !bitAt (e.fifoCfg 31) 31 && fifoSrcOk 0x81000000 && bitAt (e.fifoCfg 30) 31 && fld (e.fifoCfg 30) 24 4 = 1 && fld (e.fifoCfg 30) 16 3 = 0,
  gets (r.setReg pgFIF (fifOff 0 0) 0x80000000) agHost pgFIF (fifOff 0 0x18) false fun e => !bitAt (e.fifoCfg 0) 30] = true := by decide +kernel

/-- The hypotheses of TransformCommandsComplete are met, clause by clause. -/
theorem witness_TransformCommandsComplete : allHold [
  writes r pgXCR 0x044,
  gets (r.setReg pgCDY 0x040 1) agHost pgXAE (0x100 + 4 * 63) true fun e => e.caddyGrants 0 && !bitAt (0x80000000 : Word) 30,
  (fun d : Dev => d.gate 151 = .ok && !d.descBusy (fld (d.ctx 0).ccw.xdt 0 10) && d.xdtValid (d.xdesc (fld (d.ctx 0).ccw.xdt 0 10)) (d.ctx 0).ccw.op (d.scb 0).binding 0 (d.ctx 0).ccw.stored && (grantable d [] d.streamWait).head? = some ⟨0, 0, 0⟩) { (r.setCtx 0 { ccw := { op := 0x20 } }) with streamWait := [⟨0, 0, 0⟩], xdt := [(0, [0x81, 0x0C, 0, 0, 1] ++ List.replicate 59 0)] },
  r.canAccess agKettle && gets r agKettle pgCDY 0x054 true fun e => !e.caddy.wiping && e.streams.isEmpty,
  ({ r with caddy := { wiping := true } } : Dev).caddy.wiping,
  gets (having [(rk pgCDY 0x040, 0)]) agHost pgXAE 0x100 true (fun e => !e.caddyGrants agHost) && bitAt (0xC0000000 : Word) 30 && (r.peek caddyBase 64).take 32 = (r.peek caddyBase 64).drop 32,
  [fencedAt, naps].all fun f => (f r 151).gate 151 ≠ .ok,
  (fun d : Dev => d.gate 151 = .ok && d.streamWait = []) r,
  (fun d : Dev => !d.descBusy 0 && !d.xdtValid (d.xdesc 0) 0x20 0 0 false) { r with streamWait := [⟨0, 0, 0⟩] },
  gets r agHost pgCDY 0x054 true fun e => !e.caddy.wiping,
  gets { r with caddy := { wiping := true } } agKettle pgCDY 0x054 true fun e => e.caddy.wiping,
  !r.caddy.wiping] = true := by decide +kernel

/-- The hypotheses of CoreArithmeticCommandsExecute are met, clause by clause. -/
theorem witness_CoreArithmeticCommandsExecute : allHold [
  executes (.coreAdd 64 31 31) && executes (.coreAddc 0 0 1) && executes (.coreSub 0 0 1) && executes (.coreSubc 0 0 1) && executes (.coreAnd 0 0 1),
  executes (.coreOr 0 0 1) && executes (.coreXor 0 0 1) && executes (.coreCmp 0 0 1) && executes (.coreCmpc 63 0 1),
  executes (.coreAddi 0 0 1) && executes (.coreAddci 0 0 1) && executes (.coreSubi 0 0 1) && executes (.coreSubci 0 0 1),
  executes (.coreAndi 0 0 1) && executes (.coreOri 0 0 1) && executes (.coreXori 0 0 1) && executes (.coreCmpi 0 31 0xFF)] = true := by decide +kernel

/-- The hypotheses of CoreMoveAndShiftCommandsExecute are met, clause by clause. -/
theorem witness_CoreMoveAndShiftCommandsExecute : allHold [
  executes (.coreMov 0 0 1) && executes (.coreMovi 0 0 1) && executes (.coreShl 0 0 1) && executes (.coreShr 0 0 7) && executes (.coreAsr 0 0 1),
  executes (.coreRol 0 0 1) && executes (.coreRor 0 0 1) && executes (.coreRcl 0 0 1) && executes (.coreRcr 0 0 7),
  executes (.coreMovip 0 15 1) && executes (.coreAddp 0 15 0x7F) && executes (.coreMul 0 1 2 true) && executes (.coreMul 0 1 2 false)] = true := by decide +kernel

/-- The hypotheses of CoreLoadAndStoreCommandsExecute are met, clause by clause. -/
theorem witness_CoreLoadAndStoreCommandsExecute : allHold [
  executesThen { g := [(24, 0), (25, 0x10)] } (.coreLdb 0 3 0 31) fun _ e k => match e.viewLoad k 0x101F 1 with | .ok _ e' => (e'.core k).state = .running && (e'.core k).pend = [] | _ => false,
  executesThen { g := [(25, 0x80)] } (.coreLdp 0 3 0 0) fun _ e k => match ({ e with doms := [(addrDom ((e.core k).windowAddr 0x8000), { state := .off })] }).viewLoad k 0x8000 2 with | .wait _ => true | _ => false,
  executesThen { wbase := 0x1000000000 } (.coreLda 0 3 false 0x8000) fun _ e k => match ({ e with cfg := hostUp.cfg, regs := hostUp.regs, mem := memPutAll e.mem (hwtBase + 7) [0xE0] }).viewLoad k 0x8000 1 with | .host e' => (e'.core k).state = .running | _ => false,
  executes (.coreLda 0 30 true 0x1000) && executes (.coreSta 0 30 true 0x1000) && executes (.coreStp 0 3 0 0),
  executesThen { g := [(31, 0x10)] } (.coreStb 0 3 3 0) fun next e k => match e.viewStore k 0x1000 [0] with | .ok _ e' => (e'.core k).state = .running && (e'.core k).pend = [] && ((e'.core k).loopBack 0x200 next 3).2.toNat % 2 = 0 | _ => false,
  executesThen { g := [(24, 0), (25, 0x80)] } (.coreStb 0 3 0 0) fun _ e k => match e.viewStore k 0x8000 [0] with | .ok _ e' => (e'.core k).state = .running | _ => false,
  executesThen { g := [(24, 0), (25, 0x80)] } (.coreStb 0 3 0 0) fun _ e k => match (fencedAt e (addrDom ((e.core k).windowAddr 0x8000))).viewStore k 0x8000 [0] with | .error _ e' => (e'.core k).state = .running | _ => false] = true := by decide +kernel

/-- The hypotheses of CoreControlCommandsExecute are met, clause by clause. -/
theorem witness_CoreControlCommandsExecute : allHold [
  [(0 : Fin 16), 1, 14].all fun c => executes (.coreBcc 0 c 0xFF),
  executes (.coreJmp 0 (.direct 0x7FFE)) && executes (.coreJmp 0 (.pair 15)) && executes (.coreCall 0 (.direct 0x100)),
  executesThen { g := [(31, 0x10)] } (.coreCall 0 (.pair 3)) fun next e k => match e.viewStore k ((e.core k).pair 15 - 2).toNat [next.truncate 8, (next >>> 8).truncate 8] with | .ok _ e' => (e'.core k).state = .running && (e'.core k).pend = [] | _ => false,
  executesThen { g := [(31, 0x10)] } (.coreRet 0) fun _ e k => match e.viewLoad k 0x1000 2 with | .ok [lo, _] e' => lo.toNat % 2 = 0 && (e'.core k).state = .running && (e'.core k).pend = [] | _ => false,
  executesThen { g := [(31, 0x10)] } (.coreReti 0) fun _ e k => match e.viewLoad k 0x1000 2 with | .ok [lo, _] e' => (match e'.viewLoad k 0x1002 2 with | .ok [p, _] g => p.toNat % 2 = 0 && (bitAt lo 4 && g.line k) = false && (g.core k).state = .running && (g.core k).pend = [] | _ => false) | _ => false,
  executesThen { g := [(31, 0x10)] } (.coreReti 0) fun _ e k => match ({ (e.setSrc (coreSrcKey k 31) { count := 1, sense := 2, prio := 3, mask := false }) with mem := memPutAll e.mem (coreLram k + 0x1000) [0x10] }).viewLoad k 0x1000 2 with | .ok [lo, _] e' => (match e'.viewLoad k 0x1002 2 with | .ok _ g => bitAt lo 4 && g.line k | _ => false) | _ => false,
  executesThen {} (.coreLoop 0 2 (.imm 3) 0x300) fun next e k => (List.range 3).all (fun j => !(e.core k).loopOn j) && next = 0x204,
  executesThen {} (.coreLoop 0 0 (.pair 15) 0x300) fun _ e k => match e.fetchWord k 0x300 with | .word (some w) _ => w = 0 && ((e.core k).pair 15).toNat = 0 | _ => false,
  executes (.coreLpop 0)] = true := by decide +kernel

/-- The hypotheses of CoreSystemCommandsExecute are met, clause by clause. -/
theorem witness_CoreSystemCommandsExecute : allHold [
  executes (.coreEi 0) && executes (.coreDi 0) && executes (.coreSync 0) && executes (.coreCsrr 0 0 0x3F),
  [true, false].all fun up => executesThen {} (.coreWait 0) fun _ e k => (if up then e.setSrc (coreSrcKey k 31) { count := 1, sense := 2, prio := 3, mask := false } else e).line k = up,
  executesThen {} (.coreBreak 0) fun next e k => (e.setRf pgDBG (0x110 + 16 * k) 28 1 1).haltOnBreak k && (((e.setRf pgDBG (0x110 + 16 * k) 28 1 1).goesOn k 0x200 next []).core k).state = .running,
  executesThen {} (.coreCsrr 0 31 0x10) fun _ e k => (e.csrRead k 0x10).isSome,
  executesThen { g := [(7, 0x55)] } (.coreCsrw 0 7 0x37) fun next e k => (e.csrWrite k 0x37 0x55).any fun f => (f.core k).state = .running && (f.core k).pend = [] && ((f.core k).loopBack 0x200 next 3).2.toNat % 2 = 0,
  executesThen { g := [(7, 0x80)] } (.coreCsrw 0 7 0x38) fun _ e k => bitAt ((e.core k).reg 7) 7 && (e.core k).reg 7 &&& 0x78 = 0,
  executesThen { g := [(31, 0x10)] } (.coreBreak 0) fun next e k => !e.haltOnBreak k && ((e.countInstr k).trapEntry k 4 none none 0x200 next).isSome,
  executesThen { g := [(31, 0x10)] } (.coreTrap 0 0xFF) fun next e k => ((e.countInstr k).trapEntry k 5 (some 0xFF) none 0x200 next).isSome,
  (fun d : Dev => (d.core 9).state = .waiting && d.gate (coreDomain 9) = .ok && d.line 9 && (({ d.core 9 with state := .running } : Core).loopBack 0x200 0x202 3).2.toNat % 2 = 0) ((r.setCore 9 { state := .waiting, pc := 0x202 }).setSrc (coreSrcKey 9 31) { count := 1, sense := 2, prio := 3, mask := false })] = true := by decide +kernel

/-- The hypotheses of CoreOutsideCommandsComplete are met, clause by clause. -/
theorem witness_CoreOutsideCommandsComplete : allHold [
  (fun d : Dev => d.gate (coreDomain 64) = .ok && (d.core 64).state = .running && (d.core 64).pend = [] && (d.core 64).i && !(d.core 64).noInt) (r.setCore 64 { state := .running, i := true }),
  (fun d : Dev => d.gate (coreDomain 9) = .ok && d.line 9 && (d.entry 9 0x200 8).isSome) ((r.setCore 9 { state := .running, i := true, g := [(31, 0x10)] }).setSrc (coreSrcKey 9 31) { count := 1, sense := 2, prio := 3, mask := false }),
  [true, false].all fun h => (fun d : Dev => (d.core 0).pend.find? (fun q => !q.arrived) = some { dests := [1], addr := 0, pc := 0, host := h, data := if h then none else some [2] }) (r.setCore 0 { pend := [{ dests := [1], addr := 0, pc := 0, host := h, data := if h then none else some [2] }] }),
  (fun d : Dev => (d.core 0).storeErrs = (1, 0x8000) :: [] && (d.trapEntry 0 2 (some 0x81) (some 0x8000) 0x200 0x200).isSome) (r.setCore 0 { state := .running, pc := 0x200, g := [(31, 0x10)], storeErrs := [(1, 0x8000)] }),
  gets (r.setRf (corPage 63) (corOff 63 0) 31 1 0) agHost (corPage 63) (corOff 63 0) true fun e => !e.rb (corPage 63) (corOff 63 0) 31,
  [PState.off, .nap, .active].all fun st => gets ((r.setRf (corPage 63) (corOff 63 0) 31 1 1).setDom (coreDomain 63) { state := st }) agHost (corPage 63) (corOff 63 0) true fun e => e.rb (corPage 63) (corOff 63 0) 31 && (e.dom (coreDomain 63)).state = st && (e.dom (coreDomain 63)).asleep = decide (st ≠ .active),
  bitAt (withBit (r.reg (corPage 0) (corOff 0 0)) 30 true) 30 && bitAt (withBit (r.reg (corPage 0) (corOff 0 0)) 30 true) 31 = r.rb (corPage 0) (corOff 0 0) 31,
  (fun d : Dev => (d.core 0).state = .booting && d.gate (coreDomain 0) = .ok && match d.bootCopy 0 with | .ok _ => true | _ => false) (r.setCore 0 { state := .booting }),
  (fun d : Dev => (d.core 0).state = .booting && d.gate (coreDomain 0) = .ok && match d.bootCopy 0 with | .err _ => true | _ => false) ((((r.setCore 0 { state := .booting }).setReg (corPage 0) (corOff 0 8) 0x1000).setReg (corPage 0) (corOff 0 0x10) 32).setPoison 0x1000 true)] = true := by decide +kernel

/-- The hypotheses of InterruptCommandsComplete are met, clause by clause. -/
theorem witness_InterruptCommandsComplete : allHold [
  (fun d : Dev => (d.core 9).state = .running && d.gate (coreDomain 9) = .ok && !d.queues 9 && (d.ioGate 9 0xC100).1 = .ok && (d.ioGate 9 0xC100).2.claimPick 9 = some (3, 31)) ((r.setCore 9 { state := .running }).setSrc (coreSrcKey 9 31) { count := 1, sense := 2, prio := 3, mask := false }),
  [9, 64].all fun k => (fun d : Dev => (d.core k).state = .running && d.gate (coreDomain k) = .ok && (d.ioGate k 0xC100).1 = .ok && (d.ioGate k 0xC100).2.claimPick k = none) (r.setCore k { state := .running }),
  [some 9, none].all fun act => (fun d : Dev => (d.core 9).state = .running && (d.ioGate 9 0xC102).1 = .ok && ((d.ioGate 9 0xC102).2.src (coreSrcKey 9 255)).active = act) ((r.setCore 9 { state := .running }).setSrc (coreSrcKey 9 255) { active := act }),
  [0, 1, 2, 3].all fun j => writes r (pgWICU + 7) (bankOff j (.priv 7)) && writes r (pgWICU + 7) (bankOff j (.shared 7)) && writes r (pgWICU + 7) (bankOff j (.shared 0)),
  writes r (pgWICU + 7) (srcOff (.priv 7 31)) && writes r (pgWICU + 7) (srcOff (.shared 255)) && gets (r.setSrc (sharedSrc 7 32) { active := some 5, sense := 2, target := 1 }) agHost (pgWICU + 7) (srcOff (.shared 32)) true fun e => (e.src (sharedSrc 7 32)).active = some 5 && fld (0x120 : Word) 8 3 = (e.src (sharedSrc 7 32)).target && fld (0x120 : Word) 4 3 = (e.src (sharedSrc 7 32)).sense,
  (fun d : Dev => (d.core 9).state ≠ .running) (r.setCore 9 { state := .waiting }) && [fencedAt, naps].all fun f => (f r (coreDomain 9)).gate (coreDomain 9) ≠ .ok,
  (fun d : Dev => (d.core 9).state = .running && d.gate (coreDomain 9) = .ok && d.queues 9) ({ r.setCore 9 { state := .running, order := 1 } with held := [.store 9 0 0x8000 (.window 0 [0]) true] }),
  [(Gate.asleep), .fenced].all fun g => (fun d : Dev => d.gate (coreDomain 9) = .ok && !d.queues 9 && (d.ioGate 9 0xC100).1 = g && (d.ioGate 9 0xC102).1 = g) ((if g = .asleep then naps else fencedAt) (r.setCore 9 { state := .running }) (commonDom 1)),
  gets (r.setSrc (sharedSrc 7 32) { active := some 5, sense := 2, target := 1 }) agHost (pgWICU + 7) (srcOff (.shared 32)) true fun e => (e.src (sharedSrc 7 32)).active.isSome && fld (0x220 : Word) 8 3 ≠ (e.src (sharedSrc 7 32)).target && 4 < fld (0x50 : Word) 4 3] = true := by decide +kernel

/-- The hypotheses of MailboxAndLockCommandsComplete are met, clause by clause. -/
theorem witness_MailboxAndLockCommandsComplete : allHold [
  [false, true].all fun full => gets (r.setMbox (16 * 7 + 15) { full := full }) agHost (pgWMBX + 7) 0x040 true fun e => !e.isFenced (commonDom 7) && (((e.countWheelOp 7 (e.tagOf agHost)).touch (commonDom 7)).mbox (16 * 7 + 15)).full = full,
  [false, true].all fun call => gets (r.setMbox (16 * 7 + 15) { full := true, call := call }) agHost (pgWMBX + 7) (0x10C + 32 * 15) true fun e => ((e.countWheelOp 7 (e.tagOf agHost)).mbox (16 * 7 + 15)).call = call && ((e.countWheelOp 7 (e.tagOf agHost)).mbox (16 * 7 + 15)).full,
  [none, some 5].all fun o => gets (r.setLock 127 { owner := o }) agHost (pgWMBX + 7) 0x33C false (fun e => ((e.countWheelOp 7 (e.tagOf agHost)).lock 127).owner = o) && gets (r.setLock 143 { owner := o }) agHost pgKTL 0x33C false (fun e => (e.lock 143).owner = o),
  gets (r.setLock 127 { owner := some agHost }) agHost (pgWMBX + 7) 0x33C true (fun e => ((e.countWheelOp 7 (e.tagOf agHost)).lock 127).owner = some agHost) && gets (r.setLock 143 { owner := some agHost }) agHost pgKTL 0x33C true (fun e => (e.lock 143).owner = some agHost),
  gets (fencedAt r 999) agHost (pgWMBX + 7) 0x040 true (fun e => !e.isFenced (commonDom 7)) && (fencedAt r (commonDom 7)).isFenced (commonDom 7),
  gets r agHost (pgWMBX + 7) (0x10C + 32 * 15) true fun e => !((e.countWheelOp 7 (e.tagOf agHost)).mbox (16 * 7 + 15)).full,
  gets (r.setLock 127 { owner := some 5 }) agHost (pgWMBX + 7) 0x33C true (fun e => ((e.countWheelOp 7 (e.tagOf agHost)).lock 127).owner ≠ some agHost) && gets r 64 (pgWMBX + 7) 0x33C true fun e => ((e.countWheelOp 7 (e.tagOf 64)).lock 127).owner ≠ some 64] = true := by decide +kernel

/-- The hypotheses of MemoryRequestsComplete are met, clause by clause. -/
theorem witness_MemoryRequestsComplete : allHold [
  (fun e : Dev => !e.faults.halted && (e.knockEach (bar4Doms 0x3FF 4096)).1 = false && !(e.knockEach (bar4Doms 0x3FF 4096)).2.fencedOn [3, 4] && match (e.knockEach (bar4Doms 0x3FF 64)).2.blockReads .host 4 (blocksOf 0x3FF 64) with | .ok _ _ _ => true | _ => false) (r.linkWake 6),
  match (r.knockEach (bar4Doms 0x2FFFFFF 2)).2.blockReads .host 4 (blocksOf 0x3FFFFFF 2) with | .refuse _ _ => true | _ => false,
  (fun e : Dev => !e.boot.hostPath && !e.caddy.wiping && (e.knockEach (bar4Doms 0x1000 4)).1 = false && !(e.knockEach (bar4Doms 0x1000 4)).2.fencedOn [3, 4] && plainRange 0x1000 ≠ .hwt && plainRange (hwtBase + 0x7FFF8) = .hwt && (e.knockEach (bar4Doms (hwtBase + 0x7FFF8) 8)).1 = false && !(e.knockEach (bar4Doms (hwtBase + 0x7FFF8) 8)).2.fencedOn [3, 4]) (r.linkWake 6),
  (r.knock 3).1 = .ok,
  (fun d : Dev => d.linkActive 5 && (fun e : Dev => !e.faults.halted && e.busRoute 0x1000 = .bar4 0x1000 && e.rb pgPSW 0x040 5 && (e.knockEach ([8 + 5, 3, 4] ++ (blocksOf 0x1000 4).flatMap fun x => pathTo 4 x.1)).1 = false && !(e.knockEach ([8 + 5, 3, 4] ++ (blocksOf 0x1000 4).flatMap fun x => pathTo 4 x.1)).2.fencedOn [13, 3, 4] && (match (e.knockEach ([8 + 5, 3, 4] ++ (blocksOf 0x1000 4).flatMap fun x => pathTo 4 x.1)).2.blockReads .peer 4 (blocksOf 0x1000 4) with | .ok _ _ _ => true | _ => false) && !(e.blockWrites .peer 4 false (beatParts 0x1000 [1, 2, 3, 4] 2)).1.isEmpty) (d.linkWake 5)) (((r.setLink 5 1 3 0 true).setCfg cfEp cdCommand 2).setRf pgPSW 0x040 0 6 63 |>.setCfg cfEp 4 0x40000000 |>.setCfg cfEp 6 0x50000000),
  (fun d : Dev => d.linkActive 5 && (fun e : Dev => !e.faults.halted && e.acs 5 0 && e.acs 5 1 && e.busBelow 5 8 && !e.busBelow 5 9 && !e.busBelow 5 6) (d.linkWake 5)) (((r.setLink 5 1 3 0 true).setCfg (cfDn + 5) 0x55 0x30000).setCfg (cfDn + 5) 6 0x080701),
  ({ r with faults := { r.faults with halted := true } }.linkWake 6).faults.halted && (fun e : Dev => e.boot.hostPath && !e.faults.halted) (({ r with boot := { r.boot with hostPath := true } }).linkWake 6),
  (fun e : Dev => (e.knockEach (bar4Doms 0x1000 4)).1) ((naps r (addrDom 0x1000)).linkWake 6),
  (fun e : Dev => !(e.knockEach (bar4Doms 0x1000 4)).1 && (e.knockEach (bar4Doms 0x1000 4)).2.fencedOn [3, 4]) ((fencedAt r 4).linkWake 6),
  match ({ r with caddy := { wiping := true } } : Dev).blockReads .host 4 (blocksOf caddyBase 4) with | .wait _ => true | _ => false,
  (fun e : Dev => e.caddy.wiping && plainRange caddyBase = .caddy) ({ r with caddy := { wiping := true } }.linkWake 6),
  [(Gate.asleep), .fenced].all fun g => (((if g = .asleep then naps else fencedAt) r 3).knock 3).1 = g,
  !r.linkActive 5 && (fun d : Dev => d.linkActive 5 && (fun e : Dev => e.faults.halted) (d.linkWake 5)) ({ (r.setLink 5 1 3 0 true) with faults := { r.faults with halted := true } }),
  (fun e : Dev => !e.acs 5 1 && !e.acs 5 0 && e.busRoute 0x1000 = .bar4 0x1000 && !(e.setRf pgPSW 0x040 0 6 0).rb pgPSW 0x040 5) ((((r.setLink 5 1 3 0 true).setCfg cfEp cdCommand 2).setCfg cfEp 4 0x40000000 |>.setCfg cfEp 6 0x50000000).linkWake 5)] = true := by decide +kernel

/-- The hypotheses of HubCommandsComplete are met, clause by clause. -/
theorem witness_HubCommandsComplete : allHold [
  (fun d : Dev => (({ d with faults := d.faults }).ctx 255).phase = .running) (r.setCtx 255 { phase := .running }),
  (fun d : Dev => (fun e : Dev => (e.ctx 255).phase = .running) (((d.bump pgBRG 0x05C 1 0x060 0).bump16 pgBRG (0x100 + 4 * 15) 0 1).setRf pgBRG (0x100 + 4 * 15) 31 1 1 |>.raiseFault { kind := 26, page := pgBRG, source := 0, info := 15, unit := some 150 })) (r.setCtx 255 { phase := .running }),
  [(0, 3), (17, 2), (18, 1), (19, 10), (32, 10), (47, 11)].all fun x : Nat × Nat => r.gate (arbTarget x.1) ≠ .fenced && (arbPorts x.1).contains x.2 && (arbPorts x.1).all (fun q => x.1 = 16 || x.1 = 17 || !r.portMasked x.1 q) && (r.arb x.1).creditOf x.2 = 3 + 1 && (r.setArb x.1 (r.arb x.1)).arb x.1 = r.arb x.1,
  r.gate (coreDom 7 7) = .ok,
  (((r.setReg pgDRC 0x040 0x80000001).setDom 26 {}).dramState 0) = 1,
  (0x50 : Nat) ≤ (0x5F : Agent).val && checkerOf 0x05000000 = none && (checkerOf 0).any (fun c => c.keeps) && (checkerOf dramBase).any (fun c => !c.keeps) && r.portA.isNone,
  [fencedAt, naps].all fun f => (f r (arbTarget 0)).gate (arbTarget 0) ≠ .ok && (f r (coreDom 7 7)).gate (coreDom 7 7) ≠ .ok,
  (fun g : Dev => (g.arb 0).search (smGet (g.arb 0).ptr 0 0) [3] = some 3 && g.portClass 0 3 = g.portClass 0 3) (r.reload 0 [3]) && r.gate (arbTarget 0) = .ok,
  (fun d : Dev => d.gate (coreDom 7 7) = .ok && 16 * d.rf (pgWARB + 7) 0x200 16 8 < smGet (d.arb 71).waited 7 0 + 1 && d.rf (pgWARB + 7) 0x200 16 8 ≠ 0 && !(d.arb 71).told.contains 7) ((r.setRf (pgWARB + 7) 0x200 16 8 1).setArb 71 { waited := [(7, 16)] }),
  (r.setReg pgDRC 0x040 0).dramState 0 ≠ 1] = true := by decide +kernel

/-- The hypotheses of DerailleurCommandsComplete are met, clause by clause. -/
theorem witness_DerailleurCommandsComplete : allHold [
  r.isIdle 151 && !(r.dom 151).asleep && !r.isFenced 151,
  (fun d : Dev => (d.dom 151).eligible && !d.isFenced 151 && !(d.dom 151).cycling && (d.dom 151).trans = .none && max 1 (d.dom 151).state.code ≤ (d.bump pgDRL 0x050 1 0x060 0).selection 151 && ((d.bump pgDRL 0x050 1 0x060 0).knownEvent 151 = none)) ((r.setDom 151 { eligible := true }).atCounts ⟨0, 0⟩),
  (fun d : Dev => (d.dom 26).eligible && !d.isFenced 26 && (d.dom 26).trans = .none && (d.bump pgDRL 0x050 1 0x060 0).knownEvent 26 = some 0x1000000000 && 1 < (d.bump pgDRL 0x050 1 0x060 0).selection 26 && (fun f : Dev => reached f.now ((0x1000000000 : DT) - BitVec.ofNat 64 ((f.lat 26 (f.selection 26) + (f.reg pgDRL 0x044).toNat) * 256)) = false) (d.bump pgDRL 0x050 1 0x060 0)) ({ (r.setDom 26 { eligible := true }) with slots := [(0, ⟨0x1000000000, 26⟩)], lats := (List.range 5).map fun s => (estKey 26 s, [{ lat := 5, volt := 60, temp := 0 }]) }.atCounts ⟨0, 0⟩),
  [PState.doze, .nap, .off].all fun st => (fun d : Dev => (d.dom 151).wakeAt = some 0 && reached d.now 0 && !d.isFenced 151 && !(d.dom 151).cycling && (d.dom 151).trans = .none && (d.dom 151).state = st) ((r.setDom 151 { state := st, wakeAt := some 0 }).atCounts ⟨0, 0⟩),
  [(0 : Word), 5].all fun per => (fun d : Dev => smFind d.slots 31 = some ⟨0, 5⟩ && reached d.now 0 && d.reg pgDRL (0x200 + 16 * 31 + 8) = per) ({ r.setReg pgDRL (0x200 + 16 * 31 + 8) per with slots := [(31, ⟨0, 5⟩)] }.atCounts ⟨0, 0⟩),
  [PState.active, .nap].all fun st => (fun d : Dev => (d.dom 151).trans = .entering .off && !(d.dom 151).cycling && !d.isFenced 151 && (st = .nap → (d.dom 151).state.deeper = .off)) (r.setDom 151 { state := st, trans := .entering .off }),
  [(PState.doze, false), (.off, false), (.off, true)].all fun x => (fun d : Dev => (d.dom 151).trans = .exiting true none && !d.isFenced 151 && (d.dom 151).cycling = x.2 && ((d.dom 151).state ≠ .off || (d.comeUp 151).1)) ((r.setDom 151 { state := x.1, trans := .exiting true none, cycling := x.2 }).atCounts ⟨0, 0⟩),
  !r.isIdle 1 || (naps r 1).isFenced 1 || ((naps r 1).dom 1).asleep,
  (r.dom 151).eligible = false && (r.dom 151).wakeAt = none && smFind r.slots 0 = none && [fencedAt (r.setDom 151 { eligible := true }) 151, r.setDom 151 { eligible := true, cycling := true }].all fun d => d.isFenced 151 || (d.dom 151).cycling,
  (fun d : Dev => (d.bump pgDRL 0x050 1 0x060 0).knownEvent 26 = some 0x100 && (d.bump pgDRL 0x050 1 0x060 0).selection 26 ≠ 1 && (fun f : Dev => reached f.now ((0x100 : DT) - BitVec.ofNat 64 ((f.lat 26 (f.selection 26) + (f.reg pgDRL 0x044).toNat) * 256))) (d.bump pgDRL 0x050 1 0x060 0)) ({ ((r.setDom 26 { eligible := true, state := .off }).setReg (pgPWD) (0x104 + 16 * 26) 0) with slots := [(0, ⟨0x100, 26⟩)], lats := (List.range 5).map fun s => (estKey 26 s, [{ lat := 5, volt := 60, temp := 0 }]) }.atCounts ⟨0, 0⟩),
  (fun d : Dev => (d.dom 151).wakeAt = some 0x1000 && reached d.now 0x1000 = false) ((r.setDom 151 { state := .nap, wakeAt := some 0x1000 }).atCounts ⟨0, 0⟩),
  (fun d : Dev => smFind d.slots 31 = some ⟨0x1000, 5⟩ && reached d.now 0x1000 = false) ({ r with slots := [(31, ⟨0x1000, 5⟩)] }.atCounts ⟨0, 0⟩),
  (fun d : Dev => (d.dom 151).trans = .none && (fencedAt d 151).isFenced 151) r,
  (fun d : Dev => (d.dom 28).trans = .exiting true none && (d.dom 28).state = .off && (d.comeUp 28).1 = false) (naps ((((r.setDom 28 { state := .off, trans := .exiting true none }).setRf (corPage 0) (corOff 0 0) 31 1 0).setReg (corPage 0) (corOff 0 0x10) 32).setReg (corPage 0) (corOff 0 8) 0x1000) (addrDom 0x1000)),
  (fun d : Dev => d.isFenced 151 && (d.dom 151).trans = .exiting true none && !(d.dom 151).cycling) (fencedAt (r.setDom 151 { state := .nap, trans := .exiting true none }) 151)] = true := by decide +kernel

/-- The hypotheses of PowerControlCommandsComplete are met, clause by clause. -/
theorem witness_PowerControlCommandsComplete : allHold [
  gets r agHost pgPWD (0x100 + 16 * 151) true fun e => within 1 4 (fld (r.reg pgPWD (0x100 + 16 * 151)) 0 3) && !e.wheelFenced 151 && !e.faults.halted && !(e.dom 151).cycling && (e.dom 151).state ≠ .off && !(e.dom 151).fenced,
  writes r pgPWD 0x044 && writes r pgPWD 0x048 && writes r pgPWD 0x04C,
  (fun d : Dev => d.pmicOn && d.pmic.busy = none && d.pmic.settling = none && d.vcoreWanted ≠ d.pmic.now && (d.knock 16).1 = .ok) { (r.setReg pgDRL 0x0C4 0x80000000) with pmic := { r.pmic with now := 50 } },
  [40, 60, 80].all fun t => ({ r.pmic with busy := some t, nacks := 1 } : Pmic).busy = some t && ({ r.pmic with busy := some t, nacks := 1 } : Pmic).nacks < 2,
  ({ r.pmic with settling := some 70 } : Pmic).settling = some 70,
  (List.replicate 36 (0x6900 : BitVec 16)).length = 36,
  !(r.dom 151).asleep && !r.isFenced 151,
  stepMv (r.region 8).volt + 25 < 900 || 700 + 25 < stepMv (r.region 8).volt,
  gets r agHost (pgPWD) 0x100 true (fun _ => true) && within 1 4 (fld (0x80000000 : Word) 0 3) = false && within 1 4 (fld (0x80000007 : Word) 0 3) = false,
  gets ({ having [(rk pgLCS 0x040, 0)] with faults := { r.faults with halted := true } }) agDebug pgPWD (0x100 + 16 * 28) true (fun e => e.faults.halted) && gets (r.setWfault 0 { fenced := true }) agKettle pgPWD (0x100 + 16 * 28) true (fun e => e.wheelFenced 28 && !e.faults.halted),
  gets (r.setDom 28 { cycling := true }) agHost pgPWD (0x100 + 16 * 28) true (fun e => (e.dom 28).cycling && !e.wheelFenced 28) && gets (fencedAt r 28) agHost pgPWD (0x100 + 16 * 28) true (fun e => (e.dom 28).fenced) && gets r agHost pgPWD (0x100 + 16 * 1) true (fun e => !(e.dom 1).fenced && !e.wheelFenced 1),
  !r.pmicOn || r.vcoreWanted = r.pmic.now,
  (fun d : Dev => d.pmicOn && d.pmic.busy = none && d.pmic.settling = none && d.vcoreWanted ≠ d.pmic.now && (d.knock 16).1 ≠ .ok) (naps { (r.setReg pgDRL 0x0C4 0x80000000) with pmic := { r.pmic with now := 50 } } 16),
  r.pmic.busy = none && r.pmic.settling = none && 2 ≤ ({ r.pmic with busy := some 60, nacks := 2 } : Pmic).nacks && ((naps r 151).dom 151).asleep,
  stepMv (r.region 8).volt ≤ 700 + 25 || stepMv (r.region 8).volt ≤ 900 + 25] = true := by decide +kernel

/-- The hypotheses of HeaderCommandsComplete are met, clause by clause. -/
theorem witness_HeaderCommandsComplete : allHold [
  gets (r.setRf (pgCE + 15) 0x008 0 1 1) agHost (pgCE + 15) 0x008 true fun e => pageDrains (pgCE + 15) && pageFenceable (pgCE + 15) && e.pageEn (pgCE + 15),
  writes r 95 0x020 && writes r 0 0x020,
  gets (r.setReg pgFLT 0x040 1) agHost pgMEM 0x02C true fun e => e.rb pgFLT 0x040 0 && fld (0x5718 : Word) 4 2 ≠ 3 && fld (0x5718 : Word) 8 8 < pageCheckers pgMEM && !parityPage pgMEM,
  writes r pgHUB 0x034 && pageCommits pgHUB && writes r (pgWARB + 7) 0x034 && pageCommits (pgWARB + 7),
  (0x10003 : Word) &&& ~~~evtMask pgHIF = 0 && writes r pgHIF 0x014 && writes r pgHIF 0x018,
  gets r agKettle pgDEV 0x03C true fun _ => bitAt (1 : Word) 0,
  gets r agHost pgGPI 0x054 true fun e => match regRow pgGPI 0x054 with | some x => x.rw ≠ 0 && !x.banked && !x.rws && e.writeBlock agHost (e.tagOf agHost) pgGPI 0x054 5 = some (e.plain agHost pgGPI 0x054 5) | none => false,
  writes r pgDEV 0x000 && match regRow pgDEV 0x000 with | some x => x.rw = 0 && x.w1c = 0 && x.wo = 0 | none => false,
  (fun d : Dev => d.canAccess (agKettle : Nat) && regDoms pgGPI 0x054 = [20] && regPath agKettle pgGPI 0x054 = [] && d.gate 20 = .asleep) (naps r 20),
  ((fencedAt r 4).regReach agHost pgGPI 0x054 true).1 = .fenced && ((fencedAt r 4).regReach agHost pgGPI 0x054 false).1 = .fenced && ((naps r 4).regReach agHost pgGPI 0x054 true).1 = .asleep && ((naps r 20).regReach agHost pgGPI 0x054 false).1 = .asleep,
  gets r agHost pgGPI 0x008 true (fun _ => !pageDrains pgGPI) && !pageFenceable pgHIF && gets (r.setRf pgCE 0x008 0 1 1) agHost pgCE 0x008 true fun e => !e.draining pgCE,
  gets ((({ r with ctxs := [(0, { phase := .running })] }).setScb 0 { state := .draining }).setReg pgCE 0x008 0) agHost pgCE 0x008 true fun e => e.draining pgCE,
  gets (r.setReg pgFLT 0x040 0) agHost pgMEM 0x02C true (fun e => !e.rb pgFLT 0x040 0) && gets r agHost pgDEV 0x03C true (fun _ => true),
  r.canAccess (agDebug : Nat) = false || r.canAccess (0x50 : Nat) = false] = true := by decide +kernel

/-- The hypotheses of FaultCommandsComplete are met, clause by clause. -/
theorem witness_FaultCommandsComplete : allHold [
  gets { r with faults := { r.faults with logProd := 9 } } agHost pgFLT 0x04C true fun e => ((9 : Word) - e.reg pgFLT 0x04C).toNat ≤ (e.faults.logProd - e.reg pgFLT 0x04C).toNat,
  [0, 255].all fun lim => (fun d : Dev => (d.wfault 7).fenced && !(d.wfault 7).recovering && !(d.wfault 7).held && !d.faults.halted && (d.reg (pgWARB + 7) 0x404).toNat ≤ (toDl32 d.now - (d.wfault 7).steepStart).toNat && d.rf (pgWARB + 7) 0x400 0 8 = lim) ((({ r with pacer := { r.pacer with base := 0x7FFFFFFF00000000 } }.setWfault 7 { fenced := true }).setRf (pgWARB + 7) 0x400 0 8 lim).setReg (pgWARB + 7) 0x404 4 |>.atCounts ⟨0, 0⟩),
  gets (r.setWfault 7 { fenced := true }) agHost (pgWARB + 7) 0x400 true fun e => ((e.plain agHost (pgWARB + 7) 0x400 (withBit (e.reg (pgWARB + 7) 0x400) 31 true)).wfault 7).fenced,
  ((r.setWfault 7 { fenced := true, recovering := true }).wfault 7).recovering && !r.faults.halted,
  !(r.wfault 7).fenced && !(r.wfault 7).recovering && gets { r with faults := { r.faults with logProd := 9 } } agHost pgFLT 0x04C true fun e => (e.faults.logProd - e.reg pgFLT 0x04C).toNat < ((10 : Word) - e.reg pgFLT 0x04C).toNat,
  gets r agHost (pgWARB + 7) 0x400 true fun e => !((e.plain agHost (pgWARB + 7) 0x400 (withBit (e.reg (pgWARB + 7) 0x400) 31 true)).wfault 7).fenced] = true := by decide +kernel

/-- The hypotheses of ResetCommandsComplete are met, clause by clause. -/
theorem witness_ResetCommandsComplete : allHold [
  (fun b : ColdBoard => !b.testEn && b.badRow = none) ⟨false, none, none, none, false, true⟩,
  (fun b : ColdBoard => !b.testEn && b.badRow = some 191) ⟨false, some 191, none, none, false, true⟩,
  (fun b : ColdBoard => b.testEn && b.badRow = none && b.bypass) ⟨true, none, none, none, true, false⟩,
  (having [(rk pgFUS 0x200, 0x800FFC00)]).repairBad 0,
  (List.range 192).all fun i => !(having ((List.range 192).map fun i => (rk pgFUS (0x200 + 4 * i), 0))).repairBad i] = true := by decide +kernel

/-- The hypotheses of BootCommandsComplete are met, clause by clause. -/
theorem witness_BootCommandsComplete : allHold [
  writes r pgKTL 0x044,
  gets ({ having [(rk pgLCS 0x040, 0)] with mem := memPutAll [] stagingBase (leBytes 4 0x31525645 ++ leBytes 2 1 ++ leBytes 2 1 ++ leBytes 4 0x300), boot := { r.boot with hostPath := true } }.poke (stagingBase + 0x60) (leBytes 4 0x260 ++ leBytes 4 32 ++ leBytes 8 0x1000)) agHost pgKTL 0x048 true fun e => e.boot.hostPath && e.boot.loaded = none && imgHeaderErr (e.peek stagingBase 0x260) = 0 && e.imgErr (e.peek stagingBase (imgLen (e.peek stagingBase 0x260))) = 0,
  gets ({ having [(rk pgLCS 0x040, 0)] with mem := memPutAll [] stagingBase (leBytes 4 0x31525645 ++ leBytes 2 1 ++ leBytes 2 1 ++ leBytes 4 0x300), boot := { r.boot with hostPath := true } }) agHost pgKTL 0x048 true fun e => e.boot.hostPath && imgHeaderErr (e.peek stagingBase 0x260) = 0 && e.imgErr (e.peek stagingBase (imgLen (e.peek stagingBase 0x260))) ≠ 0,
  ({ r with boot := { r.boot with loaded := some (3, 1, 0x8000) } } : Dev).boot.loaded = some (3, 1, 0x8000),
  gets (having [(rk pgLCS 0x040, 0x22)]) agKettle pgLCS 0x044 true fun e => fld (0x4C430003 : Word) 16 16 = 0x4C43 && e.lifeCycle = 2 && e.rf pgLCS 0x040 4 4 = 2 && fld (0x4C430003 : Word) 0 4 = 3,
  gets (having [(rk pgLCS 0x048, 62)]) agKettle pgLCS 0x048 true fun e => e.rf pgLCS 0x048 0 6 = 62,
  [0x080, 0x0FC, 0x100, 0x11C].all fun o => gets (having [(rk pgLCS 0x040, 0x11)]) agKettle pgFUS o true fun e => e.lifeCycle = lcPROVISION && !e.boot.written.contains o,
  gets r agKettle pgKTL 0x070 true fun e => e.boot.qspi = none && fld (0x80001000 : Word) 0 13 ≤ 4096 && fld (e.reg pgKTL 0x064) 21 3 ≤ 4 && fld (e.reg pgKTL 0x064) 14 2 ≠ 3 && e.rf pgKTL 0x06C 0 15 + 4096 ≤ 0x8000,
  [(0x200 : DT), 0].all fun t => gets ({ r with pacer := { r.pacer with base := 0x100 } }.setReg pgKTL (0x100 + 16 * 7) (lo32 t)) agKettle pgKTL (0x104 + 16 * 7) true fun e => (fun f : Dev => ((f.wlInsert (f.coreTag 64) { target := cat64 (f.reg pgKTL (0x104 + 16 * 7)) (f.reg pgKTL (0x100 + 16 * 7)), kind := .ktimer, id := 7 }).1 = (if t = 0 then .reached else .inserted) : Bool)) (e.plain agKettle pgKTL (0x104 + 16 * 7) 0),
  gets r agKettle pgKTL (0x108 + 16 * 7) true fun _ => true,
  ({ r with boot := { r.boot with qspi := some (0, 2, false) } } : Dev).boot.qspi = some (0, 2, false),
  gets r agHost pgKTL 0x048 true (fun _ => true) && !(decide ((0x2FF : Word).toNat % 32 = 0)) && r.boot.loaded = none,
  gets (having [(rk pgLCS 0x040, 0x22)]) agHost pgLCS 0x044 true (fun e => fld (0x4C430003 : Word) 16 16 = 0x4C43 && e.lifeCycle = 2) && gets (having [(rk pgLCS 0x048, 63)]) agKettle pgLCS 0x048 true (fun e => e.rf pgLCS 0x048 0 6 = 63),
  gets (having [(rk pgLCS 0x040, 0x33)]) agKettle pgFUS 0x080 true (fun e => e.lifeCycle ≠ lcPROVISION) && gets { having [(rk pgLCS 0x040, 0x11)] with boot := { r.boot with written := [0x080] } } agKettle pgFUS 0x080 true (fun e => e.boot.written.contains 0x080),
  gets { r with boot := { r.boot with qspi := some (0, 2, false) } } agKettle pgKTL 0x070 true (fun e => e.boot.qspi.isSome) && gets r agHost pgKTL 0x070 true (fun e => e.boot.qspi.isNone),
  gets ({ r with wl := List.replicate 512 ⟨0, .core, 0⟩ }.setReg pgKTL (0x100 + 16 * 7) 0x200) agKettle pgKTL (0x104 + 16 * 7) true (fun e => (fun f : Dev => ((f.wlInsert (f.coreTag 64) { target := cat64 (f.reg pgKTL (0x104 + 16 * 7)) (f.reg pgKTL (0x100 + 16 * 7)), kind := .ktimer, id := 7 }).1 = .refused : Bool)) (e.plain agKettle pgKTL (0x104 + 16 * 7) 0))] = true := by decide +kernel

/-- The hypotheses of DebugCommandsComplete are met, clause by clause. -/
theorem witness_DebugCommandsComplete : allHold [
  r.dap.status ≠ dapBusy,
  (fun d : Dev => d.dap.status = dapBusy && d.dap.addr = pagesBase + 4096 * pgDEV + 0x040 && d.debugMay pgDEV 0x040 && match d.regRead agDebug pgDEV 0x040 with | .ok _ _ => true | _ => false) { having [(rk pgLCS 0x040, 0)] with dap := ⟨0, pagesBase + 4096 * pgDEV + 0x040, 0, dapBusy⟩ },
  (fun d : Dev => d.dap.op = 1 && d.dap.status = dapBusy && d.debugMay pgGPI 0x054 && match d.regWrite agDebug pgGPI 0x054 7 with | .ok _ _ => true | _ => false) { having [(rk pgLCS 0x040, 0)] with dap := ⟨1, pagesBase + 4096 * pgGPI + 0x054, 7, dapBusy⟩ },
  gets r agHost pgDBG 0x040 true fun e => e.rf pgLCS 0x050 0 2 ≠ 3 && e.rf pgDBG 0x044 0 2 ≠ 2,
  gets (r.setRf pgDBG 0x044 0 2 1) agHost pgDBG 0x040 true fun e => e.rf pgDBG 0x044 0 2 = 1,
  (fun d : Dev => d.rf pgDBG 0x044 0 2 = 2 && d.responseOk) (having ((List.range 8).map (fun i => (rk pgFUS (0x100 + 4 * i), BitVec.ofNat 32 ([2658505271, 743316876, 724888535, 3949457194, 170533153, 4097000436, 3434515641, 3302645287].getD i 0))) ++ [(rk pgDBG 0x044, 2), (rk pgDBG 0x0DC, 0x03000000), (rk pgDBG 0x0FC, 0x01000000)])),
  (fun d : Dev => d.rf pgDBG 0x044 0 2 = 2 && !d.responseOk) (r.setRf pgDBG 0x044 0 2 2),
  gets (having [(rk pgLCS 0x040, 0)]) agHost pgDBG (0x110 + 16 * 64) true fun e => e.debugReaches 64 && (e.core 64).state ≠ .debugHalt,
  gets ((having [(rk pgLCS 0x040, 0)]).setCore 64 { state := .debugHalt }) agHost pgDBG (0x110 + 16 * 64) true fun e => e.debugReaches 64 && (e.core 64).state = .debugHalt && !bitAt ((e.reg pgDBG (0x110 + 16 * 64) &&& 0x10000000) ||| 0x40000000) 29 && bitAt ((e.reg pgDBG (0x110 + 16 * 64) &&& 0x90000000) ||| 0x20000000) 29,
  [false, true].all fun w => gets ((having [(rk pgLCS 0x040, 0), (rk pgDBG 0x600, 0x411F)]).setCore 64 { state := .debugHalt }) agHost pgDBG 0x604 w fun e => fld (e.reg pgDBG 0x600) 8 8 = 65 && e.debugReaches 64 && (e.core 64).state = .debugHalt && !bitAt (e.reg pgDBG 0x600) 7 && fld (e.reg pgDBG 0x600) 0 6 = 31,
  ({ having [(rk pgLCS 0x040, 0)] with dap := ⟨2, 0x1001, 0, dapBusy⟩ } : Dev).dap.op = 2 && (having [(rk pgLCS 0x040, 0)]).dbgAccess = 2 && (having [(rk pgLCS 0x040, 0x22)]).debugMay pgFUS 0x040 = false && (having [(rk pgLCS 0x040, 0x22)]).dbgAccess ≠ 2,
  (fun d : Dev => (match (naps d 20).regRead agDebug pgGPI 0x054 with | .wait _ => true | _ => false) && (match (fencedAt d (commonDom 0)).regRead agDebug pgWMBX 0x300 with | .abort _ => true | _ => false)) { having [(rk pgLCS 0x040, 0)] with dap := ⟨0, pagesBase + 4096 * pgGPI + 0x054, 0, dapBusy⟩ },
  [(0x1000 : Nat), 0x5000000].all fun a => (fun d : Dev => d.dap.status = dapBusy && d.dbgAccess = 2 && d.dap.addr % 4 = 0 && (rangeOf a = .sram .none || rangeOf a = .unmapped) && (d.reach 0 0x1000).1 = .ok && ((naps d (addrDom 0x1000)).reach 0 0x1000).1 = .asleep && ((fencedAt d (addrDom 0x1000)).reach 0 0x1000).1 = .fenced) { having [(rk pgLCS 0x040, 0)] with dap := ⟨0, a, 0, dapBusy⟩ },
  gets (r.setRf pgLCS 0x050 0 2 3) agHost pgDBG 0x040 true (fun e => e.rf pgLCS 0x050 0 2 = 3 && e.rf pgDBG 0x044 0 2 ≠ 1) && r.rf pgDBG 0x044 0 2 ≠ 2,
  gets (having [(rk pgLCS 0x040, 0x22)]) agHost pgDBG (0x110 + 16 * 64) true fun e => !e.debugReaches 64,
  [false, true].all fun w => [0x0000, 0x0100, 0x419F].all fun sel => gets ((having [(rk pgLCS 0x040, 0), (rk pgDBG 0x600, BitVec.ofNat 32 sel)]).setCore 64 { state := .debugHalt }) agHost pgDBG 0x604 w fun e => (fld (e.reg pgDBG 0x600) 8 8 = 0) = (sel = 0) && (bitAt (e.reg pgDBG 0x600) 7 = decide (sel = 0x419F)) && (sel = 0x0100) = ((e.core (fld (e.reg pgDBG 0x600) 8 8 - 1)).state ≠ .debugHalt && sel ≠ 0)] = true := by decide +kernel

/-- The hypotheses of LinkCommandsComplete are met, clause by clause. -/
theorem witness_LinkCommandsComplete : allHold [
  !r.links.perst && !r.linkActive 6 && (r.setRf (pgPDN + 1) 0x040 31 1 1).rb (pgPDN + 1) 0x040 31 && !(r.setRf (pgPDN + 1) 0x040 31 1 1).linkActive 1,
  !hostUp.links.perst && hostUp.linkActive 6,
  (r.setLink 5 1 3 2 true).linkActive 5 && (fun f : Dev => f.linkActive 5 && f.pmState 5 ≠ 0) ((r.setLink 5 1 3 2 true).setRf (pgPDN + 5) 0x044 17 1 1),
  [(6, 2), (5, 1), (0, 0)].all fun x : Nat × Nat => (fun d : Dev => d.linkActive x.1 && d.pmState x.1 = 0 && d.l1Allowed x.1 x.2 && !d.pacer.ptmBusy) (((r.setLink x.1 1 3 0 true).setCfg (portFn x.1) cdLinkCtl 2).setCfg (portFn x.1) 0x5A 0xF),
  gets (having [(rk (pgPDN + 5) 0x044, 0x1301), (rk pgPHY (qstatOff 3), 0xF0)]) agHost pgPHY (0x408 + 16 * 15) true fun e => (fun f : Dev => !f.links.margin.contains 15 && !f.laneIdle 15 && f.pmState (Dev.lanePort 15) = 0) (e.plain agHost pgPHY (0x408 + 16 * 15) 0x80100000),
  ({ r with links := { r.links with margin := [15] } } : Dev).links.margin.contains 15,
  writes r pgPHY (0x100 + 32 * 3),
  ({ r with links := { r.links with perst := true } } : Dev).links.perst && ((1 : Fin 16).val = 1 ∨ (1 : Fin 16).val = 2) && ¬ (1 ≤ (0 : Fin 16).val) && !r.rb (pgPDN + 1) 0x040 31,
  (fun d : Dev => d.linkActive 5 && d.pmState 5 = 0 && !d.l1Allowed 5 1) (r.setLink 5 1 3 0 true) && !r.linkActive 0,
  gets r agHost pgPHY (0x408 + 16 * 15) true fun e => (fun f : Dev => !f.links.margin.contains 15 && f.laneIdle 15) (e.plain agHost pgPHY (0x408 + 16 * 15) 0x80100000) && fld (0x80000000 : Word) 20 8 = 0 && !r.links.margin.contains 15] = true := by decide +kernel

/-- The hypotheses of HostLinkCommandsComplete are met, clause by clause. -/
theorem witness_HostLinkCommandsComplete : allHold [
  (r.linkWake 6).rb pgKTL 0x044 31 = false && ((r.setRf pgKTL 0x044 31 1 1).linkWake 6).rb pgKTL 0x044 31,
  (cfgRow 0 1).isSome && (cfgRow 1 1).isSome && (cfgRow 7 1).isSome,
  (fun d : Dev => d.gate (ceDom 0) = .ok && (d.ctx 0).phase = .running && !d.fetchesHost 0 && (d.ctx 0).hostReq = some (0, 4)) (r.setCtx 0 { phase := .running, hostReq := some (0, 4) }),
  (fun d : Dev => (((d.quiesceDone 0).pcieError 6 .completionTimeout).ctx 0) = d.ctx 0) (r.setCtx 0 { phase := .running, hostReq := some (0, 4) }),
  (fun d : Dev => d.gate (moverDom 7) = .ok && (d.mover 15).cur = some { bytes := leBytes 8 (2 ^ 32), hostReq := some (0, 1) } && 0 < mdCount (leBytes 8 (2 ^ 32))) (r.setMover 15 { cur := some { bytes := leBytes 8 (2 ^ 32), hostReq := some (0, 1) } }),
  (fun d : Dev => d.gate (coreDomain 64) = .ok && (((d.core 64).pend.find? (·.out)).any fun q => q.host && q.dests.length = 1)) (r.setCore 64 { pend := [{ dests := [1], addr := 0, pc := 0, host := true }] }),
  (fun d : Dev => d.busRoute 0x10044 = .bar0 (4096 * 16 + 0x44) && (match d.regRead agHost 16 0x44 with | .ok _ _ => true | _ => false) && (match d.regWrite agHost 16 0x44 0 with | .ok _ _ => true | _ => false)) (((r.setCfg cfEp cdCommand 2).setCfg cfEp 6 0x50000000).setCfg cfEp 8 0x60000000),
  (fun d : Dev => d.busRoute 0x40000000 = .port 5 && (fun e : Dev => !e.faults.halted && (e.knockEach [3, 13]).1 = false && !(e.knockEach [3, 13]).2.fencedOn [3, 13] && e.linkActive 5) (d.linkWake 6)) (((r.setLink 5 1 3 0 true).setCfg (cfDn + 5) cdCommand 2).setCfg (cfDn + 5) 8 0x40004000),
  r.busRoute 0x40000000 = .other && !r.faults.halted,
  (r.setLink 5 1 3 0 true).linkActive 5,
  (List.range 1024).any (fun i => (cfgRow 0 i).isNone) && (cfgRow 1 0x16).isSome && (cfgRow 2 0x18).isSome && (cfgRow 2 15).isSome,
  (fun d : Dev => d.gate (ceDom 0) = .ok && d.fetchesHost 0 && d.activeSub 0 = some 0) ((r.setScb 0 { state := .active, ccwAddr := BitVec.ofNat 48 hostBase }).setCtx 0 { phase := .fetching }),
  [fencedAt, naps].all fun f => (f r (ceDom 0)).gate (ceDom 0) ≠ .ok && (f r (moverDom 7)).gate (moverDom 7) ≠ .ok && (f r (coreDomain 64)).gate (coreDomain 64) ≠ .ok,
  !r.fetchesHost 0 && (r.ctx 0).hostReq = none && (r.mover 15).cur = none && (r.core 64).pend.find? (·.out) = none,
  [Phase.flush, .running].all fun ph => [(0x09 : Byte), 0x20].all fun op => (fun d : Dev => !d.fetchesHost 0 && (d.ctx 0).hostReq = some (0, 8) && (d.ctx 0).phase = ph && (d.ctx 0).ccw.op = op) (r.setCtx 0 { phase := ph, ccw := { op := op }, hostReq := some (0, 8) }),
  [none, some 4].all fun fl => (fun d : Dev => (d.mover 15).cur.any fun x => x.hostReq = some (0, 4) && x.flushTo = fl) (r.setMover 15 { cur := some { bytes := leBytes 8 (2 ^ 32), hostReq := some (0, 4), flushTo := fl } }),
  (fun d : Dev => d.dap.status = dapBusy && d.dap.op = 0 && d.dbgAccess = 2 && rangeOf d.dap.addr = .hostwin) ({ having [(rk pgLCS 0x040, 0)] with dap := ⟨0, hostBase, 0, dapBusy⟩ }.countAccess (agentTag agDebug) 0 false hostBase 4) && r.dap.status ≠ dapBusy,
  (fun d : Dev => d.busRoute 0x50000010 = .bar2 0x10 && d.busRoute 0x60001000 = .bar4 0x1000 && d.busRoute 0x60040 = .bar0 0x60040 && d.busRoute 0x12 = .bar0 0x12) (((r.setCfg cfEp cdCommand 2).setCfg cfEp 6 0x50000000).setCfg cfEp 8 0x60000000),
  (fun d : Dev => (match (naps d 20).regRead agHost pgGPI 0x54 with | .wait _ => true | _ => false) && (match (fencedAt d 4).regWrite agHost pgGPI 0x54 0 with | .abort _ => true | _ => false)) r,
  (fun d : Dev => d.busRoute 0x40000000 = .port 5 && !d.linkActive 5 && (fun e : Dev => (e.faults.halted = false) && ((naps e 13).knockEach [3, 13]).1 && !((fencedAt e 13).knockEach [3, 13]).1 && ((fencedAt e 13).knockEach [3, 13]).2.fencedOn [3, 13] && !e.linkActive 5) (d.linkWake 6)) (((r.setCfg (cfDn + 5) cdCommand 2)).setCfg (cfDn + 5) 8 0x40004000),
  bitAt (r.cfgHeld 0 0x43) 18 && bitAt (r.cfgHeld 0 0x43) 12 = false && bitAt ((r.setCfg 0 0x43 0x1000).cfgHeld 0 0x43) 12,
  (fun d : Dev => d.apertureOn && d.busRoute d.aperture = .aperture 0) r || !r.apertureOn] = true := by decide +kernel

/-- The hypotheses of CoreEncodingsAreDistinct are met, clause by clause. -/
theorem witness_CoreEncodingsAreDistinct : allHold [
  (coreWords (.coreAdd 0 1 2)).isSome] = true := by decide +kernel

/-- The hypotheses of CoreWordsAreLegal are met, clause by clause. -/
theorem witness_CoreWordsAreLegal : allHold [
  (coreWords (.coreAdd 0 1 2)).any fun x => x.2.length = 1,
  (coreWords (.coreAddi 64 31 0xFF)).any fun x => x.2.length = 2] = true := by decide +kernel

/-- The hypotheses of EntryBuildsTheFrame are met, clause by clause. -/
theorem witness_EntryBuildsTheFrame : allHold [
  (fun d : Dev => (d.core 64).state = .running && ((d.core 64).pair 15 - 4).toNat = 0x7FFC && Memory.wf d.mem && (List.range 4).all (fun x => !d.poisoned (coreLram 64 + 0x7FFC + x)) && d.rf pgMEM 0x02C 4 2 = 0 && d.rf pgKTL 0x02C 4 2 = 0) (r.setCore 64 { state := .running, g := [(31, 0x80)] })] = true := by decide +kernel

/-- The hypotheses of CountersSaturate are met, clause by clause. -/
theorem witness_CountersSaturate : allHold [
  smSorted none r.regs && rk pgPCR 0x084 ≠ rk pgPCR 0x078] = true := by decide +kernel

/-- The hypotheses of TimesConvertAndAreReached are met, clause by clause. -/
theorem witness_TimesConvertAndAreReached : allHold [
  (2 : Nat) ^ 63 - 1 < 2 ^ 63] = true := by decide +kernel

/-- The hypotheses of RateOutOfRangeIsDiscarded are met, clause by clause. -/
theorem witness_RateOutOfRangeIsDiscarded : allHold [
  writes r pgPCR 0x050 && (0xBE76C8B4 : Word).toInt < -1099511627 && 1099511627 < (0x4189374C : Word).toInt] = true := by decide +kernel

/-- The hypotheses of FullWakeListRefuses are met, clause by clause. -/
theorem witness_FullWakeListRefuses : allHold [
  (fun d : Dev => 512 ≤ d.wl.length && reached d.now 1 = false) { r with wl := List.replicate 512 ⟨1, .core, 0⟩ },
  (fun e : Dev => (fun d : Dev => 512 ≤ d.wl.length && d.core 5 = { e.core 5 with armed := true, fired := false } && reached d.now (e.core 5).pcmp = false) ((e.wlRemove (e.coreTag 5) .core 5).setCore 5 { e.core 5 with armed := true, fired := false })) ({ r with wl := List.replicate 512 ⟨1, .core, 0⟩ }.setCore 5 { pcmp := 1 })] = true := by decide +kernel

end Sys2Proof.Tests
end

section
/-!
PROOFS of the family of scope. An access that arrives at an offset that no register table lists (R7): the read is answered 0, the write
leaves no trace, and each breaks a rule of R538.
-/

namespace Sys2Proof.Machine

/-! ### The accesses that arrive -/

/-- What stands behind an access that arrives: its agent makes such accesses, it found its way, and the ROM does not wait on the
host path for it (R492, R501, R532). -/
theorem arrives_eq_some {d e : Dev} {a p o : Nat} {w : Bool} (h : d.arrives a p o w = some e) :
    ¬ (!d.canAccess a ∨ (a = agDebug ∧ !d.debugMay p o)) ∧
    ∃ f, d.regReach a p o w = (.ok, f) ∧ ¬ (a = agHost ∧ f.boot.hostPath ∧ !bootPage p) ∧ f.countReg a p o w = e := by
  unfold Dev.arrives at h
  split at h
  · cases h
  · rename_i hmay
    split at h
    · rename_i f hreach
      split at h
      · cases h
      · rename_i hpath
        exact ⟨hmay, f, hreach, hpath, Option.some.inj h⟩
    · cases h

/-! ### The accesses of an unpopulated offset -/

/-- QUIESCE, whose waiting reads are counted once, is populated (R412). -/
theorem ne_quiesce_of_unpopulated {p o : Nat} (hr : regRow p o = none) : ¬ (p = pgHWT ∧ o = 0x040) := by
  rintro ⟨rfl, rfl⟩
  exact absurd hr (by decide)

/-- A read that arrives at an unpopulated offset is served with 0, and breaks a rule. -/
theorem regRead_unpopulated {d e : Dev} {a p o : Nat} (h : d.arrives a p o false = some e) (hr : regRow p o = none) :
    d.regRead a p o = .ok 0 (e.badWrite p a o) := by
  obtain ⟨hmay, f, hreach, hpath, rfl⟩ := arrives_eq_some h
  have hq : ¬ (p = pgHWT ∧ o = 0x040 ∧ (smFind f.quiesce a).isSome) := fun x => ne_quiesce_of_unpopulated hr ⟨x.1, x.2.1⟩
  unfold Dev.regRead
  simp only [if_neg hmay, hreach, if_neg hpath, if_neg hq, hr, Option.isNone_none, if_true]

/-- So is the read command, which succeeds. -/
theorem rd_unpopulated {d e : Dev} {a p o : Nat} (h : d.arrives a p o false = some e) (hr : regRow p o = none) :
    d.rd a p o = { e.badWrite p a o with cpl := .success, resp := [0] } := by
  unfold Dev.rd
  rw [regRead_unpopulated h hr]

/-- A write of an unpopulated offset breaks a rule, whatever the word. -/
theorem writeReg_unpopulated (d : Dev) (a tag : Nat) {p o : Nat} (v : Word) (hr : regRow p o = none) :
    d.writeReg a tag p o v = d.badWrite p a o := by
  unfold Dev.writeReg
  rw [hr]

/-! ### The page's event -/

/-- A register given another word than its reset value reads back, whether or not the register words are in their order. -/
theorem reg_setReg_of_ne_reset (d : Dev) {p o : Nat} {v : Word} (h : v ≠ regReset (rk p o)) : (d.setReg p o v).reg p o = v :=
  smGet_smSet_of_ne _ _ h

/-- No event of a page is set after reset (R535). -/
theorem regReset_pgEvt (p : Nat) : regReset (rk p 0x010) = 0 := by
  have hpage : rk p 0x010 / 1024 = p := by unfold rk; omega
  have hoff : rk p 0x010 % 1024 * 4 = 0x010 := by unfold rk; omega
  have hrow : regRow p 0x010 = if p < numPages then some { off := 0x010 } else none := rfl
  unfold regReset
  rw [hpage, hoff, hrow]
  by_cases hp : p < numPages
  · rw [if_pos hp]; rfl
  · rw [if_neg hp]

/-- An event that hardware sets is set. -/
theorem pageEvt_sets (d : Dev) (p : Nat) {bits i : Nat} (hi : bitAt (w32 bits) i = true) :
    bitAt ((d.pageEvt p bits).reg p 0x010) i = true := by
  have hset : bitAt (d.reg p 0x010 ||| w32 bits) i = true := by
    unfold bitAt at hi ⊢
    rw [BitVec.getLsbD_or, hi, Bool.or_true]
  have hne : d.reg p 0x010 ||| w32 bits ≠ regReset (rk p 0x010) := by
    intro heq
    rw [heq, regReset_pgEvt] at hset
    simp [bitAt] at hset
  unfold Dev.pageEvt
  rw [reg_setReg_of_ne_reset d hne, hset]

/-- An access that breaks a rule sets BAD_WRITE (R538). -/
theorem badWrite_sets_event (d : Dev) (p a o : Nat) : bitAt ((d.badWrite p a o).reg p 0x010) 0 = true := by
  unfold Dev.badWrite
  exact pageEvt_sets _ p rfl

/-! ### The two commands -/

/-- REGISTER_READ is the agent's read of a page at a word's offset. -/
theorem exec_registerRead (a : Agent) (p : Fin 96) (k : Fin 1024) (s : State) :
    exec (.registerRead a p k) s = s.run fun d => d.rd a p (4 * k) := rfl

/-- REGISTER_WRITE is the agent's write of it. -/
theorem exec_registerWrite (a : Agent) (p : Fin 96) (k : Fin 1024) (v : Word) (s : State) :
    exec (.registerWrite a p k v) s = s.run fun d => d.wr a p (4 * k) v := rfl

/-- Settles O11: the read and the write of an offset that has no row end in `badWrite`, which sets the event. -/
theorem unpopulatedOffsets : Obligations.UnpopulatedOffsets := by
  unfold Obligations.UnpopulatedOffsets
  intro s a p k v e hr
  refine ⟨fun hread => ?_, fun hwrite => ?_, badWrite_sets_event e p a (4 * k)⟩
  · exact runs_of_run (exec_registerRead a p k s) (rd_unpopulated hread hr)
  · exact runs_of_run (exec_registerWrite a p k v s) ((wr_arrives hwrite).trans (writeReg_unpopulated e a (e.tagOf a) v hr))

end Sys2Proof.Machine
end

section
/-!
PROOFS of the family of time, energy and device arithmetic (chapter 02). Durations and reached targets (R30, R32), the range of RATE_ADJ
(R37), and a wake list that is full (R55).
-/

namespace Sys2Proof.Machine

/-! ### Durations and targets (R30, R32) -/

/-- A DS32 duration shifted by 8 bits fits the 64 of DT64, so none is lost. -/
theorem ds32Dur_toNat (o : Word) : (ds32Dur o).toNat = o.toNat * 2 ^ 8 := by
  have ho : o.toNat < 2 ^ 32 := o.isLt
  unfold ds32Dur
  rw [BitVec.toNat_ofNat, Nat.mod_eq_of_lt (by omega)]

/-- So does a DL32 duration shifted by 24 bits. -/
theorem dl32Dur_toNat (o : Word) : (dl32Dur o).toNat = o.toNat * 2 ^ 24 := by
  have ho : o.toNat < 2 ^ 32 := o.isLt
  unfold dl32Dur
  rw [BitVec.toNat_ofNat, Nat.mod_eq_of_lt (by omega)]

/-- The sign bit that `reached` looks at is the sign of the difference. -/
theorem reached_iff (now t : DT) : reached now t = true ↔ 0 ≤ (now - t).toInt := by
  unfold reached
  rw [BitVec.msb_eq_toInt]
  simp

/-- The difference from a target `ago` units back is `ago` itself, whether or not the sum has wrapped. -/
theorem reached_of_past (t : DT) {ago : Nat} (h : ago < 2 ^ 63) : reached (t + BitVec.ofNat 64 ago) t = true := by
  have hdiff : t + BitVec.ofNat 64 ago - t = BitVec.ofNat 64 ago := by rw [BitVec.add_comm, BitVec.add_sub_cancel]
  have hago : (BitVec.ofNat 64 ago).toNat = ago := by rw [BitVec.toNat_ofNat, Nat.mod_eq_of_lt (by omega)]
  rw [reached_iff, hdiff, BitVec.toInt_eq_toNat_of_lt (by omega)]
  exact Int.natCast_nonneg _

/-- Settles O58: both shifts stay below 2^64, and a difference below 2^63 has its sign bit clear. -/
theorem timesConvertAndAreReached : Obligations.TimesConvertAndAreReached := by
  unfold Obligations.TimesConvertAndAreReached
  exact ⟨fun o => ⟨ds32Dur_toNat o, dl32Dur_toNat o⟩, reached_iff, fun t _ h => reached_of_past t h⟩

/-! ### The range of RATE_ADJ (R37) -/

/-- The clamp leaves alone just the values of the range. -/
theorem eq_clampRate_iff (x : Int) : x = clampRate x ↔ -1099511627 ≤ x ∧ x ≤ 1099511627 := by
  unfold clampRate
  omega

/-- The rule of a write of RATE_ADJ. -/
theorem writeBlock_rateAdj (d : Dev) (a tag : Nat) (v : Word) :
    d.writeBlock a tag pgPCR 0x050 v = d.plainIf (decide (v.toInt = clampRate v.toInt)) a pgPCR 0x050 v := rfl

/-- A value outside the range of RATE_ADJ is none that the block takes. -/
theorem writeBlock_rateAdj_outOfRange (d : Dev) (a tag : Nat) {v : Word} (hv : v.toInt < -1099511627 ∨ 1099511627 < v.toInt) :
    d.writeBlock a tag pgPCR 0x050 v = none := by
  have hne : ¬ v.toInt = clampRate v.toInt := by
    rw [eq_clampRate_iff]
    omega
  rw [writeBlock_rateAdj, decide_eq_false hne]
  rfl

/-- A write that arrives at a writable register of an unlocked block is discarded with BAD_WRITE where the block's rules do not take
it (R6, R538). -/
theorem wr_block_discarded {d e : Dev} {a p o : Nat} {v : Word} (h : d.arrives a p o true = some e) (hu : e.unlocked p a)
    (hb : blockWritable p o = true) (hw : e.writeBlock a (e.tagOf a) p o v = none) : d.wr a p o v = e.badWrite p a o := by
  rw [wr_arrives h]
  unfold blockWritable at hb
  cases hr : regRow p o with
  | none => rw [hr] at hb; cases hb
  | some r =>
    simp [hr] at hb
    rw [writeReg_block hr (by omega) hu (by omega), hw, Option.getD_none]

/-- Settles O59: the clamp of R37 moves a value outside the range, so the block does not take it. -/
theorem rateOutOfRangeIsDiscarded : Obligations.RateOutOfRangeIsDiscarded := by
  unfold Obligations.RateOutOfRangeIsDiscarded
  intro s a v e harr hu hv
  have hdiscard : s.dev.wr a pgPCR 0x050 v = e.badWrite pgPCR a 0x050 :=
    wr_block_discarded harr hu (by decide) (writeBlock_rateAdj_outOfRange e a _ hv)
  exact ⟨runs_of_run (exec_registerWrite a _ _ v s) hdiscard, badWrite_sets_event e pgPCR a 0x050⟩

/-! ### A full wake list (R55) -/

/-- A target not yet reached finds no room in a full list, and the refusal is counted. -/
theorem wlInsert_full {d : Dev} (tag : Nat) (e : WlEntry) (hfull : 512 ≤ d.wl.length) (ht : reached d.now e.target = false) :
    d.wlInsert tag e = (.refused, d.bump pgPCR 0x078 1 0x084 1) := by
  rcases wlInsert_cases d tag e with ⟨hr, _⟩ | ⟨_, _, h⟩ | ⟨_, hroom, _⟩
  · rw [ht] at hr; cases hr
  · exact h
  · omega

/-- The removal of an entry leaves the cores as they are. -/
theorem wlRemove_core (d : Dev) (t : Nat) (k : WlKind) (i j : Nat) : (d.wlRemove t k i).core j = d.core j := by
  rw [wlRemove_eq]; rfl

/-- A subchannel's wait on a full list ends in a PROGRAM_CHECK. -/
theorem waitTime_full {d : Dev} (i : Nat) {t : DT} (c : Cause) (g : Dev → Dev) (hfull : 512 ≤ d.wl.length)
    (ht : reached d.now t = false) :
    d.waitTime i t c g = (d.bump pgPCR 0x078 1 0x084 1).raiseExc i xPROGRAM 0x200
      ((d.bump pgPCR 0x078 1 0x084 1).ctx i).ccw.count := by
  unfold Dev.waitTime
  rw [wlInsert_full i { target := t, kind := .subch, id := i } hfull ht]

/-- The device from which the arming of a core makes its insertion: the core's former entry is removed, and its compare is armed and has
not fired. -/
def Dev.rearmed (d : Dev) (k : Nat) : Dev :=
  (d.wlRemove (d.coreTag k) .core k).setCore k { d.core k with armed := true, fired := false }

/-- Where that insertion is refused, the arming ends with the compare disarmed and the refusal flag set. -/
theorem coreArm_of_refused {d f : Dev} {k : Nat}
    (h : (d.rearmed k).wlInsert ((d.rearmed k).coreTag k) { target := ((d.rearmed k).core k).pcmp, kind := .core, id := k } = (.refused, f)) :
    d.coreArm k = f.setCore k { f.core k with armed := false, refused := true } := by
  unfold Dev.rearmed at h
  unfold Dev.coreArm
  simp only [wlRemove_core, h]

/-- A core's compare that finds the list full, its own former entry removed, sets its refusal flag. -/
theorem coreArm_full {d : Dev} {k : Nat} (hfull : 512 ≤ (d.rearmed k).wl.length)
    (ht : reached (d.rearmed k).now ((d.rearmed k).core k).pcmp = false) :
    d.coreArm k = ((d.rearmed k).bump pgPCR 0x078 1 0x084 1).setCore k
      { ((d.rearmed k).bump pgPCR 0x078 1 0x084 1).core k with armed := false, refused := true } :=
  coreArm_of_refused (wlInsert_full _ _ hfull ht)

/-- Settles O60: each of the three comes to an insertion into a full list. -/
theorem fullWakeListRefuses : Obligations.FullWakeListRefuses := by
  unfold Obligations.FullWakeListRefuses
  rintro d f hfull rfl
  refine ⟨fun tag e ht => wlInsert_full tag e hfull ht, fun i t c g ht => waitTime_full i c g hfull ht, ?_⟩
  rintro e k c rfl (rfl : d = e.rearmed k) hcore ht
  refine coreArm_full hfull ?_
  rw [hcore]
  exact ht

end Sys2Proof.Machine
end

section
/-!
PROOFS: facts of logic and arithmetic that the proofs below share, and that core Lean does not have under a name.
-/

namespace Sys2Proof.Machine

/-- Two choices under equivalent conditions, between equal sides. -/
theorem ite_iff_congr {α : Sort _} {p q : Prop} [Decidable p] [Decidable q] {x y u v : α} (h : p ↔ q) (hx : x = u) (hy : y = v) :
    (if p then x else y) = if q then u else v := by
  subst hx hy
  by_cases hp : p
  · rw [if_pos hp, if_pos (h.mp hp)]
  · rw [if_neg hp, if_neg fun hq => hp (h.mpr hq)]

/-- Equality tested on words is equality decided. -/
theorem bitVec_beq_eq_decide {w : Nat} (a b : BitVec w) : (a == b) = decide (a = b) := by
  rw [Bool.eq_iff_iff, beq_iff_eq, decide_eq_true_iff]

/-- Folds of functions that agree on the list's members are equal. -/
theorem foldl_eq_of_forall_mem {α β : Type} {f g : α → β → α} {l : List β} (h : ∀ a, ∀ b ∈ l, f a b = g a b) (a : α) :
    l.foldl f a = l.foldl g a := by
  induction l generalizing a with
  | nil => rfl
  | cons b l ih =>
    rw [List.foldl_cons, List.foldl_cons, h a b List.mem_cons_self]
    exact ih (fun a c hc => h a c (List.mem_cons_of_mem b hc)) _

end Sys2Proof.Machine
end

section
/-!
PROOFS about the step and the queue (log 1, log 2, log 3), and about the urgent byte held for the EC port (R250, R251).
-/

namespace Sys2Proof.Machine

/-! ### Every well-formed command is one run -/

/-- A command is one function of the device, run; or, where its list operand or its length may not exist, one run under that check. -/
theorem exec_eq_runIf (c : Instr) : ∃ f : Dev → Dev, ∀ s, exec c s = s.runIf c.wellFormed f := by
  cases c with
  | hostMemoryRead o n => exact ⟨fun d => d.hostRead o.toNat n, fun _ => rfl⟩
  | downstreamMemoryRead p id a n => exact ⟨fun d => d.peerRequest p id a.toNat (.read n), fun _ => rfl⟩
  | thermalSample raw => exact ⟨fun d => d.thermalSample raw, fun _ => rfl⟩
  | _ => exact ⟨_, fun _ => rfl⟩

/-- So a well-formed command completes with some effect, settled. -/
theorem exec_wellFormed {c : Instr} (h : c.wellFormed = true) (s : State) : ∃ e, Runs c s e := by
  obtain ⟨f, hf⟩ := exec_eq_runIf c
  exact ⟨f s.dev, by unfold Runs; rw [hf, h]; rfl⟩

/-- One that is not well formed is a fault. -/
theorem exec_illFormed {c : Instr} (h : c.wellFormed = false) (s : State) : exec c s = .fault .badOperand := by
  obtain ⟨f, hf⟩ := exec_eq_runIf c
  rw [hf, h]; rfl

/-- Settles O3: every command is one run under its check. -/
theorem wellFormedCommandsComplete : Obligations.WellFormedCommandsComplete := by
  unfold Obligations.WellFormedCommandsComplete
  intro c s
  refine ⟨fun h => ?_, fun h => exec_illFormed h s⟩
  obtain ⟨e, he⟩ := exec_wellFormed h s
  exact ⟨_, he⟩

/-! ### The queue -/

/-- With a command at the front, the step is its execution. -/
theorem step_cons {s : State} {c : Instr} {cs : List Instr} (h : s.pending = c :: cs) : step s = exec c { s with pending := cs } := by
  unfold step; rw [h]

/-- With none, the step leaves the block idle. -/
theorem step_nil {s : State} (h : s.pending = []) : step s = .next s := by
  unfold step; rw [h]

/-- Settles O1. -/
theorem stepRunsTheFrontCommand : Obligations.StepRunsTheFrontCommand := by
  unfold Obligations.StepRunsTheFrontCommand
  intro s c cs h
  exact step_cons h

/-- Settles O2: no word decodes, so none is put at the front of the queue. -/
theorem emptyQueueIdles : Obligations.EmptyQueueIdles := by
  unfold Obligations.EmptyQueueIdles
  exact ⟨fun s h => step_nil h, fun s nbits w => ⟨rfl, rfl⟩⟩

/-- A step of a queue whose front command is well formed takes that command off the queue and leaves the rest. -/
theorem step_safe {s : State} {c : Instr} {cs : List Instr} (h : s.pending = c :: cs) (hc : c.wellFormed = true) :
    ∃ t, step s = .next t ∧ t.pending = cs := by
  obtain ⟨e, he⟩ := exec_wellFormed hc { s with pending := cs }
  exact ⟨_, (step_cons h).trans he, rfl⟩

/-- A run whose first step goes on is the run of the other steps from there. -/
theorem run_succ {s t : core.State} {k : Nat} (h : core.step s = .next t) : core.run (k + 1) s = core.run k t := by
  simp only [Host.Core.run, h]

/-- Settles O4, by induction on the queue: each step takes the front command off, and the rest is as safe. -/
theorem safeQueuesAreWorkedOff : Obligations.SafeQueuesAreWorkedOff := by
  unfold Obligations.SafeQueuesAreWorkedOff
  intro s hs
  generalize hq : s.pending = q
  induction q generalizing s with
  | nil => exact ⟨s, rfl, hq⟩
  | cons c cs ih =>
    obtain ⟨t, hstep, ht⟩ := step_safe hq (hs c (by rw [hq]; exact List.mem_cons_self))
    have htail : Safe t := fun x hx => hs x (by rw [hq]; exact List.mem_cons_of_mem c (ht ▸ hx))
    obtain ⟨u, hrun, hu⟩ := ih t htail ht
    refine ⟨u, ?_, hu⟩
    have hcore : core.step s = .next t := hstep
    rw [List.length_cons, run_succ hcore]
    exact hrun

/-! ### The urgent byte held -/

/-- The urgent byte does not look at the EC port, so holding it leaves it as it is. -/
theorem syncUrgent_urgentByte (d : Dev) : d.syncUrgent.urgentByte = d.urgentByte := rfl

/-- Every command's end holds the urgent byte. -/
theorem settle_urgentHeld (old d : Dev) : (settle old d).ecp.urgPrev = (settle old d).urgentByte := by
  unfold settle
  exact (syncUrgent_urgentByte _).symm

/-- Settles O5: an idle step changes nothing, and any other ends with `settle`, which holds the byte last. -/
theorem stepKeepsUrgentByte : Obligations.StepKeepsUrgentByte := by
  unfold Obligations.StepKeepsUrgentByte
  intro s t hs hst
  cases hq : s.pending with
  | nil =>
    rw [step_nil hq] at hst
    cases hst
    exact hs
  | cons c cs =>
    rw [step_cons hq] at hst
    cases hc : c.wellFormed with
    | false => rw [exec_illFormed hc] at hst; cases hst
    | true =>
      obtain ⟨e, he⟩ := exec_wellFormed hc { s with pending := cs }
      rw [he] at hst
      cases hst
      exact settle_urgentHeld s.dev e

/-- Settles O6. -/
theorem resetHoldsUrgentByte : Obligations.ResetHoldsUrgentByte := by
  unfold Obligations.ResetHoldsUrgentByte UrgentHeld
  decide +kernel

end Sys2Proof.Machine
end

section
/-!
PROOFS about the encoding of the core instructions (R330): the words of an instruction command give back the command, and are legal unless
an operand is one that R330 leaves undefined.
-/

namespace Sys2Proof.Machine

/-! ### The fields of each form -/

/-- A field of a word as an operand of a range. -/
def operand (n : Nat) [NeZero n] (w : BitVec 16) (lo bits : Nat) : Fin n := Fin.ofNat n (bf w lo bits)

/-- The value of an operand field that is one of the rest of a word below its major opcode. -/
theorem operand_op16_val (n : Nat) [NeZero n] (m rest lo bits : Nat) :
    (operand n (op16 m rest) lo bits).val = (m * 2048 + rest) % 65536 / 2 ^ lo % 2 ^ bits % n := rfl

theorem bf_op16 (m rest lo bits : Nat) : bf (op16 m rest) lo bits = (m * 2048 + rest) % 65536 / 2 ^ lo % 2 ^ bits := rfl

/-- The major opcode of a word is the one that it is made from. -/
theorem major_op16 {m rest : Nat} (hm : m < 32) (hr : rest < 2048) : major (op16 m rest) = m := by
  unfold major
  rw [bf_op16]
  omega

/-- Register and register. -/
theorem fields_rr {m b : Nat} (hm : m < 32) (hb : b < 2) (rd rs : Fin 32) :
    major (op16 m (rd * 64 + rs * 2 + b)) = m ∧ operand 32 (op16 m (rd * 64 + rs * 2 + b)) 6 5 = rd ∧
    operand 32 (op16 m (rd * 64 + rs * 2 + b)) 1 5 = rs ∧ bf (op16 m (rd * 64 + rs * 2 + b)) 0 1 = b := by
  refine ⟨major_op16 hm (by omega), Fin.ext ?_, Fin.ext ?_, ?_⟩
  · rw [operand_op16_val]; omega
  · rw [operand_op16_val]; omega
  · rw [bf_op16]; omega

/-- Register and immediate. -/
theorem fields_imm {op : Nat} (h : op < 16) (rd : Fin 32) (imm : Byte) :
    major (op16 6 (rd * 64 + op * 4)) = 6 ∧ operand 32 (op16 6 (rd * 64 + op * 4)) 6 5 = rd ∧ bf (op16 6 (rd * 64 + op * 4)) 2 4 = op ∧
    bf (op16 6 (rd * 64 + op * 4)) 0 2 = 0 ∧ bf (imm.zeroExtend 16) 8 8 = 0 ∧ (imm.zeroExtend 16).truncate 8 = imm := by
  refine ⟨major_op16 (by decide) (by omega), Fin.ext ?_, ?_, ?_, ?_, ?_⟩
  · rw [operand_op16_val]; omega
  · rw [bf_op16]; omega
  · rw [bf_op16]; omega
  · have := imm.isLt
    simp [bf]; omega
  · simp

/-- Shift and count. -/
theorem fields_shift {op : Nat} (h : op < 8) (rd : Fin 32) (n : Fin 8) :
    major (op16 9 (rd * 64 + op * 8 + n)) = 9 ∧ operand 32 (op16 9 (rd * 64 + op * 8 + n)) 6 5 = rd ∧
    bf (op16 9 (rd * 64 + op * 8 + n)) 3 3 = op ∧ operand 8 (op16 9 (rd * 64 + op * 8 + n)) 0 3 = n ∧
    bf (op16 9 (rd * 64 + op * 8 + n)) 0 3 = n := by
  refine ⟨major_op16 (by decide) (by omega), Fin.ext ?_, ?_, Fin.ext ?_, ?_⟩
  · rw [operand_op16_val]; omega
  · rw [bf_op16]; omega
  · rw [operand_op16_val]; omega
  · rw [bf_op16]; omega

/-- Register or pair, base and offset. -/
theorem fields_mem {m : Nat} (hm : m < 32) (r : Fin 16) (base : Fin 4) (off : Fin 32) :
    major (op16 m (r * 128 + base * 32 + off)) = m ∧ operand 16 (op16 m (r * 128 + base * 32 + off)) 7 4 = r ∧
    operand 4 (op16 m (r * 128 + base * 32 + off)) 5 2 = base ∧ operand 32 (op16 m (r * 128 + base * 32 + off)) 0 5 = off := by
  refine ⟨major_op16 hm (by omega), Fin.ext ?_, Fin.ext ?_, Fin.ext ?_⟩
  · rw [operand_op16_val]; omega
  · rw [operand_op16_val]; omega
  · rw [operand_op16_val]; omega

/-- Register, or the pair that it names, and an absolute address. -/
theorem fields_abs {st : Nat} (h : st < 2) (r : Fin 32) (pair : Bool) :
    major (op16 15 (r * 64 + st * 32 + 16 * pair.toNat)) = 15 ∧ operand 32 (op16 15 (r * 64 + st * 32 + 16 * pair.toNat)) 6 5 = r ∧
    bf (op16 15 (r * 64 + st * 32 + 16 * pair.toNat)) 5 1 = st ∧ bf (op16 15 (r * 64 + st * 32 + 16 * pair.toNat)) 4 1 = pair.toNat ∧
    bf (op16 15 (r * 64 + st * 32 + 16 * pair.toNat)) 0 4 = 0 ∧ bf (op16 15 (r * 64 + st * 32 + 16 * pair.toNat)) 6 1 = r % 2 := by
  have hp : pair.toNat < 2 := Bool.toNat_lt pair
  refine ⟨major_op16 (by decide) (by omega), Fin.ext ?_, ?_, ?_, ?_, ?_⟩
  · rw [operand_op16_val]; omega
  all_goals rw [bf_op16]; omega

/-- Condition and branch offset: the condition's upper bit is the lower one of the major opcode. -/
theorem fields_bcc (cond : Fin 16) (off : BitVec 8) :
    major (op16 (16 + cond / 8) (cond % 8 * 256 + off.toNat)) = 16 + cond / 8 ∧
    operand 16 (op16 (16 + cond / 8) (cond % 8 * 256 + off.toNat)) 8 4 = cond ∧
    bf (op16 (16 + cond / 8) (cond % 8 * 256 + off.toNat)) 8 3 = cond % 8 ∧
    BitVec.ofNat 8 (bf (op16 (16 + cond / 8) (cond % 8 * 256 + off.toNat)) 0 8) = off := by
  have := off.isLt
  refine ⟨major_op16 (by omega) (by omega), Fin.ext ?_, ?_, BitVec.eq_of_toNat_eq ?_⟩
  · rw [operand_op16_val]; omega
  · rw [bf_op16]; omega
  · rw [bf_op16, BitVec.toNat_ofNat]; omega

/-- Pair and 7-bit immediate. -/
theorem fields_addp (p : Fin 16) (imm : BitVec 7) :
    major (op16 7 (p * 128 + imm.toNat)) = 7 ∧ operand 16 (op16 7 (p * 128 + imm.toNat)) 7 4 = p ∧
    BitVec.ofNat 7 (bf (op16 7 (p * 128 + imm.toNat)) 0 7) = imm := by
  have := imm.isLt
  refine ⟨major_op16 (by decide) (by omega), Fin.ext ?_, BitVec.eq_of_toNat_eq ?_⟩
  · rw [operand_op16_val]; omega
  · rw [bf_op16, BitVec.toNat_ofNat]; omega

/-- Pair, with an extension word. -/
theorem fields_movip (p : Fin 16) :
    major (op16 8 (p * 128)) = 8 ∧ operand 16 (op16 8 (p * 128)) 7 4 = p ∧ bf (op16 8 (p * 128)) 0 7 = 0 := by
  refine ⟨major_op16 (by decide) (by omega), Fin.ext ?_, ?_⟩
  · rw [operand_op16_val]; omega
  · rw [bf_op16]; omega

/-- Pair, register and sign. -/
theorem fields_mul (p : Fin 16) (rs : Fin 32) (signed : Bool) :
    major (op16 10 (p * 128 + rs * 4 + 2 * signed.toNat)) = 10 ∧ operand 16 (op16 10 (p * 128 + rs * 4 + 2 * signed.toNat)) 7 4 = p ∧
    operand 32 (op16 10 (p * 128 + rs * 4 + 2 * signed.toNat)) 2 5 = rs ∧
    bf (op16 10 (p * 128 + rs * 4 + 2 * signed.toNat)) 1 1 = signed.toNat ∧ bf (op16 10 (p * 128 + rs * 4 + 2 * signed.toNat)) 0 1 = 0 := by
  have hs : signed.toNat < 2 := Bool.toNat_lt signed
  refine ⟨major_op16 (by decide) (by omega), Fin.ext ?_, Fin.ext ?_, ?_, ?_⟩
  · rw [operand_op16_val]; omega
  · rw [operand_op16_val]; omega
  · rw [bf_op16]; omega
  · rw [bf_op16]; omega

/-- A jump or a call to an address, which its extension word is. -/
theorem fields_direct {call : Nat} (h : call < 2) :
    major (op16 18 (call * 1024)) = 18 ∧ bf (op16 18 (call * 1024)) 10 1 = call ∧ bf (op16 18 (call * 1024)) 9 1 = 0 ∧
    bf (op16 18 (call * 1024)) 5 4 = 0 ∧ bf (op16 18 (call * 1024)) 0 5 = 0 := by
  refine ⟨major_op16 (by decide) (by omega), ?_, ?_, ?_, ?_⟩
  all_goals rw [bf_op16]; omega

/-- A jump or a call to a pair. -/
theorem fields_pair {call : Nat} (h : call < 2) (p : Fin 16) :
    major (op16 18 (call * 1024 + 512 + p * 32)) = 18 ∧ bf (op16 18 (call * 1024 + 512 + p * 32)) 10 1 = call ∧
    bf (op16 18 (call * 1024 + 512 + p * 32)) 9 1 = 1 ∧ operand 16 (op16 18 (call * 1024 + 512 + p * 32)) 5 4 = p ∧
    bf (op16 18 (call * 1024 + 512 + p * 32)) 0 5 = 0 := by
  refine ⟨major_op16 (by decide) (by omega), ?_, ?_, Fin.ext ?_, ?_⟩
  · rw [bf_op16]; omega
  · rw [bf_op16]; omega
  · rw [operand_op16_val]; omega
  · rw [bf_op16]; omega

/-- A loop of an immediate count. -/
theorem fields_loop (level : Fin 4) (n : Fin 128) :
    major (op16 20 (level * 256 + n)) = 20 ∧ bf (op16 20 (level * 256 + n)) 10 1 = 0 ∧
    operand 4 (op16 20 (level * 256 + n)) 8 2 = level ∧ bf (op16 20 (level * 256 + n)) 8 2 = level ∧
    bf (op16 20 (level * 256 + n)) 7 1 = 0 ∧ operand 128 (op16 20 (level * 256 + n)) 0 7 = n := by
  refine ⟨major_op16 (by decide) (by omega), ?_, Fin.ext ?_, ?_, ?_, Fin.ext ?_⟩
  · rw [bf_op16]; omega
  · rw [operand_op16_val]; omega
  · rw [bf_op16]; omega
  · rw [bf_op16]; omega
  · rw [operand_op16_val]; omega

/-- A loop whose count is in a pair. -/
theorem fields_loopPair (level : Fin 4) (p : Fin 16) :
    major (op16 20 (level * 256 + 128 + p * 8)) = 20 ∧ bf (op16 20 (level * 256 + 128 + p * 8)) 10 1 = 0 ∧
    operand 4 (op16 20 (level * 256 + 128 + p * 8)) 8 2 = level ∧ bf (op16 20 (level * 256 + 128 + p * 8)) 8 2 = level ∧
    bf (op16 20 (level * 256 + 128 + p * 8)) 7 1 = 1 ∧ operand 16 (op16 20 (level * 256 + 128 + p * 8)) 3 4 = p ∧
    bf (op16 20 (level * 256 + 128 + p * 8)) 0 3 = 0 := by
  refine ⟨major_op16 (by decide) (by omega), ?_, Fin.ext ?_, ?_, ?_, Fin.ext ?_, ?_⟩
  · rw [bf_op16]; omega
  · rw [operand_op16_val]; omega
  · rw [bf_op16]; omega
  · rw [bf_op16]; omega
  · rw [operand_op16_val]; omega
  · rw [bf_op16]; omega

/-- TRAP and its code. -/
theorem fields_trap (code : Byte) :
    major (op16 23 (1024 + code.toNat)) = 23 ∧ bf (op16 23 (1024 + code.toNat)) 10 1 = 1 ∧ bf (op16 23 (1024 + code.toNat)) 8 2 = 0 ∧
    BitVec.ofNat 8 (bf (op16 23 (1024 + code.toNat)) 0 8) = code := by
  have := code.isLt
  refine ⟨major_op16 (by decide) (by omega), ?_, ?_, BitVec.eq_of_toNat_eq ?_⟩
  · rw [bf_op16]; omega
  · rw [bf_op16]; omega
  · rw [bf_op16, BitVec.toNat_ofNat]; omega

/-- Register and CSR. -/
theorem fields_csr {m : Nat} (hm : m < 32) (r : Fin 32) (csr : Fin 64) :
    major (op16 m (r * 64 + csr)) = m ∧ operand 32 (op16 m (r * 64 + csr)) 6 5 = r ∧ operand 64 (op16 m (r * 64 + csr)) 0 6 = csr := by
  refine ⟨major_op16 hm (by omega), Fin.ext ?_, Fin.ext ?_⟩
  · rw [operand_op16_val]; omega
  · rw [operand_op16_val]; omega

/-! ### The command that words spell -/

/-- The target that the words of a JMP or CALL name. -/
def targetOf (w e : BitVec 16) : CoreTarget := if bf w 9 1 = 0 then .direct e else .pair (operand 16 w 5 4)

/-- The count that the first word of a LOOP names. -/
def countOf (w : BitVec 16) : LoopCount := if bf w 7 1 = 0 then .imm (operand 128 w 0 7) else .pair (operand 16 w 3 4)

/-- The command of two registers, by the major opcode and the minor bit. -/
def rrInstr (k : Fin 65) (m b : Nat) (rd rs : Fin 32) : Instr :=
  match m, b with
  | 0x01, 0 => .coreAdd k rd rs
  | 0x01, _ => .coreAddc k rd rs
  | 0x02, 0 => .coreSub k rd rs
  | 0x02, _ => .coreSubc k rd rs
  | 0x03, 0 => .coreAnd k rd rs
  | 0x03, _ => .coreOr k rd rs
  | 0x04, 0 => .coreXor k rd rs
  | 0x04, _ => .coreMov k rd rs
  | _, 0 => .coreCmp k rd rs
  | _, _ => .coreCmpc k rd rs

/-- The command of a register and an immediate, by its operation. -/
def immInstr (k : Fin 65) (op : Nat) (rd : Fin 32) (b : Byte) : Instr :=
  match op with
  | 0 => .coreAddi k rd b
  | 1 => .coreAddci k rd b
  | 2 => .coreSubi k rd b
  | 3 => .coreSubci k rd b
  | 4 => .coreAndi k rd b
  | 5 => .coreOri k rd b
  | 6 => .coreXori k rd b
  | 7 => .coreCmpi k rd b
  | _ => .coreMovi k rd b

/-- The command of a shift, by its operation. -/
def shiftInstr (k : Fin 65) (op : Nat) (rd : Fin 32) (n : Fin 8) : Instr :=
  match op with
  | 0 => .coreShl k rd n
  | 1 => .coreShr k rd n
  | 2 => .coreAsr k rd n
  | 3 => .coreRol k rd n
  | 4 => .coreRor k rd n
  | 5 => .coreRcl k rd n
  | _ => .coreRcr k rd n

/-- The command of a load or store at a base and an offset, by the major opcode. -/
def memInstr (k : Fin 65) (m : Nat) (r : Fin 16) (base : Fin 4) (off : Fin 32) : Instr :=
  match m with
  | 0x0B => .coreLdb k r base off
  | 0x0C => .coreStb k r base off
  | 0x0D => .coreLdp k r base off
  | _ => .coreStp k r base off

/-- The command of core `k` that a word spells with its extension word (R330); SYNC for what spells none. -/
def coreInstr (k : Fin 65) (w e : BitVec 16) : Instr :=
  let rd := operand 32 w 6 5
  let p := operand 16 w 7 4
  let m := major w
  if 0x01 ≤ m ∧ m ≤ 0x05 then rrInstr k m (bf w 0 1) rd (operand 32 w 1 5)
  else if m = 0x06 then immInstr k (bf w 2 4) rd (e.truncate 8)
  else if m = 0x07 then .coreAddp k p (BitVec.ofNat 7 (bf w 0 7))
  else if m = 0x08 then .coreMovip k p e
  else if m = 0x09 then shiftInstr k (bf w 3 3) rd (operand 8 w 0 3)
  else if m = 0x0A then .coreMul k p (operand 32 w 2 5) (decide (bf w 1 1 = 1))
  else if 0x0B ≤ m ∧ m ≤ 0x0E then memInstr k m p (operand 4 w 5 2) (operand 32 w 0 5)
  else if m = 0x0F then
    if bf w 5 1 = 0 then .coreLda k rd (decide (bf w 4 1 = 1)) e else .coreSta k rd (decide (bf w 4 1 = 1)) e
  else if 0x10 ≤ m ∧ m ≤ 0x11 then .coreBcc k (operand 16 w 8 4) (BitVec.ofNat 8 (bf w 0 8))
  else if m = 0x12 then if bf w 10 1 = 0 then .coreJmp k (targetOf w e) else .coreCall k (targetOf w e)
  else if m = 0x13 then if bf w 10 1 = 0 then .coreRet k else .coreReti k
  else if m = 0x14 then if bf w 10 1 = 0 then .coreLoop k (operand 4 w 8 2) (countOf w) e else .coreLpop k
  else if m = 0x15 then if bf w 10 1 = 0 then .coreDi k else .coreEi k
  else if m = 0x16 then .coreWait k
  else if m = 0x17 then if bf w 10 1 = 0 then .coreBreak k else .coreTrap k (BitVec.ofNat 8 (bf w 0 8))
  else if m = 0x19 then .coreCsrr k rd (operand 64 w 0 6)
  else if m = 0x1A then .coreCsrw k rd (operand 64 w 0 6)
  else .coreSync k

section
variable (k : Fin 65) (e : BitVec 16)

theorem coreInstr_rr {m b : Nat} (hm : 1 ≤ m ∧ m ≤ 5) (hb : b < 2) (rd rs : Fin 32) :
    coreInstr k (op16 m (rd * 64 + rs * 2 + b)) e = rrInstr k m b rd rs := by
  obtain ⟨hmaj, hrd, hrs, hmin⟩ := fields_rr (show m < 32 by omega) hb rd rs
  simp only [coreInstr, hmaj, hrd, hrs, hmin, hm, and_self, if_true]

theorem coreInstr_imm {op : Nat} (h : op < 16) (rd : Fin 32) (b : Byte) :
    coreInstr k (op16 6 (rd * 64 + op * 4)) (b.zeroExtend 16) = immInstr k op rd b := by
  obtain ⟨hmaj, hrd, hop, _, _, hb⟩ := fields_imm h rd b
  simp [coreInstr, hmaj, hrd, hop]

theorem coreInstr_shift {op : Nat} (h : op < 8) (rd : Fin 32) (n : Fin 8) :
    coreInstr k (op16 9 (rd * 64 + op * 8 + n)) e = shiftInstr k op rd n := by
  obtain ⟨hmaj, hrd, hop, hn, _⟩ := fields_shift h rd n
  simp [coreInstr, hmaj, hrd, hop, hn]

theorem coreInstr_mem {m : Nat} (hm : 11 ≤ m ∧ m ≤ 14) (r : Fin 16) (base : Fin 4) (off : Fin 32) :
    coreInstr k (op16 m (r * 128 + base * 32 + off)) e = memInstr k m r base off := by
  obtain ⟨hmaj, hr, hbase, hoff⟩ := fields_mem (show m < 32 by omega) r base off
  have h1 : ¬ (1 ≤ m ∧ m ≤ 5) := by omega
  have h2 : m ≠ 6 ∧ m ≠ 7 ∧ m ≠ 8 ∧ m ≠ 9 ∧ m ≠ 10 := by omega
  simp only [coreInstr, hmaj, hr, hbase, hoff, h1, h2, hm, and_self, if_true, if_false]

theorem coreInstr_direct {call : Nat} (h : call < 2) (a : BitVec 16) :
    coreInstr k (op16 18 (call * 1024)) a = if call = 0 then .coreJmp k (.direct a) else .coreCall k (.direct a) := by
  obtain ⟨hmaj, hcall, hdir, _⟩ := fields_direct h
  simp [coreInstr, targetOf, hmaj, hcall, hdir]

theorem coreInstr_pair {call : Nat} (h : call < 2) (p : Fin 16) :
    coreInstr k (op16 18 (call * 1024 + 512 + p * 32)) e = if call = 0 then .coreJmp k (.pair p) else .coreCall k (.pair p) := by
  obtain ⟨hmaj, hcall, hdir, hp, _⟩ := fields_pair h p
  simp [coreInstr, targetOf, hmaj, hcall, hdir, hp]

theorem coreInstr_abs {st : Nat} (h : st < 2) (r : Fin 32) (pair : Bool) :
    coreInstr k (op16 15 (r * 64 + st * 32 + 16 * pair.toNat)) e = if st = 0 then .coreLda k r pair e else .coreSta k r pair e := by
  obtain ⟨hmaj, hr, hst, hpair, _⟩ := fields_abs h r pair
  simp [coreInstr, hmaj, hr, hst, hpair]

theorem coreInstr_bcc (cond : Fin 16) (off : BitVec 8) :
    coreInstr k (op16 (16 + cond / 8) (cond % 8 * 256 + off.toNat)) e = .coreBcc k cond off := by
  obtain ⟨hmaj, hcond, _, hoff⟩ := fields_bcc cond off
  have hc : cond.val / 8 = 0 ∨ cond.val / 8 = 1 := by omega
  rcases hc with hc | hc <;> rw [hc] at hmaj hcond hoff ⊢ <;> simp [coreInstr, hmaj, hcond, hoff]

end

/-- The words of an instruction command spell the command. -/
theorem coreInstr_coreWords {i : Instr} {x : Nat × List (BitVec 16)} (h : coreWords i = some x) :
    coreInstr (Fin.ofNat 65 x.1) (x.2.headD 0) (x.2.tail.headD 0) = i := by
  have hk := fun k : Fin 65 => Fin.ofNat_val_eq_self k
  cases i with
  | coreAdd k rd rs | coreAddc k rd rs | coreSub k rd rs | coreSubc k rd rs | coreAnd k rd rs | coreOr k rd rs | coreXor k rd rs
  | coreMov k rd rs | coreCmp k rd rs | coreCmpc k rd rs =>
    cases h
    rw [hk]; exact coreInstr_rr k 0 (by decide) (by decide) rd rs
  | coreAddi k rd b | coreAddci k rd b | coreSubi k rd b | coreSubci k rd b | coreAndi k rd b | coreOri k rd b | coreXori k rd b
  | coreCmpi k rd b | coreMovi k rd b =>
    cases h
    rw [hk]; exact coreInstr_imm k (by decide) rd b
  | coreAddp k p b =>
    cases h
    obtain ⟨hmaj, hp, hb⟩ := fields_addp p b
    simp [coreInstr, hmaj, hp, hb]
  | coreMovip k p v =>
    cases h
    obtain ⟨hmaj, hp, _⟩ := fields_movip p
    simp [coreInstr, hmaj, hp]
  | coreShl k rd n | coreShr k rd n | coreAsr k rd n | coreRol k rd n | coreRor k rd n | coreRcl k rd n | coreRcr k rd n =>
    cases h
    rw [hk]; exact coreInstr_shift k 0 (by decide) rd n
  | coreMul k p rs signed =>
    cases h
    obtain ⟨hmaj, hp, hrs, hs, _⟩ := fields_mul p rs signed
    simp [coreInstr, hmaj, hp, hrs, hs]
  | coreLdb k r base off | coreStb k r base off | coreLdp k r base off | coreStp k r base off =>
    cases h
    rw [hk]; exact coreInstr_mem k 0 (by decide) r base off
  | coreLda k r pair a | coreSta k r pair a =>
    cases h
    rw [hk]; exact coreInstr_abs k a (by decide) r pair
  | coreBcc k cond off =>
    cases h
    rw [hk]; exact coreInstr_bcc k 0 cond off
  | coreJmp k t | coreCall k t =>
    cases h
    rw [hk]
    cases t with
    | direct a => exact coreInstr_direct k (by decide) a
    | pair p => exact coreInstr_pair k 0 (by decide) p
  | coreLoop k level n a =>
    cases h
    cases n with
    | imm n =>
      obtain ⟨hmaj, hloop, hlevel, _, himm, hn⟩ := fields_loop level n
      simp [coreInstr, encLoop, countOf, hmaj, hloop, hlevel, himm, hn]
    | pair p =>
      obtain ⟨hmaj, hloop, hlevel, _, himm, hp, _⟩ := fields_loopPair level p
      simp [coreInstr, encLoop, countOf, hmaj, hloop, hlevel, himm, hp]
  | coreTrap k code =>
    cases h
    obtain ⟨hmaj, htrap, _, hcode⟩ := fields_trap code
    simp [coreInstr, hmaj, htrap, hcode]
  | coreCsrr k r csr | coreCsrw k r csr =>
    cases h
    simp [coreInstr, fields_csr]
  | coreRet k | coreReti k | coreLpop k | coreEi k | coreDi k | coreWait k | coreBreak k | coreSync k =>
    cases h
    simp [coreInstr, major_op16, bf_op16]
  | _ => cases h

/-- Settles O54: both commands are the one that the words spell. -/
theorem coreEncodingsAreDistinct : Obligations.CoreEncodingsAreDistinct := by
  unfold Obligations.CoreEncodingsAreDistinct
  intro i j x hi hj
  rw [← coreInstr_coreWords hi, ← coreInstr_coreWords hj]

/-! ### Which words are legal -/

/-- An instruction command with an operand that R330 leaves undefined. -/
def undefinedOperand : Instr → Bool
  | .coreShl _ _ n | .coreShr _ _ n | .coreAsr _ _ n | .coreRol _ _ n | .coreRor _ _ n | .coreRcl _ _ n | .coreRcr _ _ n => decide (n = 0)
  | .coreBcc _ cond _ => decide (cond = 15)
  | .coreLda _ r pair _ | .coreSta _ r pair _ => pair && decide (r.val % 2 = 1)
  | .coreLoop _ level _ _ => decide (level = 3)
  | _ => false

/-- The undefined operands, listed. -/
theorem undefinedOperand_iff (i : Instr) : undefinedOperand i = true ↔
    (∃ (c : Fin 65) (r : Fin 32), i = .coreShl c r 0 ∨ i = .coreShr c r 0 ∨ i = .coreAsr c r 0 ∨ i = .coreRol c r 0 ∨ i = .coreRor c r 0 ∨
      i = .coreRcl c r 0 ∨ i = .coreRcr c r 0) ∨
    (∃ (c : Fin 65) (off : BitVec 8), i = .coreBcc c 15 off) ∨
    (∃ (c : Fin 65) (r : Fin 32) (a : BitVec 16), r.val % 2 = 1 ∧ (i = .coreLda c r true a ∨ i = .coreSta c r true a)) ∨
    (∃ (c : Fin 65) (n : LoopCount) (a : BitVec 16), i = .coreLoop c 3 n a) := by
  constructor
  · intro h
    cases i with
    | coreShl k r n | coreShr k r n | coreAsr k r n | coreRol k r n | coreRor k r n | coreRcl k r n | coreRcr k r n =>
      have hn : n = 0 := of_decide_eq_true h
      exact .inl ⟨k, r, by simp [hn]⟩
    | coreBcc k cond off =>
      have hc : cond = 15 := of_decide_eq_true h
      exact .inr (.inl ⟨k, off, by rw [hc]⟩)
    | coreLda k r pair a | coreSta k r pair a =>
      simp only [undefinedOperand, Bool.and_eq_true, decide_eq_true_eq] at h
      exact .inr (.inr (.inl ⟨k, r, a, h.2, by simp [h.1]⟩))
    | coreLoop k level n a =>
      have hl : level = 3 := of_decide_eq_true h
      exact .inr (.inr (.inr ⟨k, n, a, by rw [hl]⟩))
    | _ => cases h
  · rintro (⟨c, r, h⟩ | ⟨c, off, rfl⟩ | ⟨c, r, a, hr, h⟩ | ⟨c, n, a, rfl⟩)
    · rcases h with rfl | rfl | rfl | rfl | rfl | rfl | rfl <;> rfl
    · rfl
    · rcases h with rfl | rfl <;> simp [undefinedOperand, hr]
    · rfl

/-- What R330 says of the words of a command: as long as the first word says, not 0, and illegal just for an undefined operand. -/
def WordsFit (i : Instr) (l : List (BitVec 16)) : Prop :=
  lengthOf (l.headD 0) = 2 * l.length ∧ 1 ≤ major (l.headD 0) ∧ illegalWord (l.headD 0) (l.tail.headD 0) = undefinedOperand i

section
variable (i : Instr) (hi : undefinedOperand i = false)
include hi

theorem wordsFit_rr {m b : Nat} (hm : 1 ≤ m ∧ m ≤ 5) (hb : b < 2) (rd rs : Fin 32) : WordsFit i (encRR m b rd rs) := by
  obtain ⟨hmaj, _⟩ := fields_rr (show m < 32 by omega) hb rd rs
  have hcases : m = 1 ∨ m = 2 ∨ m = 3 ∨ m = 4 ∨ m = 5 := by omega
  rcases hcases with rfl | rfl | rfl | rfl | rfl <;> simp [WordsFit, encRR, lengthOf, hasExt, illegalWord, hmaj, hi]

theorem wordsFit_imm {op : Nat} (h : op < 9) (rd : Fin 32) (b : Byte) : WordsFit i (encImm op rd b) := by
  obtain ⟨hmaj, _, hop, hzero, hb, _⟩ := fields_imm (show op < 16 by omega) rd b
  have hop8 : ¬ 8 < op := by omega
  simp only [WordsFit, encImm, List.headD_cons, List.tail_cons, lengthOf, hasExt, illegalWord, hmaj, hop, hzero, hb, hi, hop8]
  simp

theorem wordsFit_mem {m : Nat} (hm : 11 ≤ m ∧ m ≤ 14) (r : Fin 16) (base : Fin 4) (off : Fin 32) : WordsFit i (encMem m r base off) := by
  obtain ⟨hmaj, _⟩ := fields_mem (show m < 32 by omega) r base off
  have hcases : m = 11 ∨ m = 12 ∨ m = 13 ∨ m = 14 := by omega
  rcases hcases with rfl | rfl | rfl | rfl <;> simp [WordsFit, encMem, lengthOf, hasExt, illegalWord, hmaj, hi]

theorem wordsFit_target {call : Nat} (h : call < 2) (t : CoreTarget) : WordsFit i (encTarget call t) := by
  cases t with
  | direct a =>
    obtain ⟨hmaj, _, hdir, hzero, hlow⟩ := fields_direct h
    simp [WordsFit, encTarget, lengthOf, hasExt, illegalWord, hmaj, hdir, hzero, hlow, hi]
  | pair p =>
    obtain ⟨hmaj, _, hdir, _, hlow⟩ := fields_pair h p
    simp [WordsFit, encTarget, lengthOf, hasExt, illegalWord, hmaj, hdir, hlow, hi]

end

section
variable (i : Instr)

theorem wordsFit_shift {op : Nat} (h : op < 7) (rd : Fin 32) (n : Fin 8) (hi : undefinedOperand i = decide (n = 0)) :
    WordsFit i (encShift op rd n) := by
  obtain ⟨hmaj, _, hop, _, hn⟩ := fields_shift (show op < 8 by omega) rd n
  have hop7 : op ≠ 7 := by omega
  have hzero : n.val = 0 ↔ n = 0 := by omega
  simp only [WordsFit, encShift, List.headD_cons, lengthOf, hasExt, illegalWord, hmaj, hop, hn, hi, hop7, hzero]
  simp

theorem wordsFit_abs {st : Nat} (h : st < 2) (r : Fin 32) (pair : Bool) (a : BitVec 16)
    (hi : undefinedOperand i = (pair && decide (r.val % 2 = 1))) : WordsFit i (encAbs st r pair a) := by
  obtain ⟨hmaj, _, _, hpair, hlow, hodd⟩ := fields_abs h r pair
  simp [WordsFit, encAbs, lengthOf, hasExt, illegalWord, hmaj, hpair, hlow, hodd, hi]

end

/-- The words of an instruction command are as R330 has them. -/
theorem wordsFit_coreWords {i : Instr} {x : Nat × List (BitVec 16)} (h : coreWords i = some x) : WordsFit i x.2 := by
  cases i with
  | coreAdd k rd rs | coreAddc k rd rs | coreSub k rd rs | coreSubc k rd rs | coreAnd k rd rs | coreOr k rd rs | coreXor k rd rs
  | coreMov k rd rs | coreCmp k rd rs | coreCmpc k rd rs =>
    cases h
    exact wordsFit_rr _ rfl (by decide) (by decide) rd rs
  | coreAddi k rd b | coreAddci k rd b | coreSubi k rd b | coreSubci k rd b | coreAndi k rd b | coreOri k rd b | coreXori k rd b
  | coreCmpi k rd b | coreMovi k rd b =>
    cases h
    exact wordsFit_imm _ rfl (by decide) rd b
  | coreAddp k p b =>
    cases h
    simp [WordsFit, lengthOf, hasExt, illegalWord, fields_addp, undefinedOperand]
  | coreMovip k p v =>
    cases h
    simp [WordsFit, lengthOf, hasExt, illegalWord, fields_movip, undefinedOperand]
  | coreShl k rd n | coreShr k rd n | coreAsr k rd n | coreRol k rd n | coreRor k rd n | coreRcl k rd n | coreRcr k rd n =>
    cases h
    exact wordsFit_shift _ (by decide) rd n rfl
  | coreMul k p rs signed =>
    cases h
    simp [WordsFit, lengthOf, hasExt, illegalWord, fields_mul, undefinedOperand]
  | coreLdb k r base off | coreStb k r base off | coreLdp k r base off | coreStp k r base off =>
    cases h
    exact wordsFit_mem _ rfl (by decide) r base off
  | coreLda k r pair a | coreSta k r pair a =>
    cases h
    exact wordsFit_abs _ (by decide) r pair a rfl
  | coreBcc k cond off =>
    cases h
    obtain ⟨hmaj, _, hlow, _⟩ := fields_bcc cond off
    rw [WordsFit, encBcc]
    by_cases hc : cond.val < 8
    · have hne : cond ≠ 15 := by omega
      rw [show cond.val / 8 = 0 by omega] at hmaj ⊢
      simp [lengthOf, hasExt, illegalWord, hmaj, hne, undefinedOperand]
    · have hiff : cond.val % 8 = 7 ↔ cond = 15 := by omega
      rw [show cond.val / 8 = 1 by omega] at hmaj hlow ⊢
      simp [lengthOf, hasExt, illegalWord, hmaj, hlow, hiff, undefinedOperand]
  | coreJmp k t | coreCall k t =>
    cases h
    exact wordsFit_target _ rfl (by decide) t
  | coreLoop k level n a =>
    cases h
    have hl : level.val = 3 ↔ level = 3 := by omega
    cases n with
    | imm n =>
      obtain ⟨hmaj, hloop, _, hlevel, himm, _⟩ := fields_loop level n
      simp [WordsFit, encLoop, lengthOf, hasExt, illegalWord, hmaj, hloop, hlevel, himm, hl, undefinedOperand]
    | pair p =>
      obtain ⟨hmaj, hloop, _, hlevel, _, _, hzero⟩ := fields_loopPair level p
      simp [WordsFit, encLoop, lengthOf, hasExt, illegalWord, hmaj, hloop, hlevel, hzero, hl, undefinedOperand]
  | coreTrap k code =>
    cases h
    simp [WordsFit, lengthOf, hasExt, illegalWord, fields_trap, undefinedOperand]
  | coreCsrr k r csr | coreCsrw k r csr =>
    cases h
    simp [WordsFit, lengthOf, hasExt, illegalWord, fields_csr, undefinedOperand]
  | coreRet k | coreReti k | coreLpop k | coreEi k | coreDi k | coreWait k | coreBreak k | coreSync k =>
    cases h
    simp [WordsFit, lengthOf, hasExt, illegalWord, major_op16, bf_op16, undefinedOperand]
  | _ => cases h

/-- Settles O55: the words of each form, field by field. -/
theorem coreWordsAreLegal : Obligations.CoreWordsAreLegal := by
  unfold Obligations.CoreWordsAreLegal
  rintro i k w e l h rfl
  obtain ⟨hlen, hmaj, hill⟩ := wordsFit_coreWords h
  refine ⟨?_, ?_, ?_⟩
  · rw [Nat.add_comm]
    exact hlen
  · intro hw
    have hzero : major w = 0 := by unfold major bf; simp [hw]
    exact absurd hmaj (by rw [List.headD_cons, hzero]; decide)
  · rw [← undefinedOperand_iff, ← hill]
    rfl

end Sys2Proof.Machine
end

section
/-!
PROOFS about time and energy (chapter 02): the wake list (R51, R52, R54), saturating counters (R75, R78), the PTM discipline of the pacer
(R48, R49, R527), and the ledger with its governor (R57-R74, R562).
-/

namespace Sys2Proof.Machine

/-! ### The order of the wake list (R51) -/

/-- Where an entry is placed: behind every entry of an equal or earlier target, before every later one. -/
theorem wlPlace_splits (e : WlEntry) (l : List WlEntry) (h : l.Pairwise fun a b => a.target.toNat ≤ b.target.toNat) :
    ∃ xs ys, l = xs ++ ys ∧ wlPlace e l = xs ++ e :: ys ∧ (∀ x ∈ xs, x.target.toNat ≤ e.target.toNat) ∧
      ∀ y ∈ ys, e.target.toNat < y.target.toNat := by
  induction l with
  | nil => exact ⟨[], [], rfl, rfl, by simp, by simp⟩
  | cons x l ih =>
    obtain ⟨hx, hl⟩ := List.pairwise_cons.mp h
    unfold wlPlace
    split
    · rename_i hlt
      refine ⟨[], x :: l, rfl, rfl, by simp, fun y hy => ?_⟩
      rcases List.mem_cons.mp hy with rfl | hy
      · exact hlt
      · exact Nat.lt_of_lt_of_le hlt (hx y hy)
    · rename_i hle
      obtain ⟨xs, ys, hsplit, hplace, hbefore, hbehind⟩ := ih hl
      refine ⟨x :: xs, ys, by rw [hsplit]; rfl, by rw [hplace]; rfl, fun y hy => ?_, hbehind⟩
      rcases List.mem_cons.mp hy with rfl | hy
      · exact Nat.le_of_not_lt hle
      · exact hbefore y hy

/-- Settles O13: the list around the entry is in order as before, and the entry is between. -/
theorem wakeListKeepsItsOrder : Obligations.WakeListKeepsItsOrder := by
  unfold Obligations.WakeListKeepsItsOrder
  intro e l h
  obtain ⟨xs, ys, rfl, hplace, hbefore, hbehind⟩ := wlPlace_splits e l h
  refine ⟨?_, xs, ys, rfl, hplace, hbefore, hbehind⟩
  obtain ⟨hxs, hys, hcross⟩ := List.pairwise_append.mp h
  rw [hplace, List.pairwise_append, List.pairwise_cons]
  refine ⟨hxs, ⟨fun y hy => Nat.le_of_lt (hbehind y hy), hys⟩, fun x hx y hy => ?_⟩
  rcases List.mem_cons.mp hy with rfl | hy
  · exact hbefore x hx
  · exact hcross x hx y hy

/-! ### An expiry (R52, R54) -/

/-- What the owner of an expired entry is told. -/
def Dev.tellOwner (d : Dev) (w : WlEntry) : Dev :=
  match w.kind with
  | .subch => d.subExpiry w.id
  | .core => d.coreFire w.id
  | .ktimer => d.ktFire w.id

/-- An entry whose owner's domain sleeps stays, and the domain begins its exit. -/
theorem wlExpire_asleep {d : Dev} {w : WlEntry} {k : Nat} (hk : w.dom = some k) (hs : (d.dom k).asleep = true) :
    d.wlExpire w = d.startExit k false (some w.target) := by
  unfold Dev.wlExpire
  rw [hk]
  simp [hs]

/-- Any other is removed, and its owner told. -/
theorem wlExpire_awake {d : Dev} {w : WlEntry} (hs : w.dom.any (fun k => (d.dom k).asleep) = false) :
    d.wlExpire w = (d.wlRemove (wlTag d.coreTag w.kind w.id) w.kind w.id).tellOwner w := by
  unfold Dev.wlExpire
  simp only [hs]
  rfl

/-- The removal of an owner that has an entry. -/
theorem wlRemove_of_mem {d : Dev} {w : WlEntry} (h : w ∈ d.wl) (tag : Nat) :
    d.wlRemove tag w.kind w.id = ({ d with wl := d.wl.filter fun x => !(x.kind = w.kind && x.id = w.id) }).count 0 3 tag 1 := by
  have hany : d.wl.any (wlMine w.kind w.id) = true := List.any_eq_true.mpr ⟨w, h, by simp [wlMine]⟩
  unfold Dev.wlRemove
  rw [if_pos hany]
  rfl

/-- An expiry with just one entry reached is that entry's. -/
theorem wakeListExpiry_of_single {d : Dev} {c : Counts} {w : WlEntry} (h : (d.atCounts c).wlDue.1 = [w]) :
    w ∈ (d.atCounts c).wl ∧ d.wakeListExpiry c = (d.atCounts c).wlExpire w := by
  have hmem : w ∈ (d.atCounts c).wl := by
    have : w ∈ (d.atCounts c).wlDue.1 := by rw [h]; exact List.mem_singleton_self w
    exact (List.mem_filter.mp this).1
  refine ⟨hmem, ?_⟩
  have hfold : d.wakeListExpiry c = [w].foldl (fun d e => if d.wl.contains e then d.wlExpire e else d) (d.atCounts c) := by rw [← h]; rfl
  rw [hfold, List.foldl_cons, List.foldl_nil, if_pos (List.contains_iff_mem.mpr hmem)]

/-- WAKE_LIST_EXPIRY is the list's expiry. -/
theorem exec_wakeListExpiry (c : Counts) (s : State) : exec (.wakeListExpiry c) s = s.run fun d => d.wakeListExpiry c := rfl

/-- Settles O12: nothing reached, one entry of an owner awake, or one of an owner asleep. -/
theorem wakeListExpiryServesItsEntry : Obligations.WakeListExpiryServesItsEntry := by
  unfold Obligations.WakeListExpiryServesItsEntry
  rintro s c d rfl
  refine ⟨fun hnone => ?_, ?_, ?_⟩
  · refine runs_of_run (exec_wakeListExpiry c s) ?_
    have hfold : s.dev.wakeListExpiry c =
      (s.dev.atCounts c).wlDue.1.foldl (fun d e => if d.wl.contains e then d.wlExpire e else d) (s.dev.atCounts c) := rfl
    rw [hfold, hnone]
    rfl
  · rintro w hdue hawake e rfl
    obtain ⟨hmem, hexp⟩ := wakeListExpiry_of_single hdue
    refine runs_of_run (exec_wakeListExpiry c s) ?_
    rw [hexp, wlExpire_awake hawake, wlRemove_of_mem hmem]
    rfl
  · intro w k hdue hk hasleep
    obtain ⟨_, hexp⟩ := wakeListExpiry_of_single hdue
    exact runs_of_run (exec_wakeListExpiry c s) (hexp.trans (wlExpire_asleep hk hasleep))

/-! ### Saturating counters (R75, R78) -/

/-- A set changes what no other key reads as, whatever that key's own default. -/
theorem smGet_smSet_other {α : Type} [DecidableEq α] {m : SMap α} {o : Option Nat} (h : smSorted o m = true) {j k : Nat} (v d d' : α)
    (hj : j ≠ k) : smGet (smSet m k v d) j d' = smGet m j d' := by
  unfold smGet smSet
  split
  · rw [smFind_smErase h, if_neg hj]
  · rw [smFind_smPut_other m v hj]

/-- A set keeps a map sorted. -/
theorem smSorted_smSet {α : Type} [DecidableEq α] {m : SMap α} (h : smSorted none m = true) (k : Nat) (v d : α) :
    smSorted none (smSet m k v d) = true := by
  unfold smSet
  split
  · exact smSorted_smErase h
  · exact smSorted_smPut h (by simp)

/-- A register that is set reads back. -/
theorem reg_setReg_same {d : Dev} (h : smSorted none d.regs = true) (p o : Nat) (v : Word) : (d.setReg p o v).reg p o = v := by
  unfold Dev.reg Dev.setReg
  dsimp only
  rw [smGet_smSet h, if_pos rfl]

/-- Every other reads as before. -/
theorem reg_setReg_other {d : Dev} (h : smSorted none d.regs = true) {p o q x : Nat} (v : Word) (hne : rk q x ≠ rk p o) :
    (d.setReg p o v).reg q x = d.reg q x := smGet_smSet_other h _ _ _ hne

/-- A field of one bit that is set is the word with that bit. -/
theorem withFld_one (w : Word) (i : Nat) : withFld w i 1 1 = w ||| BitVec.ofNat 32 (2 ^ i) := by
  have hfield : withFld w i 1 1 = w &&& ~~~BitVec.ofNat 32 (2 ^ i) ||| BitVec.ofNat 32 (2 ^ i) := by simp [withFld]
  rw [hfield]
  ext j hj
  simp only [BitVec.getElem_or, BitVec.getElem_and, BitVec.getElem_not]
  cases w[j] <;> cases (BitVec.ofNat 32 (2 ^ i))[j] <;> rfl

/-- Settles O57: the counter's own write, and the write of its SAT bit where that step reaches the maximum. -/
theorem countersSaturate : Obligations.CountersSaturate := by
  unfold Obligations.CountersSaturate
  intro d p o n so sb hs hn _ hne
  have hv : (w32 (min ((d.reg p o).toNat + n) m32)).toNat = min ((d.reg p o).toNat + n) 0xFFFFFFFF := by
    have hm : m32 = 0xFFFFFFFF := rfl
    unfold w32
    rw [BitVec.toNat_ofNat, Nat.mod_eq_of_lt (by omega), hm]
  have hs' : smSorted none (d.setReg p o (w32 (min ((d.reg p o).toNat + n) m32))).regs = true := smSorted_smSet hs _ _ _
  have hread := reg_setReg_same hs p o (w32 (min ((d.reg p o).toNat + n) m32))
  have hother : ∀ q x, rk q x ≠ rk p o → (d.setReg p o (w32 (min ((d.reg p o).toNat + n) m32))).reg q x = d.reg q x :=
    fun q x hq => reg_setReg_other hs _ hq
  unfold Dev.bump
  dsimp only
  by_cases hmax : 0xFFFFFFFF ≤ (d.reg p o).toNat + n
  · rw [if_pos ⟨hn, hmax⟩]
    unfold Dev.setRf
    refine ⟨?_, fun _ => ?_, fun hlt => absurd hmax (by omega), fun q x hq hq' => ?_⟩
    · rw [reg_setReg_other hs' _ (Ne.symm hne), hread, hv]
    · rw [reg_setReg_same hs', withFld_one, hother p so hne]
    · rw [reg_setReg_other hs' _ hq', hother q x hq]
  · rw [if_neg (fun h => hmax h.2)]
    exact ⟨by rw [hread, hv], fun h => absurd h hmax, fun _ => hother p so hne, fun q x hq _ => hother q x hq⟩

/-! ### PTM (R48, R49, R527) -/

/-- A dialogue that starts with the upstream link in L0 leaves the link as it is. -/
theorem ptmStart_starts {d : Dev} (hsrc : d.src_ = 3) (hen : d.rb pgPCR 0x040 2 = true) (hcap : bitAt (d.cfgHeld cfEp 0x56) 0 = true)
    (hhost : d.awakeHost = true) (hlink : d.linkActive 6 = true) (hbusy : d.pacer.ptmBusy = false) (hpm : d.pmState 6 = 0) :
    d.ptmStart = { d with pacer := { d.pacer with ptmBusy := true } } := by
  have hwake : d.linkWake 6 = d := by
    unfold Dev.linkWake
    exact if_neg fun h => h.2 hpm
  unfold Dev.ptmStart
  rw [if_pos ⟨hsrc, hen, hcap, hhost, hlink, by rw [hbusy]; rfl⟩, hwake]

/-- A dialogue whose round trip is too long is counted and dropped. -/
theorem ptmComplete_tooLong {d : Dev} (ns : BitVec 64) (dd : DT) {rtt : DT} (hbusy : d.pacer.ptmBusy = true)
    (hrtt : d.rf pgPCR 0x060 16 16 * 2 ^ 8 < rtt.toNat) :
    d.ptmComplete ns dd rtt = ({ d with pacer := { d.pacer with ptmBusy := false } }).bump pgPCR 0x064 1 0x084 0 := by
  unfold Dev.ptmComplete
  rw [if_pos hbusy]
  exact if_pos hrtt

/-- Any other is an accepted pair. -/
theorem ptmComplete_accepted {d : Dev} (ns : BitVec 64) (dd : DT) {rtt : DT} (hbusy : d.pacer.ptmBusy = true)
    (hrtt : rtt.toNat ≤ d.rf pgPCR 0x060 16 16 * 2 ^ 8) :
    d.ptmComplete ns dd rtt = ({ d with pacer := { d.pacer with ptmBusy := false } }).ptmPair (hostDT ns) dd := by
  unfold Dev.ptmComplete
  rw [if_pos hbusy]
  exact if_neg (Nat.not_lt.mpr hrtt)

/-- The first pair sets the offset. -/
theorem ptmPair_first {d : Dev} (h dd : DT) (hf : d.pacer.ptmFirst = true) :
    d.ptmPair h dd = { d with pacer := { d.pacer with hostOfs := h - dd, ptmFirst := false, ptmPrevD := dd, ptmValid := true } } := by
  unfold Dev.ptmPair
  exact if_pos hf

/-- A later one, at another device time than the one before it, moves the offset and the rate. -/
theorem ptmPair_later (d : Dev) {p : Pacer} (h dd : DT) (hf : p.ptmFirst = false) (hdelta : (dd - p.ptmPrevD).toInt ≠ 0) :
    ({ d with pacer := p } : Dev).ptmPair h dd = ({ d with pacer := { p with
        hostOfs := p.hostOfs + (h - (dd + p.hostOfs)), ptmPrevD := dd, ptmValid := true } }).setReg pgPCR 0x050
      (BitVec.ofInt 32 (clampRate (d.rateAdj + Int.tdiv ((h - (dd + p.hostOfs)).toInt * 2 ^ 39) (dd - p.ptmPrevD).toInt))) := by
  unfold Dev.ptmPair
  simp only [hf, hdelta, if_false]
  rfl

/-- Settles O8: the start of a dialogue, its three ends, and the lapse. -/
theorem ptmDisciplinesThePacer : Obligations.PtmDisciplinesThePacer := by
  unfold Obligations.PtmDisciplinesThePacer
  intro s ns dd rtt
  have hcomplete : exec (.ptmDialogueComplete ns dd rtt) s = s.run fun d => d.ptmComplete ns dd rtt := rfl
  refine ⟨fun hsrc hen hcap hhost hlink hbusy hpm => ?_, fun hbusy hrtt => ?_, fun hbusy hrtt hf => ?_, fun hbusy hrtt hf hdelta => ?_,
    fun hvalid => ?_⟩
  · exact runs_of_run (f := Dev.ptmStart) rfl (ptmStart_starts hsrc hen hcap hhost hlink hbusy hpm)
  · exact runs_of_run hcomplete (ptmComplete_tooLong ns dd hbusy hrtt)
  · exact runs_of_run hcomplete ((ptmComplete_accepted ns dd hbusy hrtt).trans (ptmPair_first _ dd hf))
  · exact runs_of_run hcomplete ((ptmComplete_accepted ns dd hbusy hrtt).trans (ptmPair_later s.dev _ dd hf hdelta))
  · exact runs_of_run (f := Dev.ptmLapse) rfl (if_pos hvalid)

/-! ### The ledger (R57-R67, R562) -/

/-- What a charge notes for the calibration and the governor leaves what is pending. -/
theorem noteRegion_pend (d : Dev) (r x raw : Nat) : (d.noteRegion r x raw).ledger.pend = d.ledger.pend := by
  unfold Dev.noteRegion
  split <;> rfl

/-- So does the charge itself. -/
theorem charge_pend (d : Dev) (tag x : Nat) : (d.charge tag x).ledger.pend = d.ledger.pend := rfl

/-- And a direct charge of a region. -/
theorem chargeRegion_pend (d : Dev) (r tag x : Nat) : (d.chargeRegion r tag x).ledger.pend = d.ledger.pend := by
  unfold Dev.chargeRegion
  split
  · rw [noteRegion_pend, charge_pend]
  · rfl

/-- So does the fold of one entry. -/
theorem foldEntry_pend (d : Dev) (e : Nat × Nat) : (d.foldEntry e).ledger.pend = d.ledger.pend := by
  unfold Dev.foldEntry
  dsimp only
  rw [noteRegion_pend, charge_pend]

/-- A fold of everything leaves nothing pending. -/
theorem foldAll_pend (d : Dev) : d.foldAll.ledger.pend = [] := by
  have hdrop : d.ledger.pend.filter (fun e => !(fun _ => true) e.1) = [] := by simp
  unfold Dev.foldAll Dev.foldWhere
  dsimp only
  split
  · rw [foldl_keep (fun d => d.ledger.pend) foldEntry_pend]
    exact hdrop
  · exact hdrop

theorem regionFold_pend (d : Dev) : d.regionFold.ledger.pend = [] := by
  unfold Dev.regionFold
  rw [foldl_keep (fun d => d.ledger.pend) fun d r => chargeRegion_pend d r _ _]
  exact foldAll_pend d

/-- With EN 0 nothing is counted. -/
theorem count_off {d : Dev} (h : d.ledgerOn = false) (r k tag n : Nat) : d.count r k tag n = d := by
  unfold Dev.count
  rw [if_neg (by rw [h]; decide)]

/-- With EN 0 nothing is charged: EN and the accumulators stay. -/
theorem countTimed_off {d : Dev} (h : d.ledgerOn = false) : d.countTimed.ledgerOn = false ∧ d.countTimed.ledger.acc = d.ledger.acc := by
  suffices hfold : ∀ (l : List (Nat × Nat)) (e : Dev), e.ledgerOn = false → e.ledger.acc = d.ledger.acc →
      (l.foldl (fun d e => let f := d.free; f.2.count e.1 e.2 tagOwn (fld f.1 0 32)) e).ledgerOn = false ∧
      (l.foldl (fun d e => let f := d.free; f.2.count e.1 e.2 tagOwn (fld f.1 0 32)) e).ledger.acc = d.ledger.acc from hfold _ d h rfl
  intro l
  induction l with
  | nil => exact fun e he hacc => ⟨he, hacc⟩
  | cons x l ih =>
    intro e he hacc
    rw [List.foldl_cons]
    refine ih _ ?_ ?_
    · dsimp only
      rw [count_off (d := e.free.2) he]
      exact he
    · dsimp only
      rw [count_off (d := e.free.2) he]
      exact hacc

theorem regionFold_acc_off {d : Dev} (h : d.ledgerOn = false) : d.regionFold.ledger.acc = d.ledger.acc := by
  have hall : d.foldAll.ledgerOn = false ∧ d.foldAll.ledger.acc = d.ledger.acc := by
    unfold Dev.foldAll Dev.foldWhere
    dsimp only
    split
    · rename_i hon
      exact absurd (h.symm.trans hon) (by decide)
    · exact ⟨h, rfl⟩
  unfold Dev.regionFold
  generalize d.foldAll = e at hall ⊢
  suffices hfold : ∀ l : List Nat, l.foldl (fun d r => d.chargeRegion r (regionTag r) (d.leakFold r)) e = e by
    rw [hfold]; exact hall.2
  intro l
  induction l with
  | nil => rfl
  | cons r l ih =>
    rw [List.foldl_cons, show e.chargeRegion r (regionTag r) (e.leakFold r) = e from if_neg (by rw [hall.1]; decide)]
    exact ih

/-- A shunt sample, field by field. -/
theorem shuntSample_eq (d : Dev) (code : BitVec 12) : d.shuntSample code = { d with ledger := { d.ledger with
    clipSec := d.ledger.clipSec || decide (code = 4095)
    vcode := if d.pacer.trust = .untrusted then d.ledger.vcode else d.ledger.vcode + d.pmic.now * 25 / 2 * code.toNat
    untrSec := d.ledger.untrSec || decide (d.pacer.trust = .untrusted) } } := by
  unfold Dev.shuntSample
  by_cases hc : code = 4095
  · rw [decide_eq_true hc, Bool.or_true]
    simp only [if_pos hc]
  · rw [decide_eq_false hc, Bool.or_false]
    simp only [if_neg hc]

/-! ### The end of a second (R66, R67, R562) -/

/-- A second that EN was not 1 throughout is neither judged nor skipped. -/
theorem calibrate_notWhole {d e : Dev} (he : e = d.foldAll) (h : e.ledgerOn = false ∨ e.ledger.secWhole = false) :
    d.calibrate = e.newSecond := by
  have hcond : (!e.ledgerOn) = true ∨ (!e.ledger.secWhole) = true := by simpa using h
  unfold Dev.calibrate Dev.calSecond
  simp only [← he, if_pos hcond]

/-- Any other second is skipped where its charge is low, a code was at full scale, CAL_EN is 0 or the pacer was UNTRUSTED. -/
theorem calibrate_skipped {d e f : Dev} (he : e = d.foldAll) (hon : e.ledgerOn = true) (hwhole : e.ledger.secWhole = true)
    (hf : f = if e.ledger.clipSec then e.setRf pgLDG 0x060 17 1 1 else e)
    (h : e.eRaw < e.rf pgLDG 0x068 0 16 * 1000000 ∨ e.ledger.clipSec = true ∨ f.rb pgLDG 0x040 1 = false ∨ e.ledger.untrSec = true) :
    d.calibrate = (f.bump pgLDG 0x080 1 0x084 1).newSecond := by
  have hcond : ¬ ((!e.ledgerOn) = true ∨ (!e.ledger.secWhole) = true) := by simp [hon, hwhole]
  have huntr : f.ledger.untrSec = e.ledger.untrSec := by
    rw [hf]
    split <;> rfl
  have hskip : (decide (e.eRaw < e.rf pgLDG 0x068 0 16 * 1000000) || e.ledger.clipSec || !f.rb pgLDG 0x040 1 || f.ledger.untrSec) = true := by
    rw [huntr]
    simpa [or_assoc] using h
  unfold Dev.calibrate Dev.calSecond
  simp only [← he, if_neg hcond, ← hf, if_pos hskip]

/-- One that is not skipped updates the gain. -/
theorem calibrate_judged {d e : Dev} (he : e = d.foldAll) (hon : e.ledgerOn = true) (hwhole : e.ledger.secWhole = true)
    (hlow : e.rf pgLDG 0x068 0 16 * 1000000 ≤ e.eRaw) (hclip : e.ledger.clipSec = false) (hcal : e.rb pgLDG 0x040 1 = true)
    (huntr : e.ledger.untrSec = false) :
    d.calibrate = match e.calUpdate.2 with
      | some g => e.calUpdate.1.newSecond.raiseFault { kind := 14, page := pgLDG, source := 0, info := w32 g, unit := none }
      | none => e.calUpdate.1.newSecond := by
  have hcond : ¬ ((!e.ledgerOn) = true ∨ (!e.ledger.secWhole) = true) := by simp [hon, hwhole]
  have hjudged : ¬ (decide (e.eRaw < e.rf pgLDG 0x068 0 16 * 1000000) || false || !e.rb pgLDG 0x040 1 || e.ledger.untrSec) = true := by
    simp [hcal, huntr, hlow]
  have hsecond : d.calSecond = (e.calUpdate.1.newSecond, e.calUpdate.2) := by
    unfold Dev.calSecond
    simp only [← he, if_neg hcond, hclip, Bool.false_eq_true, if_false, if_neg hjudged]
  unfold Dev.calibrate
  rw [hsecond]
  cases e.calUpdate.2 <;> rfl

/-- The update sets S and G, clamped, and g_meas; a sum outside the range is answered as a fault. -/
theorem calUpdate_eq {e : Dev} (hraw : 0 < e.eRaw) {gm x y : Nat} (hgm : gm = (e.eMeas * 2 ^ 14 + e.eRaw / 2) / e.eRaw)
    (hx : x = e.ledger.s.toNat + gm - e.ledger.s.toNat / 16) (hy : y = min (max x 0x30000) 0x5000F) {h : Dev}
    (hh : h = ({ e with ledger := { e.ledger with s := BitVec.ofNat 20 y, g := BitVec.ofNat 16 (y / 16) } }).setRf pgLDG 0x060 0 16 gm) :
    e.calUpdate = if x = y then (h, none) else ((h.setRf pgLDG 0x060 16 1 1).bump pgLDG 0x07C 1 0x084 0, some gm) := by
  have hbad : (x < 0x3000 * 16 ∨ x > 0x5000 * 16 + 15) ↔ ¬ x = y := by omega
  unfold Dev.calUpdate
  dsimp only
  rw [if_neg (Nat.ne_of_gt hraw), ← hgm, ← hx, show min (max x (0x3000 * 16)) (0x5000 * 16 + 15) = y from hy.symm, ← hh]
  by_cases hxy : x = y
  · rw [if_neg (fun hb => hbad.mp hb hxy), if_pos hxy]
  · rw [if_pos (hbad.mpr hxy), if_neg hxy]

/-! ### The governor (R70, R72) -/

/-- What a tick leaves alone beside its own figures. -/
def Dev.besideTick (d : Dev) :=
  (d.mem, d.scbs, d.pacer, d.gov.hist, d.gov.lastPkg)

/-- The charges that the governor watches are beside the figures of its ticks. -/
theorem foldEntry_besideTick (d : Dev) (e : Nat × Nat) : (d.foldEntry e).besideTick = d.besideTick := by
  have hnote : ∀ (d : Dev) (r x y : Nat), (d.noteRegion r x y).besideTick = d.besideTick := by
    intro d r x y
    unfold Dev.noteRegion
    split <;> rfl
  have hcharge : ∀ (d : Dev) (t x : Nat), (d.charge t x).besideTick = d.besideTick := fun _ _ _ => rfl
  unfold Dev.foldEntry
  dsimp only
  rw [hnote, hcharge]

theorem foldAll_besideTick (d : Dev) : d.foldAll.besideTick = d.besideTick := by
  unfold Dev.foldAll Dev.foldWhere
  dsimp only
  split
  · rw [foldl_keep Dev.besideTick foldEntry_besideTick]
    rfl
  · rfl

theorem setRegion_besideTick (d : Dev) (r : Nat) (v : Region) : (d.setRegion r v).besideTick = d.besideTick := rfl

theorem setVolts_besideTick (d : Dev) : d.setVolts.besideTick = d.besideTick := by
  have hregs : ∀ (d : Dev) (v : Word) (p : Prop) [Decidable p], (if p then d.setReg pgBRG 0x048 v else d).besideTick = d.besideTick := by
    intro d v p _
    split <;> rfl
  unfold Dev.setVolts
  split
  · rfl
  · dsimp only
    rw [hregs, foldl_keep Dev.besideTick ?_, foldAll_besideTick]
    intro d r
    split
    · rfl
    · exact setRegion_besideTick ..

theorem voltages_besideTick (d : Dev) : d.voltages.besideTick = d.besideTick := by
  unfold Dev.voltages
  rw [setVolts_besideTick]
  split <;> rfl

theorem setFloors_besideTick (d : Dev) : d.setFloors.besideTick = d.besideTick :=
  foldl_keep Dev.besideTick (fun _ _ => setRegion_besideTick ..) _ d

theorem residency_besideTick (d : Dev) : d.residency.besideTick = d.besideTick :=
  foldl_keep Dev.besideTick (fun d r => by rw [bump_eq]; rfl) _ d

theorem govStep_besideTick (d : Dev) (a r : Bool) : (d.govStep a r).besideTick = d.besideTick := by
  unfold Dev.govStep
  split
  · split
    · exact setRegion_besideTick ..
    · rfl
  · split
    · split
      · exact setRegion_besideTick ..
      · rfl
    · rfl

/-- The device after a tick's figure has been taken. -/
def Dev.tickTaken (d : Dev) : Dev := { d with gov := { d.gov with
  hist := (min ((d.ledger.pkgAcc - d.gov.lastPkg).toNat / 256000) 65535 :: d.gov.hist).take 4095, lastPkg := d.ledger.pkgAcc } }

/-- Beside its figure a tick changes nothing of what it leaves alone, and the shares of the next tick begin at nothing. -/
theorem governorTick_besideTick (d : Dev) :
    d.governorTick.besideTick = d.tickTaken.besideTick ∧ d.governorTick.gov.tickCharge = [] := by
  have hlast : ∀ (d e : Dev) (b : Bool) (hit : Bool), e = { d with gov := { d.gov with tickCharge := [], ceilBit := b } } →
      (if hit then e.bump pgLDG 0x078 1 0x084 2 else e).besideTick = d.besideTick ∧
      (if hit then e.bump pgLDG 0x078 1 0x084 2 else e).gov.tickCharge = [] := by
    rintro d e b hit rfl
    split
    · rw [bump_eq]
      exact ⟨rfl, rfl⟩
    · exact ⟨rfl, rfl⟩
  have hreg : ∀ (d : Dev) (v : Word), (d.setReg pgLDG 0x074 v).besideTick = d.besideTick := fun _ _ => rfl
  unfold Dev.governorTick
  dsimp only
  obtain ⟨hbeside, hshares⟩ := hlast _ _ _ _ rfl
  refine ⟨hbeside.trans ?_, hshares⟩
  rw [voltages_besideTick, govStep_besideTick, hreg, residency_besideTick, setFloors_besideTick]
  rfl

/-- Settles O14: the fold, a sample, the ends of a second, and a tick. -/
theorem ledgerCommandsComplete : Obligations.LedgerCommandsComplete := by
  unfold Obligations.LedgerCommandsComplete
  intro s code
  refine ⟨runs_of_run (f := Dev.ledgerFold) rfl rfl, regionFold_pend _, fun hoff => ?_, ?_, ?_, ?_⟩
  · obtain ⟨hoff', hacc⟩ := countTimed_off hoff
    rw [regionFold_acc_off hoff', hacc]
  · exact runs_of_run (f := fun d => d.shuntSample code) rfl (shuntSample_eq s.dev code)
  · intro e he
    have hcal : exec .calibrationSecond s = s.run Dev.calibrate := rfl
    refine ⟨fun h => runs_of_run hcal (calibrate_notWhole he h), fun hon hwhole f hf => ⟨fun h => ?_, ?_⟩⟩
    · exact runs_of_run hcal (calibrate_skipped he hon hwhole hf h)
    · intro hlow hclip hen huntr hraw gm x y hgm hx hy h hh
      have hjudged := calibrate_judged he hon hwhole hlow hclip hen huntr
      rw [calUpdate_eq hraw hgm hx hy hh] at hjudged
      refine ⟨fun hxy => runs_of_run hcal ?_, fun hxy => runs_of_run hcal ?_⟩
      · rw [hjudged, if_pos hxy]
      · rw [hjudged, if_neg hxy]
  · obtain ⟨hbeside, hshares⟩ := governorTick_besideTick s.dev
    simp only [Dev.besideTick, Prod.mk.injEq] at hbeside
    obtain ⟨hmem, hscbs, hpacer, hhist, hlast⟩ := hbeside
    exact ⟨s.dev.governorTick, runs_of_run (f := Dev.governorTick) rfl rfl, hlast, hshares, hhist, hmem, hscbs, hpacer⟩

end Sys2Proof.Machine
end

section
/-!
PROOFS about the reads of registers (chapter 18; R39, R51, R60, R77, R218, R412).
-/

namespace Sys2Proof.Machine

/-! ### What a read does -/

/-- The lower register of a byte counter latches the counter's upper half. -/
theorem readReg_wideLow (d : Dev) (a tag : Nat) {p o : Nat} (h : wideLow p o = true) :
    d.readReg a tag p o = d.latchHi p o (smGet d.wide (rk p o) 0) := by
  unfold Dev.readReg
  rw [if_pos h]

/-- A register of a page without a read of its own kind, neither a lower register nor a lock, answers its word and does nothing. -/
theorem readReg_plain (d : Dev) (a tag : Nat) {p o : Nat} (hwide : wideLow p o = false) (hlock : lockReg p o = none) (hpcr : p ≠ pgPCR)
    (hldg : p ≠ pgLDG) (hfif : p ≠ pgFIF) (hi3c : p ≠ pgI3C) (hpwd : p ≠ pgPWD) : d.readReg a tag p o = (d.regWord a p o, d) := by
  unfold Dev.readReg
  simp only [hwide, hlock, hpcr, hldg, hfif, hi3c, hpwd, false_and, if_false, Bool.false_eq_true]

theorem readReg_now (d : Dev) (a tag : Nat) :
    d.readReg a tag pgPCR 0x048 = (lo32 (d.sample tag).1, (d.sample tag).2.setReg pgPCR 0x04C (hi32 (d.sample tag).1)) := rfl

theorem readReg_hostOfs (d : Dev) (a tag : Nat) :
    d.readReg a tag pgPCR 0x058 = (lo32 d.pacer.hostOfs, d.setReg pgPCR 0x05C (hi32 d.pacer.hostOfs)) := rfl

/-- The head of the wake list, all ones where it is empty. -/
theorem readReg_wlHead (d : Dev) (a tag : Nat) {v : DT} (hv : v = match d.wl with | [] => BitVec.allOnes 64 | w :: _ => w.target) :
    d.readReg a tag pgPCR 0x068 = (lo32 v, d.setReg pgPCR 0x06C (hi32 v)) := by
  have hhead : d.wl.head?.elim (BitVec.ofNat 64 (2 ^ 64 - 1)) WlEntry.target = v := by
    rw [hv]
    cases d.wl with
    | nil => rfl
    | cons w ws => rfl
  rw [← hhead]
  rfl

theorem readReg_tag (d : Dev) (a tag : Nat) {t : Nat} (ht : t = d.rf pgLDG 0x044 0 13) :
    d.readReg a tag pgLDG 0x048 =
      (lo32 (d.acc t), (d.setReg pgLDG 0x04C (hi32 (d.acc t))).setReg pgLDG 0x050 (w32 (smGet d.ledger.rem t 0))) := by
  subst ht
  rfl

theorem readReg_pkg (d : Dev) (a tag : Nat) :
    d.readReg a tag pgLDG 0x054 = (lo32 d.ledger.pkgAcc, d.setReg pgLDG 0x058 (hi32 d.ledger.pkgAcc)) := rfl

/-! ### The lower registers of byte counters -/

/-- A read command of the lower register of a byte counter. -/
theorem answers_wideLow {c : Instr} {s : State} {e : Dev} {a p o : Nat} {v : DT} (hx : exec c s = s.run fun d => d.rd a p o)
    (hw : wideLow p o = true) (hr : (regRow p o).isSome = true) (ha : s.dev.arrives a p o false = some e)
    (hv : v = smGet e.wide (rk p o) 0) : Answers c s (e.setReg p (o + 4) (hi32 v)) (lo32 v) := by
  have hq : ¬ (p = pgHWT ∧ o = 0x040) := by
    rintro ⟨rfl, rfl⟩
    exact absurd hw (by decide)
  refine answers_rd (d := s.dev) hx ha hq hr ?_
  rw [hv]
  exact readReg_wideLow e a _ hw

/-- The lower registers of the byte counters of the ports and the movers, by port and channel. -/
theorem wideLow_instances :
    (∀ u : Fin 4, wideLow pgUAR (uarOff u 0x20) = true ∧ wideLow pgUAR (uarOff u 0x28) = true ∧
      wideLow pgSPI (spiOff u 0x20) = true ∧ wideLow pgSPI (spiOff u 0x28) = true) ∧
    ∀ k : Fin 128, wideLow (chPage k) (mvOff k 0x18) = true := by decide

/-- They are populated. -/
theorem regRow_wideLow :
    (∀ u : Fin 4, (regRow pgUAR (uarOff u 0x20)).isSome = true ∧ (regRow pgUAR (uarOff u 0x28)).isSome = true ∧
      (regRow pgSPI (spiOff u 0x20)).isSome = true ∧ (regRow pgSPI (spiOff u 0x28)).isSome = true) ∧
    ∀ k : Fin 128, (regRow (chPage k) (mvOff k 0x18)).isSome = true := by decide +kernel

/-- Settles O9: each read with what it latches. -/
theorem lowerReadsLatchTheUpperHalf : Obligations.LowerReadsLatchTheUpperHalf := by
  unfold Obligations.LowerReadsLatchTheUpperHalf
  intro s a c e
  obtain ⟨hport, hch⟩ := wideLow_instances
  obtain ⟨rport, rch⟩ := regRow_wideLow
  have hpcr : ∀ o, ¬ (pgPCR = pgHWT ∧ o = 0x040) := fun _ h => absurd h.1 (by decide)
  have hldg : ∀ o, ¬ (pgLDG = pgHWT ∧ o = 0x040) := fun _ h => absurd h.1 (by decide)
  refine ⟨fun ha => ?_, fun ha => ?_, fun ha v hv => ?_, fun ha t ht => ?_, fun ha => ?_, fun u ha v hv => ?_, fun u ha v hv => ?_,
    fun u ha v hv => ?_, fun u ha v hv => ?_, fun k ha v hv => ?_, fun ha v hv => ?_, fun ha v hv => ?_⟩
  · exact answers_rd (d := s.dev.atCounts c) rfl ha (hpcr _) (by decide) (readReg_now e a _)
  · exact answers_rd (d := s.dev) rfl ha (hpcr _) (by decide) (readReg_hostOfs e a _)
  · exact answers_rd (d := s.dev) rfl ha (hpcr _) (by decide) (readReg_wlHead e a _ hv)
  · exact answers_rd (d := s.dev) rfl ha (hldg _) (by decide) (readReg_tag e a _ ht)
  · exact answers_rd (d := s.dev) rfl ha (hldg _) (by decide) (readReg_pkg e a _)
  · exact answers_wideLow rfl (hport u).1 (rport u).1 ha hv
  · exact answers_wideLow rfl (hport u).2.1 (rport u).2.1 ha hv
  · exact answers_wideLow rfl (hport u).2.2.1 (rport u).2.2.1 ha hv
  · exact answers_wideLow rfl (hport u).2.2.2 (rport u).2.2.2 ha hv
  · exact answers_wideLow rfl (hch k) (rch k) ha hv
  · exact answers_wideLow rfl (by decide) (by decide) ha hv
  · exact answers_wideLow rfl (by decide) (by decide) ha hv

/-! ### The other reads -/

/-- The upper word of an interrupt that an I3C controller holds, and what its read frees (R218). -/
theorem readReg_ibiHi (d : Dev) (a tag : Nat) (c : Fin 6) :
    d.readReg a tag pgI3C (i3cOff c 0x1C) = (wordOf (d.i3c c).ibi 1, d.setI3c c { d.i3c c with ibiValid := false }) := by
  have hdiv : (i3cOff c 0x1C - 0x100) / 0x80 = c := by unfold i3cOff; omega
  have hmod : (i3cOff c 0x1C - 0x100) % 0x80 = 0x1C := by unfold i3cOff; omega
  have hlow : 0x100 ≤ i3cOff c 0x1C := by unfold i3cOff; omega
  have hword : d.regWord a pgI3C (i3cOff c 0x1C) = wordOf (d.i3c c).ibi 1 := by
    have h40 : i3cOff c 0x1C ≠ 0x040 := by omega
    unfold Dev.regWord
    rw [if_neg (by omega)]
    show d.i3cWord (i3cOff c 0x1C) = _
    unfold Dev.i3cWord
    rw [if_neg h40, if_neg (by omega)]
    simp only [hdiv, hmod]
    rfl
  have hwide : wideLow pgI3C (i3cOff c 0x1C) = false := rfl
  have hlock : lockReg pgI3C (i3cOff c 0x1C) = none := by
    unfold lockReg
    split <;> rfl
  unfold Dev.readReg
  rw [hwide, hlock, hword]
  have hne : ∀ x ∈ [pgPCR, pgLDG, pgFIF], pgI3C ≠ x := by decide
  simp [hne, hdiv, hmod, hlow]

/-- QUIESCE answers 0 at once where nothing is outstanding and none of its reads waits (R412). -/
theorem rd_quiesce_idle {d e : Dev} {a : Nat} (h : d.arrives a pgHWT 0x040 false = some e) (hq : e.quiesce = []) (hout : e.hostOut = []) :
    d.rd a pgHWT 0x040 = { e with cpl := .success, resp := [0] } := by
  obtain ⟨hmay, f, hreach, hpath, rfl⟩ := arrives_eq_some h
  have hfq : f.quiesce = [] := by rwa [countReg_eq] at hq
  have hnone : (smFind f.quiesce a).isSome = false := by
    rw [hfq]
    rfl
  have hread : (f.countReg a pgHWT 0x040 false).quiesceRead a = .ok 0 (f.countReg a pgHWT 0x040 false) := by
    unfold Dev.quiesceRead
    rw [hq, hout]
    rfl
  have hrow : (regRow pgHWT 0x040).isNone = false := by decide
  unfold Dev.rd Dev.regRead
  simp only [if_neg hmay, hreach, if_neg hpath, hnone, hrow, Bool.false_eq_true, and_false, if_false, and_self, if_true, hread]

/-- Settles O10: a plain register, the interrupt's word, and QUIESCE. -/
theorem readsAnswerTheRegister : Obligations.ReadsAnswerTheRegister := by
  unfold Obligations.ReadsAnswerTheRegister
  intro s a e
  refine ⟨fun p k ha hrow hwide hlock hpcr hldg hfif hi3c hpwd hhwt => ?_, fun c ha => ?_, fun ha hq hout => ?_⟩
  · exact answers_rd (d := s.dev) (exec_registerRead a p k s) ha (fun hx => hhwt hx.1) hrow
      (readReg_plain e a _ hwide hlock hpcr hldg hfif hi3c hpwd)
  · have hrow : ∀ c : Fin 6, (regRow pgI3C (i3cOff c 0x1C)).isSome = true := by decide
    exact answers_rd (d := s.dev) rfl ha (fun hx => absurd hx.1 (by decide)) (hrow c) (readReg_ibiHi e a _ c)
  · exact runs_of_run (f := fun d => d.rd a pgHWT 0x040) rfl (rd_quiesce_idle ha hq hout)

end Sys2Proof.Machine
end

section
/-!
PROOFS about the arithmetic, logic, shift and move instructions of the cores (R330, R332).
-/

namespace Sys2Proof.Machine

/-! ### Flags -/

/-- The core with the flags of a sum of two bytes and a carry of `x`. -/
def Core.added (c : Core) (a b : Byte) (x : Nat) : Core :=
  c.flagged (decide (256 ≤ a.toNat + b.toNat + x)) (a + b + BitVec.ofNat 8 x == 0) (a + b + BitVec.ofNat 8 x).msb
    (decide (a.toInt + b.toInt + x < -128 ∨ 127 < a.toInt + b.toInt + x))

/-- The core with the flags of a difference of two bytes and a borrow of `x`; Z only where `z` allows it. -/
def Core.subtracted (c : Core) (a b : Byte) (x : Nat) (z : Bool) : Core :=
  c.flagged (decide (a.toNat < b.toNat + x)) (z && a - b - BitVec.ofNat 8 x == 0) (a - b - BitVec.ofNat 8 x).msb
    (decide (a.toInt - b.toInt - x < -128 ∨ 127 < a.toInt - b.toInt - x))

/-- The core with the flags of a logic operation's result. -/
def Core.judged (c : Core) (r : Byte) : Core := c.flagged c.c (r == 0) r.msb false

/-- A byte's sign bit and signed reading, by its unsigned one. -/
theorem byte_sign (a : Byte) : a.msb = decide (128 ≤ a.toNat) ∧ a.toInt = if a.toNat < 128 then (a.toNat : Int) else (a.toNat : Int) - 256 := by
  refine ⟨BitVec.msb_eq_decide a, ?_⟩
  rw [BitVec.toInt_eq_toNat_cond]
  have := a.isLt
  split <;> split <;> omega

/-- The sum of two bytes and a carry overflows just where the operands agree in sign and the sum does not. -/
theorem add_overflow (a b : Byte) {x : Nat} (hx : x ≤ 1) : (a.msb == b.msb && (a + b + BitVec.ofNat 8 x).msb != a.msb) =
    decide (a.toInt + b.toInt + x < -128 ∨ 127 < a.toInt + b.toInt + x) := by
  obtain ⟨ha, ia⟩ := byte_sign a
  obtain ⟨hb, ib⟩ := byte_sign b
  have hr : (a + b + BitVec.ofNat 8 x).msb = decide (128 ≤ (a.toNat + b.toNat + x) % 256) := by
    rw [(byte_sign _).1]
    simp
  have la := a.isLt
  have lb := b.isLt
  rw [ha, hb, hr, ia, ib, Bool.eq_iff_iff]
  by_cases h1 : 128 ≤ a.toNat <;> by_cases h2 : 128 ≤ b.toNat <;>
    simp only [h1, h2, decide_true, decide_false, Bool.and_eq_true, decide_eq_true_eq, bne_iff_ne, beq_iff_eq] <;>
    simp <;> split <;> split <;> omega

/-- A difference with a borrow overflows just where the operands differ in sign and the difference does not agree with the first. -/
theorem sub_overflow (a b : Byte) {x : Nat} (hx : x ≤ 1) : (a.msb != b.msb && (a - b - BitVec.ofNat 8 x).msb != a.msb) =
    decide (a.toInt - b.toInt - x < -128 ∨ 127 < a.toInt - b.toInt - x) := by
  obtain ⟨ha, ia⟩ := byte_sign a
  obtain ⟨hb, ib⟩ := byte_sign b
  have la := a.isLt
  have lb := b.isLt
  have hr : (a - b - BitVec.ofNat 8 x).msb = decide (128 ≤ (a.toNat + 512 - b.toNat - x) % 256) := by
    rw [(byte_sign _).1]
    congr 2
    simp only [BitVec.toNat_sub, BitVec.toNat_ofNat]
    omega
  rw [ha, hb, hr, ia, ib, Bool.eq_iff_iff]
  by_cases h1 : 128 ≤ a.toNat <;> by_cases h2 : 128 ≤ b.toNat <;>
    simp only [h1, h2, decide_true, decide_false, Bool.and_eq_true, decide_eq_true_eq, bne_iff_ne] <;>
    simp <;> split <;> split <;> omega

theorem putFlags_add (c : Core) (a b : Byte) (cin : Bool) : c.putFlags (addFlags a b cin).2 = c.added a b cin.toNat := by
  have hv := add_overflow a b (x := cin.toNat) (by cases cin <;> decide)
  unfold Core.added Core.flagged
  rw [← hv]
  rfl

theorem putFlags_sub (c : Core) (a b : Byte) (cin chain z : Bool) :
    c.putFlags (subFlags a b cin chain z).2 = c.subtracted a b cin.toNat (!chain || z) := by
  have hv := sub_overflow a b (x := cin.toNat) (by cases cin <;> decide)
  unfold Core.subtracted Core.flagged
  rw [← hv]
  cases chain <;> rfl

theorem putFlags_logic (c : Core) (r : Byte) : c.putFlags (logicFlags r).2 = c.judged r := rfl

/-! ### Instructions that change registers and flags -/

section
variable {i : Instr} {s : State} {k : Nat} {enc : List (BitVec 16)} {act : BitVec 16 → BitVec 16 → Dev → Act} {next : BitVec 16} {e : Dev}
  (hs : (e.core k).smoothAt (s.dev.core k).pc next) (hx : exec i s = s.run fun d => d.coreStep k enc act) (hw : coreWords i = some (k, enc))
  (h : ∃ enc, coreWords i = some (k, enc) ∧ s.dev.executes k enc = some (next, e))
include hs hx hw h

/-- An operation whose result is kept. -/
theorem runs_alu {rd : Nat} {r : Byte × FlagOut} {c : Core} {v : Byte} (ha : act (s.dev.core k).pc next e = e.aluAct k rd r true)
    (hc : (e.core k).putFlags r.2 = c) (hv : r.1 = v) : Runs i s ((e.setCore k (c.setG rd v)).goesOn k (s.dev.core k).pc next [rd]) := by
  subst hc hv
  exact runs_core_seq hs hx hw h ha rfl rfl rfl

/-- A comparison. -/
theorem runs_compare (rd : Nat) {r : Byte × FlagOut} {c : Core} (ha : act (s.dev.core k).pc next e = e.aluAct k rd r false)
    (hc : (e.core k).putFlags r.2 = c) : Runs i s ((e.setCore k c).goesOn k (s.dev.core k).pc next []) := by
  subst hc
  exact runs_core_seq hs hx hw h ha rfl rfl rfl

/-- An operation whose result goes to a pair. -/
theorem runs_pair {p : Nat} {r : BitVec 16 × FlagOut} {c : Core} {v : BitVec 16} (ha : act (s.dev.core k).pc next e = e.pairAct k p r)
    (hc : (e.core k).putFlags r.2 = c) (hv : r.1 = v) :
    Runs i s ((e.setCore k (c.setPair p v)).goesOn k (s.dev.core k).pc next [2 * p, 2 * p + 1]) := by
  subst hc hv
  exact runs_core_seq hs hx hw h ha rfl rfl rfl

end

/-- Settles O35: each instruction is its operation on the core's flags and a register. -/
theorem coreArithmeticCommandsExecute : Obligations.CoreArithmeticCommandsExecute := by
  unfold Obligations.CoreArithmeticCommandsExecute
  intro s k next e hs c at_ done add sub logic x rd a
  have hadd : ∀ b : Byte, c.putFlags (addFlags a b false).2 = add a b 0 := fun b => putFlags_add c a b false
  have haddc : ∀ b : Byte, c.putFlags (addFlags a b c.c).2 = add a b x := fun b => putFlags_add c a b c.c
  have hsub : ∀ b : Byte, c.putFlags (subFlags a b false false c.z).2 = sub a b 0 true := fun b => putFlags_sub c a b false false c.z
  have hsubc : ∀ b : Byte, c.putFlags (subFlags a b c.c true c.z).2 = sub a b x c.z := fun b => putFlags_sub c a b c.c true c.z
  have hsum : ∀ b : Byte, (addFlags a b false).1 = a + b := fun b => BitVec.add_zero _
  have hdiff : ∀ b : Byte, (subFlags a b false false c.z).1 = a - b := fun b => BitVec.sub_zero _
  refine ⟨?_, ?_⟩
  · intro rs b
    refine ⟨?_, ?_, ?_, ?_, ?_, ?_, ?_, ?_, ?_⟩ <;> intro h
    · exact runs_alu hs rfl rfl h rfl (hadd b) (hsum b)
    · exact runs_alu hs rfl rfl h rfl (haddc b) rfl
    · exact runs_alu hs rfl rfl h rfl (hsub b) (hdiff b)
    · exact runs_alu hs rfl rfl h rfl (hsubc b) rfl
    · exact runs_alu hs rfl rfl h rfl (putFlags_logic c (a &&& b)) rfl
    · exact runs_alu hs rfl rfl h rfl (putFlags_logic c (a ||| b)) rfl
    · exact runs_alu hs rfl rfl h rfl (putFlags_logic c (a ^^^ b)) rfl
    · exact runs_compare hs rfl rfl h rd rfl (hsub b)
    · exact runs_compare hs rfl rfl h rd rfl (hsubc b)
  · intro b
    refine ⟨?_, ?_, ?_, ?_, ?_, ?_, ?_, ?_⟩ <;> intro h
    · exact runs_alu hs rfl rfl h rfl (hadd b) (hsum b)
    · exact runs_alu hs rfl rfl h rfl (haddc b) rfl
    · exact runs_alu hs rfl rfl h rfl (hsub b) (hdiff b)
    · exact runs_alu hs rfl rfl h rfl (hsubc b) rfl
    · exact runs_alu hs rfl rfl h rfl (putFlags_logic c (a &&& b)) rfl
    · exact runs_alu hs rfl rfl h rfl (putFlags_logic c (a ||| b)) rfl
    · exact runs_alu hs rfl rfl h rfl (putFlags_logic c (a ^^^ b)) rfl
    · exact runs_compare hs rfl rfl h rd rfl (hsub b)

/-! ### Moves, shifts, pairs and the multiply -/

/-- A rotate by fewer places than the width. -/
theorem rotate_eq {w n : Nat} (a : BitVec w) (h : n < w) :
    a.rotateLeft n = a <<< n ||| a >>> (w - n) ∧ a.rotateRight n = a >>> n ||| a <<< (w - n) := by
  unfold BitVec.rotateLeft BitVec.rotateRight BitVec.rotateLeftAux BitVec.rotateRightAux
  rw [Nat.mod_eq_of_lt h]
  exact ⟨rfl, rfl⟩

/-- The top bit after a rotate of nine bits by 1 to 7 places is the last one that left the byte below. -/
theorem msb_rotate_nine (a : BitVec 9) {n : Nat} (h0 : n ≠ 0) (h : n < 8) :
    (a.rotateLeft n).msb = a.getLsbD (8 - n) ∧ (a.rotateRight n).msb = a.getLsbD (n - 1) := by
  have hl : n % 9 = n := Nat.mod_eq_of_lt (by omega)
  have hr : (9 - n) % 9 = 9 - n := Nat.mod_eq_of_lt (by omega)
  rw [BitVec.msb_rotateLeft, BitVec.msb_rotateRight, hl, hr]
  unfold BitVec.getMsbD
  refine ⟨?_, ?_⟩
  · simp only [show n < 9 by omega, decide_true, Bool.true_and]
  · simp only [show 9 - n < 9 by omega, decide_true, Bool.true_and]
    congr 1
    omega

/-- The flags of a shift. -/
theorem putFlags_shift (c : Core) (op : ShiftOp) (a : Byte) (n : Nat) : c.putFlags (shiftFlags op a c.c n).2 =
    c.flagged (shiftBy op a c.c n).2 ((shiftBy op a c.c n).1 == 0) (shiftBy op a c.c n).1.msb false := rfl

/-- The flags of ADDP: the carry of the unsigned sum, or the borrow where the immediate is negative. -/
theorem putFlags_addp (c : Core) (a : BitVec 16) (i : BitVec 7) : c.putFlags (addpFlags a i).2 = c.flagged
    (if 0 ≤ i.toInt then decide (65536 ≤ a.toNat + i.toNat) else decide ((a.toNat : Int) + i.toInt < 0)) (a + i.signExtend 16 == 0)
    (a + i.signExtend 16).msb (decide (a.toInt + i.toInt < -32768 ∨ 32767 < a.toInt + i.toInt)) := by
  have hi : (i.signExtend 16).toInt = i.toInt := BitVec.toInt_signExtend_of_le (by decide)
  have hv : (a.msb == (i.signExtend 16).msb && (a + i.signExtend 16).msb != a.msb) =
      decide (a.toInt + i.toInt < -32768 ∨ 32767 < a.toInt + i.toInt) := by
    have hover := BitVec.saddOverflow_eq a (i.signExtend 16)
    unfold BitVec.saddOverflow at hover
    rw [hi] at hover
    rw [show (a.msb == (i.signExtend 16).msb && (a + i.signExtend 16).msb != a.msb) = _ from hover.symm]
    rw [Bool.eq_iff_iff]
    simp
    omega
  have hc : (if i.msb then decide (a.toNat < (-(i.signExtend 16)).toNat) else decide (a.toNat + (i.signExtend 16).toNat ≥ 65536)) =
      if 0 ≤ i.toInt then decide (65536 ≤ a.toNat + i.toNat) else decide ((a.toNat : Int) + i.toInt < 0) := by
    have hil := i.isLt
    have hbl := (i.signExtend 16).isLt
    have hneg : (-(i.signExtend 16)).toNat = (65536 - (i.signExtend 16).toNat) % 65536 := by simp
    rw [BitVec.toInt_eq_toNat_cond] at hi
    rw [BitVec.toInt_eq_toNat_cond] at hi
    rw [hneg, BitVec.msb_eq_decide, BitVec.toInt_eq_toNat_cond]
    by_cases h : i.toNat < 64
    · have heq : (i.signExtend 16).toNat = i.toNat := by
        split at hi <;> split at hi <;> omega
      rw [heq, if_neg (by simp; omega), if_pos (by omega)]
    · have heq : (i.signExtend 16).toNat + 128 = 65536 + i.toNat := by
        split at hi <;> split at hi <;> omega
      rw [if_pos (by simp; omega), if_neg (by omega), if_neg (by omega), decide_eq_decide]
      omega
  unfold Core.flagged
  rw [← hv, ← hc]
  rfl

/-- The product of two bytes in one of the readings. -/
def product (signed : Bool) (a b : Byte) : Int := if signed then a.toInt * b.toInt else a.toNat * b.toNat

/-- A product of signed readings stays well within 16 bits. -/
theorem product_signed_bounds (a b : Byte) : -16384 ≤ a.toInt * b.toInt ∧ a.toInt * b.toInt ≤ 16384 := by
  obtain ⟨_, ia⟩ := byte_sign a
  obtain ⟨_, ib⟩ := byte_sign b
  have la := a.isLt
  have lb := b.isLt
  have ha : -128 ≤ a.toInt ∧ a.toInt ≤ 127 := by rw [ia]; split <;> omega
  have hb : -128 ≤ b.toInt ∧ b.toInt ≤ 127 := by rw [ib]; split <;> omega
  have hmul : (a.toInt * b.toInt).natAbs ≤ 128 * 128 := by
    rw [Int.natAbs_mul]
    exact Nat.mul_le_mul (by omega) (by omega)
  omega

/-- One of unsigned readings fits 16 bits. -/
theorem product_unsigned_bound (a b : Byte) : a.toNat * b.toNat ≤ 65025 := by
  have la := a.isLt
  have lb := b.isLt
  calc a.toNat * b.toNat ≤ 255 * 255 := Nat.mul_le_mul (by omega) (by omega)
    _ = 65025 := rfl

/-- MUL's result is the product. -/
theorem mulFlags_fst (a b : Byte) (signed : Bool) : (mulFlags a b signed).1 = BitVec.ofInt 16 (product signed a b) := by
  cases signed with
  | true =>
    have ha : (a.signExtend 16).toInt = a.toInt := BitVec.toInt_signExtend_of_le (by decide)
    have hb : (b.signExtend 16).toInt = b.toInt := BitVec.toInt_signExtend_of_le (by decide)
    show a.signExtend 16 * b.signExtend 16 = BitVec.ofInt 16 (a.toInt * b.toInt)
    apply BitVec.eq_of_toInt_eq
    rw [BitVec.toInt_mul, BitVec.toInt_ofInt, ha, hb]
  | false =>
    show a.zeroExtend 16 * b.zeroExtend 16 = BitVec.ofInt 16 ((a.toNat : Int) * b.toNat)
    apply BitVec.eq_of_toNat_eq
    have ha : (a.zeroExtend 16).toNat = a.toNat := by simp; have := a.isLt; omega
    have hb : (b.zeroExtend 16).toNat = b.toNat := by simp; have := b.isLt; omega
    rw [BitVec.toNat_mul, ha, hb, BitVec.toNat_ofInt]
    omega

/-- A number below 65536 in size is 0 where its low 16 bits are. -/
theorem ofInt_beq_zero {x : Int} (h1 : -65536 < x) (h2 : x < 65536) : (BitVec.ofInt 16 x == 0) = decide (x = 0) := by
  rw [bitVec_beq_eq_decide, decide_eq_decide, ← BitVec.toNat_inj, BitVec.toNat_ofInt]
  simp
  omega

/-- A number of 16 bits is the extension of its low byte just where the byte holds it, in the signed reading. -/
theorem ne_signExtend_low {x : Int} (h1 : -32768 ≤ x) (h2 : x < 32768) :
    (BitVec.ofInt 16 x != ((BitVec.ofInt 16 x).truncate 8).signExtend 16) = decide (x < -128 ∨ 127 < x) := by
  have hx : (BitVec.ofInt 16 x).toInt = x := by
    rw [BitVec.toInt_ofInt]
    exact Int.bmod_eq_of_le (by omega) (by omega)
  have hlow : (((BitVec.ofInt 16 x).truncate 8).signExtend 16).toInt = Int.bmod x 256 := by
    rw [BitVec.toInt_signExtend_of_le (by decide), BitVec.truncate_eq_setWidth, BitVec.toInt_setWidth, BitVec.toNat_ofInt]
    simp only [Int.bmod]
    omega
  rw [bne, bitVec_beq_eq_decide, ← decide_not, decide_eq_decide, ← BitVec.toInt_inj, hx, hlow]
  simp only [Int.bmod]
  omega

/-- And in the unsigned one. -/
theorem ne_zeroExtend_low {x : Nat} (h : x < 65536) :
    (BitVec.ofInt 16 x != ((BitVec.ofInt 16 x).truncate 8).zeroExtend 16) = decide (255 < (x : Int)) := by
  rw [bne, bitVec_beq_eq_decide, ← decide_not, decide_eq_decide, ← BitVec.toNat_inj]
  simp
  omega

/-- The flags of MUL: C where the product does not fit a byte in its reading. -/
theorem putFlags_mul (c : Core) (a b : Byte) (signed : Bool) {x : Int} (hx : x = product signed a b) :
    c.putFlags (mulFlags a b signed).2 = c.flagged (if signed then decide (x < -128 ∨ 127 < x) else decide (255 < x)) (decide (x = 0))
      (BitVec.ofInt 16 x).msb false := by
  have hr := mulFlags_fst a b signed
  have hflags : c.putFlags (mulFlags a b signed).2 =
      c.flagged ((mulFlags a b signed).1 != if signed then ((mulFlags a b signed).1.truncate 8).signExtend 16
        else ((mulFlags a b signed).1.truncate 8).zeroExtend 16) ((mulFlags a b signed).1 == 0) (mulFlags a b signed).1.msb false := rfl
  rw [hflags, hr, ← hx]
  cases signed with
  | true =>
    have hb : -16384 ≤ x ∧ x ≤ 16384 := hx ▸ product_signed_bounds a b
    rw [ofInt_beq_zero (by omega) (by omega), if_pos rfl, if_pos rfl, ne_signExtend_low (by omega) (by omega)]
  | false =>
    have hb := product_unsigned_bound a b
    obtain rfl : x = (a.toNat * b.toNat : Nat) := hx
    rw [ofInt_beq_zero (by omega) (by omega), if_neg (by decide), if_neg (by decide), ne_zeroExtend_low (by omega)]

/-- Settles O36: moves, shifts and pairs, each with its flags. -/
theorem coreMoveAndShiftCommandsExecute : Obligations.CoreMoveAndShiftCommandsExecute := by
  unfold Obligations.CoreMoveAndShiftCommandsExecute
  intro s k next e hs c at_ done
  refine ⟨?_, ?_⟩
  · intro rd a
    refine ⟨fun rs h => ?_, fun b h => ?_, ?_⟩
    · exact runs_alu hs rfl rfl h rfl rfl rfl
    · exact runs_alu hs rfl rfl h rfl rfl rfl
    · intro n hn fin nine
      have hrot := rotate_eq a (n := n) n.isLt
      have hnine := rotate_eq nine (n := n) (by omega)
      have hmsb := msb_rotate_nine nine hn n.isLt
      refine ⟨?_, ?_, ?_, ?_, ?_, ?_, ?_⟩ <;> intro h
      · exact runs_alu hs rfl rfl h rfl (putFlags_shift c .shl a n) rfl
      · exact runs_alu hs rfl rfl h rfl (putFlags_shift c .shr a n) rfl
      · exact runs_alu hs rfl rfl h rfl (putFlags_shift c .asr a n) rfl
      · rw [← hrot.1]
        exact runs_alu hs rfl rfl h rfl (putFlags_shift c .rol a n) rfl
      · rw [← hrot.2]
        exact runs_alu hs rfl rfl h rfl (putFlags_shift c .ror a n) rfl
      · rw [← hnine.1, ← hmsb.1]
        exact runs_alu hs rfl rfl h rfl (putFlags_shift c .rcl a n) rfl
      · rw [← hnine.2, ← hmsb.2]
        exact runs_alu hs rfl rfl h rfl (putFlags_shift c .rcr a n) rfl
  · intro p a
    refine ⟨fun v h => ?_, ?_, ?_⟩
    · exact runs_pair hs rfl rfl h rfl rfl rfl
    · intro i r h
      exact runs_pair hs rfl rfl h rfl (putFlags_addp c a i) rfl
    · intro rs signed x r h
      exact runs_pair hs rfl rfl h rfl (putFlags_mul c _ _ signed rfl) (mulFlags_fst _ _ signed)

end Sys2Proof.Machine
end

section
/-!
PROOFS about the loads, stores, transfers of control, loops and system instructions of the cores (R320-R355).
-/

namespace Sys2Proof.Machine

/-! ### Loads and stores (R334-R336, R344, R346) -/

/-- The core after an update that leaves it running reads back. -/
theorem core_setCore_running (d : Dev) (k : Nat) {v : Core} (h : v.state = .running) : (d.setCore k v).core k = v :=
  core_setCore d k v (core_ne_of_running h)

/-- The load that an instruction at `pc` issues. -/
def Dev.loadOf (d : Dev) (k a : Nat) (dests : List Nat) (pc : BitVec 16) : PendLoad :=
  { dests := dests, addr := a, pc := pc, target := if 0xF000 ≤ a then (d.core k).pageSel else (d.core k).windowAddr a }

/-- The rows of the view that the target and the arrival of a load depend on. -/
theorem viewRow_rows {a : Nat} (h : a < 0x10000) : (viewRow a = 8 ↔ 0xF000 ≤ a) ∧ (viewRow a = 0 ↔ a < 0x8000) := by
  unfold viewRow
  constructor <;> (repeat' split) <;> simp <;> omega

section
variable {d e : Dev} {k a : Nat} {dests : List Nat} {pc : BitVec 16}

/-- A load that its target serves. -/
theorem issue_ok {bs : List Byte} (ha : a < 0x10000) (h : d.viewLoad k a dests.length = .ok bs e) :
    d.issue k a dests pc = .load e { d.loadOf k a dests pc with data := some bs, arrived := decide (a < 0x8000) } := by
  obtain ⟨h8, h0⟩ := viewRow_rows ha
  unfold Dev.issue Dev.loadOf
  simp only [h, h8, h0]

/-- One that waits for a domain. -/
theorem issue_wait (ha : a < 0x10000) (h : d.viewLoad k a dests.length = .wait e) :
    d.issue k a dests pc = .load ((d.woken e).setCore k { d.core k with order := (d.core k).order + 1 })
      { d.loadOf k a dests pc with order := (d.core k).order } := by
  unfold Dev.issue Dev.loadOf
  simp only [h, (viewRow_rows ha).1]

/-- One of host memory. -/
theorem issue_host (ha : a < 0x10000) (h : d.viewLoad k a dests.length = .host e) :
    d.issue k a dests pc = .load e { d.loadOf k a dests pc with host := true } := by
  unfold Dev.issue Dev.loadOf
  simp only [h, (viewRow_rows ha).1]

/-- A store that is done or posted. -/
theorem storeAct_ok {bs x : List Byte} (h : d.viewStore k a bs = .ok x e) : d.storeAct k a bs pc = .seq e [] := by
  unfold Dev.storeAct
  rw [h]

/-- One whose target reports an error, which is kept. -/
theorem storeAct_error {bs : List Byte} {err : Nat} (h : d.viewStore k a bs = .error err e) :
    d.storeAct k a bs pc = .seq (e.noteStoreErr k err a) [] := by
  unfold Dev.storeAct
  rw [h]

end

section
variable {i : Instr} {s : State} {k : Nat} {enc : List (BitVec 16)} {act : BitVec 16 → BitVec 16 → Dev → Act} {next : BitVec 16} {e : Dev}
  (hx : exec i s = s.run fun d => d.coreStep k enc act) (hw : coreWords i = some (k, enc))
  (h : ∃ enc, coreWords i = some (k, enc) ∧ s.dev.executes k enc = some (next, e))
include hx hw h

/-- An instruction command that goes on from a device of its own. -/
theorem runs_seq {f : Dev} {wrote : List Nat} (ha : act (s.dev.core k).pc next e = .seq f wrote)
    (hs : (f.core k).smoothAt (s.dev.core k).pc next) : Runs i s (f.goesOn k (s.dev.core k).pc next wrote) :=
  runs_core hx hw h (by rw [ha, perform_seq hs])

/-- One that transfers control. -/
theorem runs_jump {f : Dev} {wrote : List Nat} {target : BitVec 16} (ha : act (s.dev.core k).pc next e = .jump f target wrote)
    (hs : (f.core k).smooth) (ht : target.toNat % 2 = 0) : Runs i s (f.goesTo k target wrote) :=
  runs_core hx hw h (by rw [ha, perform_jump hs ht])

/-- One that issues a load. -/
theorem runs_load {f : Dev} {q : PendLoad} (ha : act (s.dev.core k).pc next e = .load f q) (hs : (f.core k).smooth) (hq : q.fail = none) :
    Runs i s (f.loads k (s.dev.core k).pc next q) :=
  runs_core hx hw h (by rw [ha, perform_load hs hq])

/-- A load, by what its target answers. -/
theorem runs_issue {a : Nat} {dests : List Nat} (ha : act (s.dev.core k).pc next e = e.issue k a dests (s.dev.core k).pc) (hlt : a < 0x10000)
    {q : PendLoad} (hq : q = e.loadOf k a dests (s.dev.core k).pc) {e' : Dev} {bs : List Byte} :
    (e.viewLoad k a dests.length = .ok bs e' → (e'.core k).smooth →
      Runs i s (e'.loads k (s.dev.core k).pc next { q with data := some bs, arrived := decide (a < 0x8000) })) ∧
    (e.viewLoad k a dests.length = .wait e' → (e.core k).smooth →
      Runs i s (((e.woken e').setCore k { e.core k with order := (e.core k).order + 1 }).loads k (s.dev.core k).pc next
        { q with order := (e.core k).order })) ∧
    (e.viewLoad k a dests.length = .host e' → (e'.core k).smooth → Runs i s (e'.loads k (s.dev.core k).pc next { q with host := true })) := by
  subst hq
  refine ⟨fun hv hs => ?_, fun hv hs => ?_, fun hv hs => ?_⟩
  · exact runs_load hx hw h (ha.trans (issue_ok hlt hv)) hs rfl
  · refine runs_load hx hw h (ha.trans (issue_wait hlt hv)) ?_ rfl
    rw [core_setCore_running (e.woken e') k (v := { e.core k with order := (e.core k).order + 1 }) hs.1]
    exact hs
  · exact runs_load hx hw h (ha.trans (issue_host hlt hv)) hs rfl

/-- A store, by what its target answers. -/
theorem runs_store {a : Nat} {bs : List Byte} (ha : act (s.dev.core k).pc next e = e.storeAct k a bs (s.dev.core k).pc) {e' : Dev} :
    (∀ x, e.viewStore k a bs = .ok x e' → (e'.core k).smoothAt (s.dev.core k).pc next →
      Runs i s (e'.goesOn k (s.dev.core k).pc next [])) ∧
    ∀ err : Nat, e.viewStore k a bs = .error err e' → ((e'.noteStoreErr k err a).core k).smoothAt (s.dev.core k).pc next →
      Runs i s ((e'.noteStoreErr k err a).goesOn k (s.dev.core k).pc next []) :=
  ⟨fun _ hv hs => runs_seq hx hw h (ha.trans (storeAct_ok hv)) hs, fun _ hv hs => runs_seq hx hw h (ha.trans (storeAct_error hv)) hs⟩

end

/-- Settles O37: each load is issued, and each store made, at the address that its operands give. -/
theorem coreLoadAndStoreCommandsExecute : Obligations.CoreLoadAndStoreCommandsExecute := by
  unfold Obligations.CoreLoadAndStoreCommandsExecute
  intro s k next e c pc at_ loads stores
  refine ⟨?_, ?_⟩
  · intro r base off a
    refine ⟨?_, ?_, ?_, ?_⟩
    · intro h q e' bs hq hlt
      exact runs_issue rfl rfl h rfl hlt hq
    · intro h q e' bs hq hlt
      exact runs_issue rfl rfl h rfl hlt hq
    · intro h e' x
      exact ⟨(runs_store rfl rfl h rfl).1 x, (runs_store rfl rfl h rfl).2⟩
    · intro h e' x
      exact ⟨(runs_store rfl rfl h rfl).1 x, (runs_store rfl rfl h rfl).2⟩
  · intro r a
    refine ⟨?_, ?_, ?_, ?_⟩
    · intro h q e' bs hq hlt
      exact runs_issue rfl rfl h rfl hlt hq
    · intro h q e' bs hq hlt
      exact runs_issue rfl rfl h rfl hlt hq
    · intro h e' x
      exact ⟨(runs_store rfl rfl h rfl).1 x, (runs_store rfl rfl h rfl).2⟩
    · intro h e' x
      exact ⟨(runs_store rfl rfl h rfl).1 x, (runs_store rfl rfl h rfl).2⟩

end Sys2Proof.Machine
end

section
/-!
PROOFS about the instructions of the cores that transfer control and the loops (R331, R333, R337-R339, R351).
-/

namespace Sys2Proof.Machine

/-! ### Transfers of control -/

/-- Counting in a core's page leaves every core alone. -/
@[simp] theorem coreCount_core (d : Dev) (k o sb n j : Nat) : (d.coreCount k o sb n).core j = d.core j := by
  unfold Dev.coreCount
  split
  · rw [bump_eq]; rfl
  · rfl

/-- Squashed words change no core. -/
@[simp] theorem squash_core (d : Dev) (k path j : Nat) : (d.squash k path).core j = d.core j := by
  unfold Dev.squash
  split
  · simp only [coreCount_core]; rfl
  · rfl

/-- A branch that is resolved changes nothing of its core but the branch target buffer. -/
theorem bccResolve_core {d : Dev} {k : Nat} (h : (d.core k).state = .running) (pc next target : BitVec 16) (taken : Bool) :
    ∃ b, (d.bccResolve k pc next target taken).core k = { d.core k with btb := b } := by
  have hset : ∀ (d' : Dev) b, (d'.setCore k { d.core k with btb := b }).core k = { d.core k with btb := b } :=
    fun d' b => core_setCore_running d' k (v := { d.core k with btb := b }) h
  unfold Dev.bccResolve
  by_cases hon : (!d.btbOn k) = true
  · exact ⟨(d.core k).btb, by rw [if_pos hon]; cases taken <;> simp⟩
  rw [if_neg hon]
  cases (d.core k).btb.find? fun x => x.2.1 = pc.toNat with
  | none =>
    cases taken with
    | false => exact ⟨(d.core k).btb, rfl⟩
    | true => exact ⟨_, (squash_core ..).trans (hset d.nextSeq.2 _)⟩
  | some x =>
    dsimp only
    repeat' split
    · exact ⟨_, (squash_core ..).trans (hset d _)⟩
    · exact ⟨(d.core k).btb, rfl⟩
    · exact ⟨_, (squash_core ..).trans (hset d _)⟩

/-- The condition of a branch, by its place in the list of conditions. -/
theorem condHolds_eq (cond : Fin 16) (c z n v : Bool) : condHolds cond c z n v =
    [z, !z, c, !c, n, !n, v, !v, !c && !z, c || z, n == v, n != v, !z && n == v, z || n != v, true].getD cond true := by
  revert cond c z n v
  decide

/-- A core's update keeps it smooth where its state and its loads stay. -/
theorem smooth_congr {c c' : Core} (h : c.smooth) (hs : c'.state = c.state) (hp : c'.pend = c.pend) : c'.smooth :=
  ⟨hs.trans h.1, hp ▸ h.2⟩

theorem smoothAt_congr {c c' : Core} {pc next : BitVec 16} (h : c.smoothAt pc next) (hs : c'.state = c.state) (hp : c'.pend = c.pend)
    (hr : c'.csr = c.csr) : c'.smoothAt pc next := ⟨smooth_congr h.1 hs hp, by rw [loopBack_congr hr]; exact h.2⟩

/-- A core set running reads back smooth. -/
theorem smooth_setCore {d : Dev} {k : Nat} {c : Core} (h : c.smooth) : ((d.setCore k c).core k).smooth := by
  rw [core_setCore_running d k h.1]
  exact h

theorem smoothAt_setCore {d : Dev} {k : Nat} {c : Core} {pc next : BitVec 16} (h : c.smoothAt pc next) :
    ((d.setCore k c).core k).smoothAt pc next := by
  rw [core_setCore_running d k h.1.1]
  exact h

/-- The bytes of a pair, low byte first. -/
theorem ofNat_leNat_pair (lo hi : Byte) : BitVec.ofNat 16 (leNat [lo, hi]) = hi ++ lo := by
  apply BitVec.eq_of_toNat_eq
  rw [BitVec.toNat_append, Nat.shiftLeft_eq, ← Nat.shiftLeft_eq, ← Nat.shiftLeft_add_eq_or_of_lt lo.isLt]
  have h1 := lo.isLt
  have h2 := hi.isLt
  simp only [leNat, BitVec.toNat_ofNat, Nat.shiftLeft_eq]
  omega

theorem append_even {lo hi : Byte} (h : lo.toNat % 2 = 0) : (hi ++ lo).toNat % 2 = 0 := by
  rw [← ofNat_leNat_pair]
  simp only [leNat, BitVec.toNat_ofNat]
  omega

section
variable {d : Dev} {k : Nat} {pc : BitVec 16}

/-- The stack read of RET. -/
theorem stackRead_ret {e : Dev} {bs : List Byte} (hp : ∀ q ∈ (d.core k).pend, q.ofReturn = false)
    (h : d.viewLoad k ((d.core k).pair 15).toNat 2 = .ok bs e) : d.stackRead k 2 pc = .ok (bs, e) := by
  have hf : (d.core k).pend.find? (·.ofReturn) = none := List.find?_eq_none.mpr fun q hq => by rw [hp q hq]; decide
  unfold Dev.stackRead
  simp only [hf, h, if_true]

/-- That of RETI, of a flag pair and a PC. -/
theorem stackRead_reti {e g : Dev} {bs cs : List Byte} (hp : ∀ q ∈ (d.core k).pend, q.ofReturn = false)
    (h : d.viewLoad k ((d.core k).pair 15).toNat 2 = .ok bs e) (h2 : e.viewLoad k ((d.core k).pair 15 + 2).toNat 2 = .ok cs g) :
    d.stackRead k 4 pc = .ok (bs ++ cs, g) := by
  have hf : (d.core k).pend.find? (·.ofReturn) = none := List.find?_eq_none.mpr fun q hq => by rw [hp q hq]; decide
  unfold Dev.stackRead
  simp only [hf, h, h2, if_neg (show (4 : Nat) ≠ 2 by decide)]

end

/-! ### Loops -/

/-- An instruction that skips to another address goes on from there. -/
theorem runs_skip {i : Instr} {s : State} {k : Nat} {enc : List (BitVec 16)} {act : BitVec 16 → BitVec 16 → Dev → Act}
    {next skipped : BitVec 16} {e f : Dev} (hx : exec i s = s.run fun d => d.coreStep k enc act) (hw : coreWords i = some (k, enc))
    (h : ∃ enc, coreWords i = some (k, enc) ∧ s.dev.executes k enc = some (next, e))
    (ha : act (s.dev.core k).pc next e = .skip f skipped) (hs : (f.core k).smoothAt (s.dev.core k).pc skipped) :
    Runs i s (f.goesOn k (s.dev.core k).pc skipped []) :=
  runs_core hx hw h (by rw [ha]; exact (perform_seq (d0 := s.dev) hs).symm)

/-- The core with a level's CSRs set up. -/
def Core.loopSet (c : Core) (level n : Nat) (start stop : BitVec 16) : Core :=
  ((c.setCsrPair (0x10 + 8 * level) start.toNat).setCsrPair (0x12 + 8 * level) stop.toNat).setCsrPair (0x14 + 8 * level) n

/-- A LOOP that may be set up: with a count it is active, without one its body is skipped. -/
theorem loopAct_ok {d : Dev} {k : Nat} {l : Fin 3} {count : LoopCount} {lend pc next : BitVec 16} {n : Nat}
    (hn : n = match count with | .imm n => n.val | .pair p => ((d.core k).pair p).toNat)
    (hoff : ∀ j : Fin 3, l ≤ j → (d.core k).loopOn j = false) (heven : lend.toNat % 2 = 0) (hle : next.toNat ≤ lend.toNat)
    (htop : lend.toNat ≤ 0x7FFE) :
    (n ≠ 0 → d.loopAct k l.castSucc count lend pc next = .seq (d.setCore k (((d.core k).loopSet l n next lend).setLoop l true)) []) ∧
    (n = 0 → ∀ (w : BitVec 16) (e : Dev), d.fetchWord k lend = .word (some w) e →
      d.loopAct k l.castSucc count lend pc next =
        .skip (e.setCore k ((d.core k).loopSet l n next lend)) (lend + BitVec.ofNat 16 (lengthOf w))) := by
  have hany : ([0, 1, 2].any fun j => decide (l.val ≤ j) && (d.core k).loopOn j) = false := by
    refine List.any_eq_false.mpr fun j hj => ?_
    by_cases hl : l.val ≤ j
    · have hj3 : j < 3 := by revert hj; simp; omega
      simp [hoff ⟨j, hj3⟩ hl]
    · simp [hl]
  have hok : loopOk next.toNat lend.toNat = true := by
    unfold loopOk
    simp only [Bool.and_eq_true, decide_eq_true_eq]
    omega
  unfold Dev.loopAct
  simp only [Fin.val_castSucc, hany, hok, Bool.not_true, Bool.false_eq_true, if_false]
  cases count with
  | imm m | pair m =>
    subst hn
    refine ⟨fun h0 => if_pos h0, fun h0 w e hf => ?_⟩
    rw [if_neg (not_not_intro h0), hf]
    rfl

theorem loopTop_eq (c : Core) : c.loopTop = [2, 1, 0].find? fun l => c.loopOn l := by
  unfold Core.loopTop
  cases h2 : c.loopOn 2 <;> cases h1 : c.loopOn 1 <;> cases h0 : c.loopOn 0 <;> simp [h2, h1, h0]

/-- Settles O38: each transfer of control and each loop instruction, by what its effect comes to on a smooth core. -/
theorem coreControlCommandsExecute : Obligations.CoreControlCommandsExecute := by
  unfold Obligations.CoreControlCommandsExecute
  intro s k next e hs c pc at_
  refine ⟨?bcc, ?jumps, ?returns, ?loop, ?lpop⟩
  case bcc =>
    intro cond off h holds target
    have hcond : condHolds cond c.c c.z c.n c.v = holds := condHolds_eq ..
    have hact : e.bccAct k cond off pc next =
        if holds then .jump (e.bccResolve k pc next target holds) target [] else .seq (e.bccResolve k pc next target holds) [] := by
      rw [← hcond]; rfl
    refine ⟨fun ht => ?_, fun hf ha => ?_⟩
    · obtain ⟨b, hb⟩ := bccResolve_core hs.1 pc next target true
      refine runs_jump rfl rfl h (hact.trans (by rw [ht]; rfl)) ?_ ?_
      · rw [hb]; exact smooth_congr hs rfl rfl
      · obtain ⟨enc, -, hexec⟩ := h
        have := executes_even hexec
        simp only [target, BitVec.toNat_add, BitVec.toNat_mul]
        simp
        omega
    · obtain ⟨b, hb⟩ := bccResolve_core hs.1 pc next target false
      refine runs_seq rfl rfl h (hact.trans (by rw [hf]; rfl)) ?_
      rw [hb]
      exact smoothAt_congr ha rfl rfl rfl
  case jumps =>
    intro t target heven
    have htarget : (e.core k).target t = target := by cases t <;> rfl
    refine ⟨fun h => ?_, fun h e' x hv hs' => ?_⟩
    · rw [← htarget] at heven ⊢
      exact runs_jump rfl rfl h rfl hs heven
    · have hact : e.callAct k t pc next =
          .jump (e'.setCore k ((e'.core k).setPair 15 (c.pair 15 - 2))) target [30, 31] := by
        unfold Dev.callAct
        dsimp only
        rw [show e.storeAct k ((e.core k).pair 15 - 2).toNat _ pc = _ from storeAct_ok hv, htarget]
      exact runs_jump rfl rfl h hact (smooth_setCore (smooth_congr hs' rfl rfl)) heven
  case returns =>
    intro lo hi e' hp hv hs'
    refine ⟨fun h heven => ?_, fun h plo phi g hv2 hsg => ⟨fun hi4 hl => ?_, fun f hf hl heven => ?_⟩⟩
    · have hact : e.retAct k pc = .jump (e'.setCore k ((e'.core k).setPair 15 ((e'.core k).pair 15 + 2))) (hi ++ lo) [30, 31] := by
        unfold Dev.retAct
        rw [stackRead_ret hp hv, ← ofNat_leNat_pair]
      exact runs_jump rfl rfl h hact (smooth_setCore (smooth_congr hs' rfl rfl)) (append_even heven)
    · have hact : e.retiAct k pc = .jump (g.setCore k { g.core k with i := false }) 8 [] := by
        unfold Dev.retiAct
        rw [stackRead_reti hp hv hv2]
        exact if_pos ⟨hi4, hl⟩
      exact runs_jump rfl rfl h hact (smooth_setCore (smooth_congr hsg rfl rfl)) rfl
    · subst hf
      have hact : e.retiAct k pc = .jump (g.setCore k (((g.core k).setFlags lo).setPair 15 ((g.core k).pair 15 + 4))) (phi ++ plo)
          [30, 31] := by
        unfold Dev.retiAct
        rw [stackRead_reti hp hv hv2, ← ofNat_leNat_pair]
        exact if_neg fun ⟨h1, h2⟩ => by
          rw [show bitAt lo 4 = true from h1, h2] at hl
          exact absurd hl (by decide)
      exact runs_jump rfl rfl h hact (smooth_setCore (smooth_congr hsg rfl rfl)) (append_even heven)
  case loop =>
    intro l count lend n h b hoff heven hle htop
    have hact := loopAct_ok (pc := pc) (d := e) (k := k) (n := n) (count := count) rfl hoff heven hle htop
    refine ⟨fun h0 ha => ?_, fun h0 w e' hf ha => ?_⟩
    · exact runs_seq rfl rfl h (hact.1 h0) (smoothAt_setCore ha)
    · exact runs_skip rfl rfl h (hact.2 h0 w e' hf) (smoothAt_setCore ha)
  case lpop =>
    intro h b ha
    have hact : e.lpopAct k = .seq (e.setCore k b) [] := by
      unfold Dev.lpopAct
      simp only [loopTop_eq]
      rfl
    exact runs_seq rfl rfl h hact (smoothAt_setCore ha)

end Sys2Proof.Machine
end

section
/-!
PROOFS about the system instructions of the cores and what comes to them from outside (R320-R324, R335, R345-R355, R517).
-/

namespace Sys2Proof.Machine

/-! ### Traps, waits and halts -/

/-- An instruction carried out by a command with words of its own. -/
theorem runs_executes {i : Instr} {s : State} {k : Nat} {enc : List (BitVec 16)} {act : BitVec 16 → BitVec 16 → Dev → Act}
    {next : BitVec 16} {e f : Dev} (hx : exec i s = s.run fun d => d.coreStep k enc act) (h : s.dev.executes k enc = some (next, e))
    (hf : s.dev.perform k (s.dev.core k).pc next (act (s.dev.core k).pc next e) = f) : Runs i s f := by
  rw [← hf, ← coreStep_executes h act]
  exact hx

/-- The loads of a core of which none is outstanding and none has failed. -/
theorem loads_done {l : List PendLoad} (h : ∀ q ∈ l, q.arrived = true ∧ q.fail = none) :
    (l.any fun q => !q.arrived) = false ∧ l.find? (fun q => q.fail.isSome) = none ∧ l.filter (fun q => q.fail.isSome) = [] := by
  refine ⟨List.any_eq_false.mpr fun q hq => ?_, List.find?_eq_none.mpr fun q hq => ?_, List.filter_eq_nil_iff.mpr fun q hq => ?_⟩
  · rw [(h q hq).1]; decide
  · rw [(h q hq).2]; decide
  · rw [(h q hq).2]; decide

/-- A trap with no load in its way enters the handler. -/
theorem perform_trap {d0 d g : Dev} {k cause : Nat} {code addr : Option Nat} {pc next ret : BitVec 16}
    (h : ∀ q ∈ (d.core k).pend, q.arrived = true ∧ q.fail = none)
    (hg : ((d.setCore k { (d.core k).landAll (d.core k).pend with pend := [] }).countInstr k).trapEntry k cause code addr pc ret = some g) :
    d0.perform k pc next (.trap d cause code addr ret) = g.stepDone k := by
  obtain ⟨h1, h2, -⟩ := loads_done h
  unfold Dev.perform Dev.finishTrap
  dsimp only
  rw [h1, h2]
  simp only [Bool.false_eq_true, if_false, hg]

/-- A BREAK that halts the core, at the end of its instruction. -/
theorem perform_halt {d0 d : Dev} {k : Nat} {pc next : BitVec 16} (h : (d.core k).smoothAt pc next)
    (hr : ((d.goesOn k pc next []).core k).state = .running) : d0.perform k pc next (.halt d) =
      (d.goesOn k pc next []).setCore k { (d.goesOn k pc next []).core k with state := .debugHalt, haltedIn := .running, stepping := false } := by
  have hs : d0.finish (d.setCore k ((d.core k).loopBack pc next 3).1) k [] ((d.core k).loopBack pc next 3).2 = d.goesOn k pc next [] :=
    perform_seq h
  unfold Dev.perform
  dsimp only
  rw [hs, if_pos hr]

theorem syncAct_done {d : Dev} {k : Nat} (h : ∀ q ∈ (d.core k).pend, q.arrived = true) (hp : d.posting k = false)
    (hs : (d.core k).storeErrs = []) : d.syncAct k = .seq d [] := by
  unfold Dev.syncAct
  exact if_pos ⟨List.all_eq_true.mpr h, by simp [hp], hs⟩

/-- A write of PCTL with CANCEL takes the entry off the wake list. -/
theorem csrWrite_cancel {d : Dev} {k : Nat} {v : Byte} (h7 : bitAt v 7 = true) (h : v &&& 0x78 = 0) : d.csrWrite k 0x38 v = some
    ((d.setCore k { d.core k with
      refused := (d.core k).refused && !bitAt v 2, fired := (d.core k).fired && !bitAt v 1 }).coreCancel k) := by
  unfold Dev.csrWrite
  have hr : (!csrListed 0x38 || csrReadOnly 0x38 || v &&& csrReserved 0x38 != 0 || (decide (0x38 = 0x2D) && decide (v.toNat > 0x5F)) ||
      (decide (0x38 = 0x08) && !(d.core k).activates v)) = false := by
    rw [show csrReserved 0x38 = 0x78 from rfl, h]; rfl
  simp only [hr, h7]
  rfl

/-- A write of PCMP7 puts PCMP into force and arms it. -/
theorem csrWrite_arm (d : Dev) (k : Nat) (v : Byte) :
    d.csrWrite k 0x37 v = some ((d.setCore k (((d.core k).setCsr 0x37 v).inForce 0x37)).coreArm k) := by
  unfold Dev.csrWrite
  have hr : (!csrListed 0x37 || csrReadOnly 0x37 || v &&& csrReserved 0x37 != 0 || (decide (0x37 = 0x2D) && decide (v.toNat > 0x5F)) ||
      (decide (0x37 = 0x08) && !(d.core k).activates v)) = false := by
    rw [show v &&& csrReserved 0x37 = 0 from BitVec.and_zero]; rfl
  simp only [hr]
  rfl

theorem csrwAct_write {d f : Dev} {k n : Nat} {v : Byte} {pc : BitVec 16} (h : d.csrWrite k n v = some f) : d.csrwAct k n v pc = .seq f [] := by
  unfold Dev.csrwAct
  rw [h]

/-- Settles O39: each instruction goes on, waits, halts or traps as its effect says. -/
theorem coreSystemCommandsExecute : Obligations.CoreSystemCommandsExecute := by
  unfold Obligations.CoreSystemCommandsExecute
  intro s k next e c pc at_ trap
  refine ⟨?smooth, ?csrw, ?arm, ?cancel, ?traps, ?wake⟩
  case smooth =>
    intro hs
    refine ⟨?_, ?_, ?_, ?_, ?_, ?_, ?_⟩
    · intro h
      exact runs_core_seq hs rfl rfl h rfl rfl rfl rfl
    · intro h
      exact runs_core_seq hs rfl rfl h rfl rfl rfl rfl
    · intro h hl
      exact runs_seq rfl rfl h (if_pos hl) hs
    · intro h hl
      have hact : e.waitAct k = .stall e := if_neg (by rw [hl]; decide)
      refine runs_core rfl rfl h ?_
      rw [hact]
      rfl
    · intro h hp hpost herr
      exact runs_seq rfl rfl h (syncAct_done hp hpost herr) hs
    · intro h hb f hf hr
      subst hf
      have hact : e.breakAct k next = .halt e := if_pos hb
      refine runs_core rfl rfl h ?_
      rw [hact]
      exact (perform_halt (d0 := s.dev) hs hr).symm
    · intro rd n v h hv
      have hact : e.csrrAct k rd n pc = e.aluAct k rd (v, {}) true := by
        unfold Dev.csrrAct
        rw [hv]
        rfl
      exact runs_alu hs rfl rfl h hact rfl rfl
  case csrw =>
    intro rs n f h hf hs
    exact runs_seq rfl rfl h (csrwAct_write hf) hs
  case arm =>
    intro rs b f h hb hf hs
    obtain ⟨enc, hw, hexec⟩ := h
    obtain rfl : [op16 0x1A (rs * 64 + 0x37)] = enc := by cases hw; rfl
    refine runs_executes rfl hexec ?_
    subst hf hb
    rw [csrwAct_write (csrWrite_arm ..)]
    exact perform_seq hs
  case cancel =>
    intro rs b f h h7 h78 hb hf hs
    obtain ⟨enc, hw, hexec⟩ := h
    obtain rfl : [op16 0x1A (rs * 64 + 0x38)] = enc := by cases hw; rfl
    have hact : e.cancelAct k (c.reg rs) pc = .seq f [] := by
      rw [hf, hb]
      exact (if_pos h7).trans (csrwAct_write (csrWrite_cancel h7 h78))
    refine runs_executes rfl hexec ?_
    exact (congrArg _ hact).trans (perform_seq hs)
  case traps =>
    intro hp g
    refine ⟨fun h hb ht => ?_, fun code h ht => ?_⟩
    · have hact : e.breakAct k next = .trap e 4 none none next := if_neg (by rw [hb]; decide)
      refine runs_core rfl rfl h ?_
      rw [hact]
      exact (perform_trap hp ht).symm
    · exact runs_core rfl rfl h (perform_trap hp ht).symm
  case wake =>
    intro w hw hwait hgate hl hs
    subst hw
    refine runs_of_run (f := fun d => d.waitWake k) rfl ?_
    unfold Dev.waitWake
    rw [if_pos ⟨hwait, hgate, hl⟩]
    exact (perform_seq (smoothAt_setCore hs)).trans rfl

/-! ### What comes from outside -/

/-- The control register of a core is one of its page's own. -/
theorem coreCtrl_writable (k : Fin 64) : blockWritable (corPage k) (corOff k 0) = true := by
  revert k; decide

/-- A write of a core's control register that arrives. -/
theorem wr_coreCtrl {d e : Dev} {a : Nat} {k : Fin 64} (h : d.arrives a (corPage k) (corOff k 0) true = some e)
    (hu : e.unlocked (corPage k) a) (v : Word) : d.wr a (corPage k) (corOff k 0) v = e.coreCtrl a k v := by
  refine (wr_block h hu (coreCtrl_writable k) ?_).symm
  rw [show corPage k = pgWCOR + (⟨k / 8, by omega⟩ : Fin 8) from rfl, writeBlock_wcor]
  exact writeWCOR_ctrl e a k v

/-- The device once a core's control register is written, before RESET takes effect. -/
def Dev.coreCtrlPlain (d : Dev) (a k : Nat) (v : Word) : Dev :=
  if bitAt v 30 then
    (d.plain a (corPage k) (corOff k 0) v).setCore k { (d.plain a (corPage k) (corOff k 0) v).core k with btb := [] }
  else d.plain a (corPage k) (corOff k 0) v

section
variable (d : Dev) (a k : Nat) {v : Word}

/-- RESET goes to 1. -/
theorem coreCtrl_hold (h : bitAt v 31 = true) (hw : d.rb (corPage k) (corOff k 0) 31 = false) : d.coreCtrl a k v =
    ((d.coreCtrlPlain a k v).setCore k { (d.coreCtrlPlain a k v).core k with
      state := .reset, pend := [], storeErrs := [], stepping := false }).breakLocks fun i => i = coreAgent k := by
  unfold Dev.coreCtrl
  simp only [h, hw]
  rfl

/-- RESET goes to 0. -/
theorem coreCtrl_release (h : bitAt v 31 = false) (hw : d.rb (corPage k) (corOff k 0) 31 = true) : d.coreCtrl a k v =
    if ((d.coreCtrlPlain a k v).dom (coreDomain k)).state = .off then (d.coreCtrlPlain a k v).startExit (coreDomain k) false none
    else if ((d.coreCtrlPlain a k v).dom (coreDomain k)).asleep then
      ((d.coreCtrlPlain a k v).coreRelease k).startExit (coreDomain k) false none
    else (d.coreCtrlPlain a k v).coreRelease k := by
  unfold Dev.coreCtrl
  simp only [h, hw]
  rfl

/-- RESET stays. -/
theorem coreCtrl_stays (h : bitAt v 31 = d.rb (corPage k) (corOff k 0) 31) : d.coreCtrl a k v = d.coreCtrlPlain a k v := by
  unfold Dev.coreCtrl
  cases hw : d.rb (corPage k) (corOff k 0) 31 <;> simp only [h, hw] <;> rfl

end

/-- The oldest load of host memory on its way is answered by the host. -/
theorem loadArrives_host {d : Dev} {k : Nat} {q : PendLoad} {bs : List Byte} (hg : d.gate (coreDomain k) = .ok)
    (hq : (d.core k).pend.find? (·.out) = some q) (hh : q.host = true) (hn : bs.length = q.dests.length) :
    d.loadArrives k (some { status := .ok, data := bs }) =
      ((d.quiesceDone (4200 + k)).setPend k { q with data := some bs, arrived := true }).atBoundary k := by
  have hq2 : ((d.quiesceDone (4200 + k)).core k).pend.find? (·.out) = some q := hq
  unfold Dev.loadArrives
  rw [if_neg (not_not_intro hg), hq]
  dsimp only
  rw [if_pos ⟨hh, .inr hn⟩]
  unfold Dev.loadReturn
  rw [show (d.quiesceDone (4200 + k)).replyError { status := .ok, data := bs } = d.quiesceDone (4200 + k) from rfl, hq2]
  dsimp only
  rw [if_pos hh, if_neg (not_and.mpr fun _ => not_not_intro hn)]
  rfl

/-- One whose target has answered gets its data. -/
theorem loadArrives_answered {d : Dev} {k : Nat} {q : PendLoad} (hg : d.gate (coreDomain k) = .ok)
    (hq : (d.core k).pend.find? (·.out) = some q) (hh : q.host = false) (ha : q.data.isSome ∨ q.fail.isSome) :
    d.loadArrives k none = (d.setPend k { q with arrived := true }).atBoundary k := by
  unfold Dev.loadArrives
  rw [if_neg (not_not_intro hg)]
  unfold Dev.loadReturn
  rw [hq]
  dsimp only
  rw [if_neg (by rw [hh]; decide), if_neg (by decide), if_pos ha]

/-- Settles O40: each command by what it finds of its core. -/
theorem coreOutsideCommandsComplete : Obligations.CoreOutsideCommandsComplete := by
  unfold Obligations.CoreOutsideCommandsComplete
  refine ⟨?_, ?_⟩
  · intro s k hgate c hc
    subst hc
    refine ⟨?_, ?_, ?_⟩
    · intro hr hp hi hn hl g hg
      have hdue : s.dev.intDue k = true := by unfold Dev.intDue; simp only [hi, hn, hl]; rfl
      refine runs_of_run (f := fun d => d.interruptEntry k) rfl ?_
      unfold Dev.interruptEntry
      rw [if_pos ⟨hr, hgate, hdue, hp⟩, hg]
      rfl
    · intro q hq
      refine ⟨fun bs hh hn => ?_, fun hh ha => ?_⟩
      · exact runs_of_run (f := fun d => d.loadArrives k (some { status := .ok, data := bs })) rfl (loadArrives_host hgate hq hh hn)
      · exact runs_of_run (f := fun d => d.loadArrives k none) rfl (loadArrives_answered hgate hq hh ha)
    · intro err a rest g herr hr hp hg
      refine runs_of_run (f := fun d => d.postedStoreError k) rfl ?_
      unfold Dev.postedStoreError
      dsimp only
      rw [herr]
      dsimp only
      rw [if_pos ⟨hr, hgate, List.all_eq_true.mpr fun q hq => (hp q hq).1⟩, (loads_done hp).2.2]
      exact congrArg (Option.getD · s.dev) hg
  · intro s k
    refine ⟨?_, ?_⟩
    · intro a e g v ha hu hg
      replace hg : g = e.coreCtrlPlain a k v := hg
      subst hg
      refine ⟨fun hv h31 hwas => ?_, fun hv h31 hwas f hf => ?_, fun hv h30 hwas => ?_⟩
      · refine runs_of_run (f := fun d => d.coreCtrlBit a k 31 true) rfl ?_
        unfold Dev.coreCtrlBit
        rw [← hv, wr_coreCtrl ha hu]
        exact coreCtrl_hold e a k h31 hwas
      · have hrun : ∀ {f'}, e.coreCtrl a k v = f' → Runs (.coreResetRelease a k) s f' := fun hf' => by
          refine runs_of_run (f := fun d => d.coreCtrlBit a k 31 false) rfl ?_
          unfold Dev.coreCtrlBit
          rw [← hv, wr_coreCtrl ha hu]
          exact hf'
        replace hf : f = (e.coreCtrlPlain a k v).coreRelease k := hf
        subst hf
        refine ⟨fun hoff => ?_, fun hoff hsleep => ?_, fun hoff hsleep => ?_⟩ <;> refine hrun ((coreCtrl_release e a k h31 hwas).trans ?_)
        · exact if_pos hoff
        · rw [if_neg hoff, if_pos hsleep]
        · rw [if_neg hoff, if_neg (by rw [hsleep]; decide)]
      · refine runs_of_run (f := fun d => d.coreCtrlBit a k 30 true) rfl ?_
        unfold Dev.coreCtrlBit
        rw [← hv, wr_coreCtrl ha hu]
        exact coreCtrl_stays e a k hwas
    · intro hboot hgate g
      have hmay : ¬ ((s.dev.core k).state ≠ .booting ∨ s.dev.gate (coreDomain k) ≠ .ok) := by
        rw [hboot, hgate]; decide
      refine ⟨fun hc => ?_, fun hc => ?_⟩ <;> refine runs_of_run (f := fun d => d.bootComplete k) rfl ?_ <;>
        unfold Dev.bootComplete <;> rw [if_neg hmay, hc]
      · exact if_pos k.isLt
      · rfl

end Sys2Proof.Machine
end

section
/-!
PROOFS about the frame that trap and interrupt entry build in local RAM (R348).
-/

namespace Sys2Proof.Machine

/-! ### Writing to local RAM -/

/-- An address of some core's local RAM. -/
def inLram (a : Nat) : Prop := 0x04008000 ≤ a ∧ a < 0x04210000

theorem rangeOf_lram {a : Nat} (h : inLram a) : rangeOf a = .lram ((a - lramBase) / 0x8000) := by
  obtain ⟨h1, h2⟩ := h
  unfold rangeOf plainRange
  rw [if_pos (by omega)]
  iterate 7 rw [if_neg (by omega)]
  rw [if_pos (by omega)]

/-- The address of a core's local RAM. -/
theorem inLram_coreLram (k : Fin 65) {x : Nat} (h : x < 0x8000) : inLram (coreLram k + x) := by
  unfold inLram coreLram coreAgent lramBase
  omega

/-- Neither page that checks local RAM has an injection armed. -/
def Dev.lramQuiet (d : Dev) : Prop := d.rf pgMEM 0x02C 4 2 = 0 ∧ d.rf pgKTL 0x02C 4 2 = 0

/-- The checker of a word of local RAM is one of the two pages'. -/
theorem lramQuiet_checker {d : Dev} (h : d.lramQuiet) {a : Nat} (ha : inLram a) (c : Checker) (hc : checkerOf a = some c) :
    d.rf c.page 0x02C 4 2 = 0 := by
  unfold checkerOf at hc
  simp only [rangeOf_lram ha] at hc
  split at hc <;> cases hc
  · exact h.2
  · exact h.1

/-- A part of a word of local RAM is written as it stands. -/
theorem writeWord_lram {d : Dev} {a : Nat} {bs : List Byte} (hq : d.lramQuiet) (ha : inLram a) (hl : bs.length < 8)
    (hp : d.poisoned a = false) : d.writeWord a bs = (false, { d with mem := memPutAll d.mem a bs }) := by
  obtain ⟨h1, h2⟩ := ha
  have hplain : plainAddr a = a := Nat.mod_eq_of_lt (by omega)
  have hword : plainAddr (a / 8 * 8) / 8 = plainAddr a / 8 := by unfold plainAddr; omega
  have hpw : d.poisoned (a / 8 * 8) = false := by
    unfold Dev.poisoned at hp ⊢
    rw [hword]
    exact hp
  rw [writeWord_clean (by omega) hl hpw fun c hc => lramQuiet_checker hq ⟨by omega, by omega⟩ c hc]
  unfold Dev.poke
  rw [hplain]

/-- Two bytes, whether or not they lie in one word. -/
theorem memWrite_lram {d : Dev} {a : Nat} {lo hi : Byte} (hq : d.lramQuiet) (ha : inLram a) (ha1 : inLram (a + 1))
    (hp : d.poisoned a = false) (hp1 : d.poisoned (a + 1) = false) :
    d.memWrite a [lo, hi] = (false, { d with mem := memPutAll d.mem a [lo, hi] }) := by
  have hone : d.writeWord a [lo, hi] = (false, { d with mem := memPutAll d.mem a [lo, hi] }) := writeWord_lram hq ha (by simp) hp
  have hlo : d.writeWord a [lo] = (false, { d with mem := memPutAll d.mem a [lo] }) := writeWord_lram hq ha (by simp) hp
  have hhi : ({ d with mem := memPutAll d.mem a [lo] } : Dev).writeWord (a + 1) [hi] =
      (false, { d with mem := memPutAll (memPutAll d.mem a [lo]) (a + 1) [hi] }) := writeWord_lram hq ha1 (by simp) hp1
  unfold Dev.memWrite
  by_cases h7 : a % 8 = 7
  · have hparts : wordParts a [lo, hi] ([lo, hi].length + 1) = [(a, [lo]), (a + 1, [hi])] := by
      obtain ⟨n, hn⟩ : ∃ n, 8 - (a + 1) % 8 = n + 1 := ⟨7 - (a + 1) % 8, by omega⟩
      simp [wordParts, h7, hn]
    rw [hparts]
    simp only [List.foldl_cons, List.foldl_nil, hlo, hhi]
    rfl
  · have hparts : wordParts a [lo, hi] ([lo, hi].length + 1) = [(a, [lo, hi])] := by
      obtain ⟨n, hn⟩ : ∃ n, 8 - a % 8 = n + 2 := ⟨6 - a % 8, by omega⟩
      simp [wordParts, hn]
    rw [hparts]
    simp only [List.foldl_cons, List.foldl_nil, hone]
    rfl

/-- Counting an access to local RAM changes the ledger alone. -/
theorem countTarget_lram (d : Dev) (tag : Nat) (w : Bool) {a : Nat} (n : Nat) (ha : inLram a) :
    ∃ l, d.countTarget tag w a n = { d with ledger := l } := by
  unfold Dev.countTarget
  rw [rangeOf_lram ha]
  dsimp only
  split
  · exact ⟨d.ledger, rfl⟩
  · exact ⟨_, count_eq ..⟩

/-- `g` is `d` with bytes stored at an address, and with what it counts. -/
structure Dev.StoredAt (d g : Dev) (a : Nat) (bs : List Byte) : Prop where
  mem : g.mem = memPutAll d.mem a bs
  regs : g.regs = d.regs
  poison : g.poison = d.poison
  cores : g.cores = d.cores

/-- A pair pushed into the core's local RAM. -/
theorem frameStore_lram {d : Dev} {k : Fin 65} {x : Nat} (lo hi : Byte) (hx : x + 1 < 0x8000) (hq : d.lramQuiet)
    (hp : d.poisoned (coreLram k + x) = false) (hp1 : d.poisoned (coreLram k + x + 1) = false) :
    ∃ g, d.frameStore k x [lo, hi] = some (true, g) ∧ d.StoredAt g (coreLram k + x) [lo, hi] := by
  have h0 : viewRow x = 0 := if_pos (by omega)
  have h1 : viewRow (x + 1) = 0 := if_pos hx
  have hw := memWrite_lram (lo := lo) (hi := hi) hq (inLram_coreLram k (x := x) (by omega)) (inLram_coreLram k hx) hp hp1
  obtain ⟨l, hl⟩ := countTarget_lram { d with mem := memPutAll d.mem (coreLram k + x) [lo, hi] } (d.coreTag k) true 2
    (inLram_coreLram k (x := x) (by omega))
  refine ⟨{ d with mem := memPutAll d.mem (coreLram k + x) [lo, hi], ledger := l }, ?_, rfl, rfl, rfl, rfl⟩
  unfold Dev.frameStore Dev.viewStore
  rw [if_neg (by rw [h0, h1]; simp), h0]
  dsimp only
  unfold Dev.localWrite
  rw [hw]
  dsimp only [List.length_cons, List.length_nil]
  rw [hl]
  rfl

/-! ### The frame -/

/-- The other cores are as they were. -/
theorem core_setCore_other (d : Dev) {j k : Nat} {v : Core} (hv : v ≠ {}) (h : j ≠ k) : (d.setCore k v).core j = d.core j := by
  unfold Dev.setCore Dev.core smGet smSet
  rw [if_neg hv]
  dsimp only
  rw [smFind_smPut_other _ _ h]

/-- An entry whose two pairs are stored. -/
theorem entry_stored {d d1 d2 : Dev} {k : Nat} {ret vec : BitVec 16}
    (h1 : (d.setCore k ((d.core k).setPair 15 ((d.core k).pair 15 - 4))).frameStore k ((d.core k).pair 15 - 4).toNat [(d.core k).flags, 0] =
      some (true, d1))
    (h2 : d1.frameStore k ((d.core k).pair 15 - 4 + 2).toNat [ret.truncate 8, (ret >>> 8).truncate 8] = some (true, d2)) :
    d.entry k ret vec = some (d2.setCore k { d2.core k with i := false, pc := vec, noInt := false }) := by
  unfold Dev.entry
  dsimp only
  rw [h1]
  dsimp only
  rw [h2]

/-- What the checks of local RAM look at stays where registers and poison stay. -/
theorem lramQuiet_congr {d g : Dev} (h : d.lramQuiet) (hr : g.regs = d.regs) : g.lramQuiet := by
  unfold Dev.lramQuiet Dev.rf Dev.reg at *
  rw [hr]
  exact h

theorem poisoned_congr {d g : Dev} (h : g.poison = d.poison) (a : Nat) : g.poisoned a = d.poisoned a := by
  unfold Dev.poisoned
  rw [h]

/-- Two stores one behind the other are one store. -/
theorem StoredAt.trans {d g f : Dev} {a b : Nat} {bs cs : List Byte} (h1 : d.StoredAt g a bs) (h2 : g.StoredAt f b cs) (hb : b = a + bs.length) :
    d.StoredAt f a (bs ++ cs) where
  mem := by rw [h2.mem, h1.mem, memPutAll_append, hb]
  regs := h2.regs.trans h1.regs
  poison := h2.poison.trans h1.poison
  cores := h2.cores.trans h1.cores

/-- Entry stores its frame, and then changes its core. -/
theorem entry_lram {d : Dev} {k : Fin 65} {ret vec : BitVec 16} {sp : Nat} {c : Core} (hc : c = (d.core k).setPair 15 ((d.core k).pair 15 - 4))
    (hr : (d.core k).state = .running) (hsp : sp = ((d.core k).pair 15 - 4).toNat) (hlt : sp + 3 < 0x8000)
    (hp : ∀ x, x < 4 → d.poisoned (coreLram k + sp + x) = false) (hq : d.lramQuiet) :
    ∃ f, (d.setCore k c).StoredAt f (coreLram k + sp) [(d.core k).flags, 0, ret.truncate 8, (ret >>> 8).truncate 8] ∧
      d.entry k ret vec = some (f.setCore k { c with i := false, pc := vec, noInt := false }) := by
  have hsp2 : ((d.core k).pair 15 - 4 + 2).toNat = sp + 2 := by
    rw [BitVec.toNat_add, ← hsp]
    exact Nat.mod_eq_of_lt (by simp; omega)
  have hrun : c.state = .running := by rw [hc]; exact hr
  obtain ⟨g, hg, sg⟩ := frameStore_lram (d := d.setCore k c) (x := sp) (d.core k).flags 0 (by omega) (lramQuiet_congr hq rfl)
    (hp 0 (by omega)) (hp 1 (by omega))
  obtain ⟨f, hf, sf⟩ := frameStore_lram (d := g) (k := k) (x := sp + 2) (ret.truncate 8) ((ret >>> 8).truncate 8) (by omega)
    (lramQuiet_congr hq sg.regs) ((poisoned_congr sg.poison _).trans (hp 2 (by omega))) ((poisoned_congr sg.poison _).trans (hp 3 (by omega)))
  rw [hsp, hc] at hg
  rw [← hsp2] at hf
  have hcore : f.core k = c := by
    rw [← core_setCore_running d k hrun]
    unfold Dev.core
    rw [sf.cores, sg.cores]
  refine ⟨f, StoredAt.trans sg sf rfl, ?_⟩
  rw [entry_stored hg hf, hcore]

/-- Settles O56: two pairs are stored below the stack pointer, one after the other. -/
theorem entryBuildsTheFrame : Obligations.EntryBuildsTheFrame := by
  unfold Obligations.EntryBuildsTheFrame
  intro d k ret vec c sp a hc hr hm hsp hlt ha hp hq1 hq2
  subst hc ha
  obtain ⟨f, sf, hf⟩ := entry_lram (ret := ret) (vec := vec) rfl hr hsp hlt hp ⟨hq1, hq2⟩
  have hplain : plainAddr (coreLram k + sp) = coreLram k + sp := by
    obtain ⟨-, h⟩ := inLram_coreLram k (x := sp) (by omega)
    exact Nat.mod_eq_of_lt (by omega)
  refine ⟨_, hf, ?peek, ?mem, ?core, sf.regs, sf.poison, ?others⟩
  case peek =>
    show memBytes f.mem (plainAddr (coreLram k + sp)) 4 = _
    rw [hplain, sf.mem]
    exact memBytes_memPutAll hm _ _
  case mem =>
    intro x hx
    show memByte f.mem x = _
    rw [sf.mem]
    exact memByte_memPutAll_other hm _ hx
  case core => exact core_setCore_running f k hr
  case others =>
    intro j hj
    have hset : f.core j = (d.setCore k ((d.core k).setPair 15 ((d.core k).pair 15 - 4))).core j := by
      unfold Dev.core
      rw [sf.cores]
      rfl
    refine (core_setCore_other f ?_ hj).trans (hset.trans (core_setCore_other d ?_ hj)) <;> exact core_ne_of_running hr

end Sys2Proof.Machine
end

section
/-!
PROOFS about the operations of the subchannels, the SCB window and dispatch (R131-R154, R172).
-/

namespace Sys2Proof.Machine

/-! ### Operations (R131-R136) -/

/-- The fields of an operation word. -/
theorem opWord_fields {opc sub : Nat} (hopc : opc < 16) (hsub : sub < 256) :
    fld (opWord opc sub) 28 4 = opc ∧ fld (opWord opc sub) 0 8 = sub := by
  unfold opWord fput w32 fld
  simp only [BitVec.toNat_ofNat]
  omega

theorem opReg_writable (n : Fin 16) : blockWritable (pgCE + n) 0x040 = true := by
  revert n; decide

theorem scbWindow_writable (n k : Fin 16) : blockWritable (pgCE + n) (0x080 + 4 * k) = true := by
  revert n k; decide

/-- The word that an operation leaves in OP_RESULT. -/
def opResult (opc sub : Nat) (st : SubState) (res : Nat) : Word := w32 (fput 28 4 opc + fput 8 8 sub + fput 4 4 st.code + res)

section
variable {s : State} {a : Agent} {n : Fin 16} {sub : Fin 256} {e : Dev} {i opc : Nat}
  (hb : agentBanked a = true) (ha : s.dev.arrives a (pgCE + n) 0x040 true = some e) (hu : e.unlocked (pgCE + n) a)
  (hf : e.isFenced (ceDom n) = false) (hi : i = 256 * n + sub) (ho : 1 ≤ opc ∧ opc ≤ 5)
  (hen : opc = 1 ∨ opc = 2 → e.pageEn (pgCE + n) = true)
include hb ha hu hf hi ho hen

/-- An operation that arrives at an unfenced engine, with its page enabled where it must be. -/
theorem wr_ceOp : s.dev.wr a (pgCE + n) 0x040 (opWord opc sub) =
    if opAllowed opc (e.scb i).state false then
      (e.opEffect opc i (BitVec.ofNat 48 (cat64 (e.bank (pgCE + n) 0x04C a) (e.bank (pgCE + n) 0x048 a)).toNat)).setBank (pgCE + n) 0x044 a
        (opResult opc sub (e.scb i).state 1)
    else e.setBank (pgCE + n) 0x044 a (opResult opc sub (e.scb i).state 2) := by
  obtain ⟨h28, h0⟩ := opWord_fields (opc := opc) (sub := sub) (by omega) sub.isLt
  have hrefused : ((opc = 1 || opc = 2) && (!e.pageEn (pgCE + n) || e.ceDraining n)) = false := by
    by_cases h : opc = 1 ∨ opc = 2
    · unfold Dev.ceDraining
      rw [hen h]
      simp
    · simpa using fun h' => absurd h' h
  refine (wr_block ha hu (opReg_writable n) ?_).symm
  rw [writeBlock_ce]
  unfold Dev.writeCE
  rw [hb]
  simp only [Bool.not_true, Bool.false_eq_true, if_false, if_true]
  unfold Dev.ceOp
  simp only [h28, h0, hf, hrefused, ← hi, Bool.false_and, Bool.false_eq_true, if_false]
  rw [if_neg (by omega)]
  cases opAllowed opc (e.scb i).state false <;> rfl

/-- One that the state of its subchannel does not allow. -/
theorem runs_badState {q : Instr} (hx : exec q s = s.run fun d => d.wr a (pgCE + n) 0x040 (opWord opc sub))
    (hst : opAllowed opc (e.scb i).state false = false) :
    Runs q s (e.setBank (pgCE + n) 0x044 a (opResult opc sub (e.scb i).state 2)) := by
  refine runs_of_run hx ?_
  rw [wr_ceOp hb ha hu hf hi ho hen, hst, if_neg (by decide)]

/-- One that it allows. -/
theorem runs_operation {q : Instr} (hx : exec q s = s.run fun d => d.wr a (pgCE + n) 0x040 (opWord opc sub))
    (hst : opAllowed opc (e.scb i).state false = true) {t : Dev}
    (ht : e.opEffect opc i (BitVec.ofNat 48 (cat64 (e.bank (pgCE + n) 0x04C a) (e.bank (pgCE + n) 0x048 a)).toNat) = t) :
    Runs q s (t.setBank (pgCE + n) 0x044 a (opResult opc sub (e.scb i).state 1)) := by
  refine runs_of_run hx ?_
  rw [wr_ceOp hb ha hu hf hi ho hen, if_pos hst, ht]

end

/-- Settles O16: an operation whose state R135 does not name changes the result register alone. -/
theorem badStateHasNoEffect : Obligations.BadStateHasNoEffect := by
  unfold Obligations.BadStateHasNoEffect
  intro s a n sub e i st bad hb ha hu hf hi hst hbad
  subst hbad hst
  have hnone : ∀ opc, 3 ≤ opc → opc = 1 ∨ opc = 2 → e.pageEn (pgCE + n) = true := fun opc h h' => by omega
  refine ⟨fun hen h => ?_, fun hen h => ?_, fun h => ?_, fun h => ?_, fun h => ?_⟩
  · exact runs_badState hb ha hu hf hi (by decide) (fun _ => hen) rfl (by simpa [opAllowed] using h)
  · exact runs_badState hb ha hu hf hi (by decide) (fun _ => hen) rfl (by simpa [opAllowed] using h)
  · refine runs_badState hb ha hu hf hi (by decide) (hnone 3 (by decide)) rfl ?_
    rcases h with h | h <;> rw [h] <;> rfl
  · refine runs_badState hb ha hu hf hi (by decide) (hnone 4 (by decide)) rfl ?_
    rcases h with h | h | h | h <;> rw [h] <;> rfl
  · exact runs_badState hb ha hu hf hi (by decide) (hnone 5 (by decide)) rfl (by simpa [opAllowed] using h)

/-- A fold and a sample change neither an SCB nor memory nor the wake list. -/
theorem sample_foldTag_frame (e : Dev) (i : Nat) : ((e.foldTag i).sample i).1 = e.now ∧
    ((e.foldTag i).sample i).2.scbs = e.scbs ∧ ((e.foldTag i).sample i).2.mem = e.mem ∧ ((e.foldTag i).sample i).2.wl = e.wl := by
  obtain ⟨hv, he⟩ := sample_eq (e.foldTag i) i
  rw [hv, he, foldTag_eq]
  exact ⟨rfl, rfl, rfl, rfl⟩

/-- An image is no SCB. -/
@[simp] theorem copyImage_scb (d : Dev) (i j : Nat) : (d.copyImage i).scb j = d.scb j := rfl

/-- START leaves CLASS, RING, BINDING and BUDGET, and sets the program's own fields anew. -/
theorem subStart_scb (e : Dev) (i : Nat) (a : BitVec 48) : (e.subStart i a).scb i = { e.scb i with
    state := .pending, cause := .none, ccwAddr := a, residual := 0, lastDevstat := 0, programT0 := e.now,
    startMark := ((e.foldTag i).sample i).2.acc i, haltReq := false, suspReq := false } := by
  obtain ⟨hv, hs, -, -⟩ := sample_foldTag_frame e i
  have hscb : ((e.foldTag i).sample i).2.scb i = e.scb i := by unfold Dev.scb; rw [hs]
  rw [← hv, ← hscb]
  unfold Dev.subStart
  rw [copyImage_scb]
  exact scb_setScb _ i fun h => absurd (congrArg Scb.state h) (by simp)

theorem subStart_frame (e : Dev) (i : Nat) (a : BitVec 48) : (e.subStart i a).mem = e.mem ∧ (e.subStart i a).wl = e.wl :=
  (sample_foldTag_frame e i).2.2

/-- Every SPI select released leaves SCBs, contexts and memory. -/
theorem releaseSelect_frame (d : Dev) (i : Nat) : (d.releaseSelect i).scbs = d.scbs ∧ (d.releaseSelect i).ctxs = d.ctxs ∧
    (d.releaseSelect i).mem = d.mem := by
  have h : ∀ (d : Dev) (e : Nat × Spi), d.spiReleased e.1 = { d with
      spis := (d.spiReleased e.1).spis, regs := (d.spiReleased e.1).regs } := fun d e => by
    unfold Dev.spiReleased
    rw [bump_eq]
    rfl
  unfold Dev.releaseSelect
  exact ⟨foldl_keep Dev.scbs (fun d e => by rw [h]) _ d, foldl_keep Dev.ctxs (fun d e => by rw [h]) _ d,
    foldl_keep Dev.mem (fun d e => by rw [h]) _ d⟩

/-- A program that holds neither a burst nor a slot gives up what it holds without a change of SCBs or memory. -/
theorem quit_frame {d : Dev} {i : Nat} (hb : (d.ctx i).burst = 0) (hg : (d.ctx i).granted = none) :
    (d.quit i).scbs = d.scbs ∧ (d.quit i).mem = d.mem := by
  obtain ⟨f, hf⟩ : ∃ f, f = (d.wlRemove i .subch i).freeStream i := ⟨_, rfl⟩
  have hw : f.scbs = d.scbs ∧ f.ctxs = d.ctxs ∧ f.mem = d.mem := by
    rw [hf, wlRemove_eq]
    exact ⟨rfl, rfl, rfl⟩
  have hctx : f.ctx i = d.ctx i := by unfold Dev.ctx; rw [hw.2.1]
  have hheld : (f.dropBurst i).dropSlot i = f := by
    unfold Dev.dropBurst
    rw [hctx, if_pos hb]
    unfold Dev.dropSlot
    rw [hctx, hg, if_neg (by decide)]
  obtain ⟨h1, -, h3⟩ := releaseSelect_frame f i
  unfold Dev.quit
  rw [← hf, hheld]
  exact ⟨h1.trans hw.1, h3.trans hw.2.2⟩

/-- CLEAR, beyond what the program gives up, sets its SCB to the four fields that stay. -/
theorem subClear_frame (d : Dev) (i : Nat) : (d.subClear i).scbs = smSet (d.quit i).scbs i
      { cls := ((d.quit i).scb i).cls, ring := ((d.quit i).scb i).ring, binding := ((d.quit i).scb i).binding,
        budget := ((d.quit i).scb i).budget } {} ∧ (d.subClear i).mem = (d.quit i).mem := by
  unfold Dev.subClear
  generalize d.quit i = q
  exact ⟨rfl, rfl⟩

/-- Settles O15: each accepted operation, by its effect of R135. -/
theorem operationsTakeEffect : Obligations.OperationsTakeEffect := by
  unfold Obligations.OperationsTakeEffect
  intro s a n sub e i done hb ha hu hf hi hdone
  subst hdone
  have hnone : ∀ opc, 3 ≤ opc → opc = 1 ∨ opc = 2 → e.pageEn (pgCE + n) = true := fun opc h h' => by omega
  have hhalt : ∀ t, e.subHalt i = t → opAllowed 3 (e.scb i).state false = true →
      Runs (.halt a n sub) s (t.setBank (pgCE + n) 0x044 a (opResult 3 sub (e.scb i).state 1)) := fun t ht hst =>
    runs_operation hb ha hu hf hi (by decide) (hnone 3 (by decide)) rfl hst ht
  refine ⟨?start, fun hen hst => ?_, fun hst hh => ?_, fun hst hh => ?_, fun hst hh => ?_, fun hst => ?_, ?clear⟩
  case start =>
    intro hen hst
    refine ⟨_, runs_operation hb ha hu hf hi (by decide) (fun _ => hen) rfl (by rw [hst]; rfl) rfl, ?_⟩
    rw [show ∀ x, e.opEffect 1 i x = e.subStart i x from fun x => rfl, subStart_scb]
    exact ⟨rfl, rfl, rfl, rfl, rfl, rfl, rfl, rfl, rfl, rfl, rfl, subStart_frame ..⟩
  · exact runs_operation hb ha hu hf hi (by decide) (fun _ => hen) rfl (by rw [hst]; rfl) rfl
  · refine hhalt _ ?_ (by rw [hst]; rfl)
    unfold Dev.subHalt
    dsimp only
    rw [if_neg (by rw [hh]; decide), hst]
  · refine hhalt _ ?_ (by rw [hst]; rfl)
    exact if_pos hh
  · refine hhalt _ ?_ (by rw [hst]; rfl)
    unfold Dev.subHalt
    dsimp only
    rw [if_neg (by rw [hh]; decide), hst]
  · refine runs_operation hb ha hu hf hi (by decide) (hnone 4 (by decide)) rfl ?_ rfl
    rcases hst with h | h | h <;> rw [h] <;> rfl
  case clear =>
    intro hst
    refine ⟨_, runs_operation hb ha hu hf hi (by decide) (hnone 5 (by decide)) rfl (by rw [hst]; rfl) rfl, fun hbu hg => ?_⟩
    obtain ⟨hs, hm⟩ := quit_frame hbu hg
    obtain ⟨hcs, hcm⟩ := subClear_frame e i
    have hscb : (e.quit i).scb i = e.scb i := by unfold Dev.scb; rw [hs]
    rw [hscb, hs] at hcs
    exact ⟨hcs, hcm.trans hm⟩

/-! ### The SCB window (R133, R172) -/

section
variable {s : State} {a : Agent} {n k : Fin 16} {v : Word} {e : Dev} {i : Nat}
  (hb : agentBanked a = true) (ha : s.dev.arrives a (pgCE + n) (0x080 + 4 * k) true = some e) (hu : e.unlocked (pgCE + n) a)
  (hi : i = 256 * n + (e.bank (pgCE + n) 0x050 a).toNat % 256)
include hb ha hu hi

/-- A write of a word of the window is the SCB's own write, or is discarded with BAD_WRITE. -/
theorem runs_scbWindow {f : Dev} (hf : (e.scbWrite i k v).getD (e.badWrite (pgCE + n) a (0x080 + 4 * k)) = f) :
    Runs (.scbWindowWrite a n k v) s f := by
  subst hf
  have hblock : e.writeBlock a (e.tagOf a) (pgCE + n) (0x080 + 4 * k) v = e.scbWrite i k v := by
    rw [writeBlock_ce]
    unfold Dev.writeCE
    rw [hb]
    simp only [Bool.not_true, Bool.false_eq_true, if_false]
    rw [if_neg (by omega), if_neg (by omega), if_neg (by omega), if_pos (by omega), ← hi, show (0x080 + 4 * k.val - 0x080) / 4 = k by omega]
  refine runs_of_run (f := fun d => d.wr a (pgCE + n) (0x080 + 4 * k) v) rfl ?_
  cases hs : e.scbWrite i k v with
  | some g => exact (wr_block ha hu (scbWindow_writable n k) (hblock.trans hs)).symm
  | none => exact wr_block_discarded ha hu (scbWindow_writable n k) (hblock.trans hs)

end

/-- Settles O17: each word by the rule of R133 for it. -/
theorem scbWindowWritesComplete : Obligations.ScbWindowWritesComplete := by
  unfold Obligations.ScbWindowWritesComplete
  intro s a n k v e i b hb ha hu hi hbi
  subst hbi
  refine ⟨fun hk h => ?_, fun hk h hok => ?_, fun hk h => ?_, fun h => ?_, fun h0 h1 h12 => ?_⟩ <;>
    refine runs_scbWindow hb ha hu hi ?_ <;> unfold Dev.scbWrite
  · subst hk
    have hn : ¬ (BitVec.ofNat 7 (fld v 24 7) ≠ (e.scb i).ring ∧ (!decide ((e.scb i).state = .idle)) = true) := by
      rintro ⟨h1, h2⟩
      rcases h with h | h
      · rw [h] at h2; exact absurd h2 (by decide)
      · exact h1 h
    dsimp only
    rw [if_pos (by rfl), if_neg hn]
    rfl
  · have hv : k.val = 1 := congrArg Fin.val hk
    rw [hv]
    simp [h, hok]
  · have hv : k.val = 12 := congrArg Fin.val hk
    rw [hv]
    simp [h]
  · rcases h with ⟨hk, h, hr⟩ | ⟨hk, h⟩ | ⟨hk, h⟩
    · have hv : k.val = 0 := congrArg Fin.val hk
      rw [hv]
      simp [h, hr]
    · have hv : k.val = 1 := congrArg Fin.val hk
      rw [hv]
      rcases h with h | h <;> simp [h]
    · have hv : k.val = 12 := congrArg Fin.val hk
      rw [hv]
      simp [h]
  · have h0' : k.val ≠ 0 := fun h => h0 (Fin.ext h)
    have h1' : k.val ≠ 1 := fun h => h1 (Fin.ext h)
    have h12' : k.val ≠ 12 := fun h => h12 (Fin.ext h)
    dsimp only
    rw [if_neg h0', if_neg h1', if_neg h12']
    rfl

end Sys2Proof.Machine
end

section
/-!
PROOFS about the sequencer of an engine: dispatch, fetch and completion (R90-R94, R127, R138-R154).
-/

namespace Sys2Proof.Machine

/-- A command of an engine whose unit is awake and not fenced. -/
theorem runs_onEngine {q : Instr} {s : State} {n : Nat} {f : Dev → Dev} {e : Dev} (hx : exec q s = s.run fun d => d.onEngine n f)
    (hg : s.dev.gate (ceDom n) = .ok) (he : f s.dev = e) : Runs q s e := by
  refine runs_of_run hx ?_
  unfold Dev.onEngine
  rw [if_pos hg, he]

/-- Settles O18: the pick of R140, and then the three ways on. -/
theorem dispatchPicksASubchannel : Obligations.DispatchPicksASubchannel := by
  unfold Obligations.DispatchPicksASubchannel
  intro s n i e hg hidle hpick he
  subst he
  refine ⟨fun hp => ?_, fun hp hb hs => ?_, fun hp hb => ?_⟩ <;> refine runs_onEngine (f := fun d => d.dispatch n) rfl hg ?_ <;>
    unfold Dev.dispatch <;> rw [hidle, if_neg (by decide), hpick] <;> dsimp only
  · exact if_pos hp
  · rw [if_neg (not_not_intro hp), if_pos ⟨hb, hs⟩]
  · rw [if_neg (not_not_intro hp), if_neg]
    rintro ⟨h1, h2⟩
    rcases hb with h | h
    · rw [h] at h1; cases h1
    · rw [h] at h2; cases h2

/-- A CCW with an undefined command code ends with INVALID_OP. -/
theorem ccwArrives_undefined (d : Dev) (i : Nat) {bs : List Byte} (h : opDefined (parseCcw bs).op.toNat = false) :
    d.ccwArrives i bs = d.raiseExc i xINVALID ((parseCcw bs).op.zeroExtend 32) (parseCcw bs).count := by
  unfold Dev.ccwArrives Dev.validate
  simp only [h, Bool.not_false, if_true]

section
variable {d : Dev} {n i : Nat} (ha : d.activeSub n = some i) (hp : (d.ctx i).phase = .fetching)
include ha hp

/-- A fetch from device memory brings what lies there, poisoned or not. -/
theorem ccwFetched_device (hw : rangeOf (d.scb i).ccwAddr.toNat ≠ .hostwin) {e : Dev}
    (hr : d.reach (ceDom n) (d.scb i).ccwAddr.toNat = (.ok, e)) : d.ccwFetched n none =
      if (e.memRead (d.scb i).ccwAddr.toNat 32).2.1 then
        ((e.memRead (d.scb i).ccwAddr.toNat 32).2.2.countAccess i (ceDom n) false (d.scb i).ccwAddr.toNat 32).raiseExc i xDATA 0 0
      else ((e.memRead (d.scb i).ccwAddr.toNat 32).2.2.countAccess i (ceDom n) false (d.scb i).ccwAddr.toNat 32).ccwArrives i
        (e.memRead (d.scb i).ccwAddr.toNat 32).1 := by
  unfold Dev.ccwFetched Dev.fetchComplete
  simp only [ha, hp, ne_eq, not_true, if_false, if_neg hw, hr]

/-- From fenced memory it brings nothing. -/
theorem ccwFetched_fenced (hw : rangeOf (d.scb i).ccwAddr.toNat ≠ .hostwin) {e : Dev}
    (hr : d.reach (ceDom n) (d.scb i).ccwAddr.toNat = (.fenced, e)) : d.ccwFetched n none = e.raiseExc i xENGINE 3 0 := by
  unfold Dev.ccwFetched Dev.fetchComplete
  simp only [ha, hp, ne_eq, not_true, if_false, if_neg hw, hr]

end

/-- An error of a port shows in its configuration words and as a fault event alone. -/
theorem pcieError_eq (d : Dev) (p : Nat) (x : PcieError) :
    d.pcieError p x = { d with cfg := (d.pcieError p x).cfg, faults := (d.pcieError p x).faults } := by
  unfold Dev.pcieError
  dsimp only
  repeat' split
  all_goals rfl

/-- A failed reply is reported there, and another changes nothing. -/
theorem replyError_eq (d : Dev) (r : HostReply) :
    d.replyError r = { d with cfg := (d.replyError r).cfg, faults := (d.replyError r).faults } := by
  unfold Dev.replyError
  cases r.status <;> dsimp only
  all_goals exact pcieError_eq ..

/-- A reply that ends a request changes what waits for it, and what a failed one is reported by. -/
theorem hostEnds_eq (d : Dev) (i : Nat) (r : HostReply) : d.hostEnds i r =
    { d with quiesce := (d.quiesceDone i).quiesce, cfg := (d.hostEnds i r).cfg, faults := (d.hostEnds i r).faults } :=
  replyError_eq (d.quiesceDone i) r

/-- So its engine works for the same subchannel, in the same state. -/
theorem hostEnds_frame (d : Dev) (i : Nat) (r : HostReply) : (∀ n, (d.hostEnds i r).activeSub n = d.activeSub n) ∧
    (∀ j, (d.hostEnds i r).ctx j = d.ctx j) ∧ ∀ j, (d.hostEnds i r).scb j = d.scb j := by
  rw [hostEnds_eq]
  exact ⟨fun _ => rfl, fun _ => rfl, fun _ => rfl⟩

section
variable {d : Dev} {n i : Nat} (ha : d.activeSub n = some i) (hp : (d.ctx i).phase = .fetching)
include ha hp

/-- A fetch from the host window, by the host's reply. -/
theorem ccwFetched_host (hw : rangeOf (d.scb i).ccwAddr.toNat = .hostwin) {r : HostReply} (hr : r.status ≠ .ok ∨ r.data.length = 32) :
    (r.status = .ok → d.ccwFetched n (some r) = (d.hostEnds i r).ccwArrives i r.data) ∧
    (r.status = .poisoned → d.ccwFetched n (some r) = (d.hostEnds i r).raiseExc i xDATA 0 0) ∧
    (r.status ≠ .ok → r.status ≠ .poisoned → d.ccwFetched n (some r) = (d.hostEnds i r).raiseExc i xADDRESS 0x8009 0) := by
  obtain ⟨hact, hctx, hscb⟩ := hostEnds_frame d i r
  unfold Dev.ccwFetched
  rw [ha]
  dsimp only
  rw [if_pos ⟨hp, hw, hr⟩]
  unfold Dev.fetchComplete
  rw [hact, ha]
  dsimp only
  rw [hctx, if_neg (not_not_intro hp), hscb, if_pos hw]
  cases r.status <;> simp

end

/-- Settles O19: the fetch by its path, and by the reply of the host. -/
theorem fetchBringsTheCcw : Obligations.FetchBringsTheCcw := by
  unfold Obligations.FetchBringsTheCcw
  intro s n i e f addr bs poison hg ha hp haddr
  subst haddr
  refine ⟨fun hw hr hm => ?_, fun hw hr => ?_, fun hw r => ?_, fun g h => ccwArrives_undefined g i h⟩
  · have hdev := ccwFetched_device ha hp hw hr
    rw [hm] at hdev
    refine ⟨fun hpo => ?_, fun hpo => ?_⟩ <;> refine runs_onEngine (f := fun d => d.ccwFetched n none) rfl hg (hdev.trans ?_)
    · exact if_neg (by simp [hpo])
    · exact if_pos hpo
  · exact runs_onEngine (f := fun d => d.ccwFetched n none) rfl hg (ccwFetched_fenced ha hp hw hr)
  · have hrun : ∀ {g}, s.dev.ccwFetched n (some r) = g → Runs (.ccwFetchComplete n (some r)) s g := fun hgd =>
      runs_onEngine (f := fun d => d.ccwFetched n (some r)) rfl hg hgd
    refine ⟨fun hr hl => ?_, fun hr => ?_, fun hok hpo => ?_⟩
    · exact hrun ((ccwFetched_host ha hp hw (.inr hl)).1 hr)
    · exact hrun ((ccwFetched_host ha hp hw (.inl (by rw [hr]; decide))).2.1 hr)
    · exact hrun ((ccwFetched_host ha hp hw (.inl hok)).2.2 hok hpo)

/-! ### Completion -/

/-- The completion of a NOP that chains on plans no record, and to go on to the CCW behind it. -/
theorem ccwCompletion_nop {d : Dev} {i : Nat} (hop : (d.ctx i).ccw.op = 0x30) (hcc : (d.ctx i).ccw.cc = true) (hcd : (d.ctx i).ccw.cd = false)
    (hh : (d.ctx i).headA = (d.ctx i).ccw.flagsA) (hp : bitAt (d.ctx i).ccw.flagsA 0 = false)
    (hb : (d.foldTag i).boundHit i true = none) : ∃ e, e = (d.foldTag i).setCtx i { d.ctx i with ticRun := 0 } ∧
      d.ccwCompletion i = (e.setScb i { e.scb i with inChain := false }).setCtx i { e.ctx i with
        plan := [], after := some (.next (BitVec.ofNat 48 ((d.scb i).ccwAddr.toNat + 32))), succ := false } := by
  have hctx : (d.foldTag i).ctx i = d.ctx i := by rw [foldTag_eq]; rfl
  have hscb : (d.foldTag i).scb i = d.scb i := by rw [foldTag_eq]; rfl
  have hpost : bitAt (d.ctx i).headA 0 = false := by rw [hh, hp]
  refine ⟨_, rfl, ?_⟩
  unfold Dev.ccwCompletion
  simp only [hctx, hscb, hop, hcc, hcd, hpost, hb]
  rfl

/-- What follows a CCW with no exception to raise, where neither HALT nor draining stops the program (R161). -/
theorem applyAfter_next {d : Dev} {i : Nat} {a : BitVec 48} (hx : (d.ctx i).exc = none) (hh : (d.scb i).haltReq = false)
    (hen : d.pageEn (pgCE + i / 256) = true) : d.applyAfter i false (.next a) =
      (((d.setCtx i { d.ctx i with after := none }).setScb i { d.scb i with ccwAddr := a }).setCtx i
        { (d.setCtx i { d.ctx i with after := none }).ctx i with phase := .fetch, boundary := true }).setSub i .pending .none := by
  unfold Dev.applyAfter
  dsimp only
  rw [hx]
  dsimp only
  rw [if_neg (by rw [hh]; decide), if_neg (by rw [hen]; decide)]
  rfl

@[simp] theorem setScb_ctx (d : Dev) (i j : Nat) (v : Scb) : (d.setScb i v).ctx j = d.ctx j := rfl
@[simp] theorem setCtx_scb (d : Dev) (i j : Nat) (v : Ctx) : (d.setCtx i v).scb j = d.scb j := rfl
@[simp] theorem setSub_ctx (d : Dev) (i j : Nat) (st : SubState) (c : Cause) : (d.setSub i st c).ctx j = d.ctx j := rfl

@[simp] theorem setSub_mem (d : Dev) (i : Nat) (st : SubState) (c : Cause) : (d.setSub i st c).mem = d.mem := rfl

/-- A subchannel given a state other than IDLE reads back with it. -/
theorem setSub_scb (d : Dev) (i : Nat) {st : SubState} (h : st ≠ .idle) (c : Cause) :
    (d.setSub i st c).scb i = { d.scb i with state := st, cause := c } :=
  scb_setScb d i (v := { d.scb i with state := st, cause := c }) fun he => h (congrArg Scb.state he)

/-- With nothing planned, the program of an enabled engine that no HALT has reached goes on at an address. -/
theorem go_next {d : Dev} {i : Nat} {a : BitVec 48} (hp : (d.ctx i).plan = []) (hf : (d.ctx i).after = some (.next a))
    (hx : (d.ctx i).exc = none) (hst : (d.scb i).state = .active) (hh : (d.scb i).haltReq = false)
    (hen : d.pageEn (pgCE + i / 256) = true) (hph : (d.ctx i).phase = .done) :
    (d.go i).scb i = { d.scb i with ccwAddr := a, state := .pending, cause := .none } ∧
    (d.go i).ctx i = { d.ctx i with after := none, phase := .fetch, boundary := true } ∧ (d.go i).mem = d.mem := by
  obtain ⟨g, hg⟩ : ∃ g, g = d.applyAfter i false (.next a) := ⟨_, rfl⟩
  have hnext := hg.trans (applyAfter_next hx hh hen)
  have hctx1 : (d.setCtx i { d.ctx i with after := none }).ctx i = { d.ctx i with after := none } :=
    ctx_setCtx d i fun h => absurd ((congrArg Ctx.phase h).symm.trans hph) (by decide)
  have hctx : g.ctx i = { d.ctx i with after := none, phase := .fetch, boundary := true } := by
    rw [hnext, hctx1, setSub_ctx]
    exact ctx_setCtx _ i fun h => absurd (congrArg Ctx.boundary h) (by simp)
  have hscb : g.scb i = { d.scb i with ccwAddr := a, state := .pending, cause := .none } := by
    rw [hnext, setSub_scb _ i (by decide), setCtx_scb, scb_setScb]
    exact fun h => absurd ((congrArg Scb.state h).symm.trans hst) (by decide)
  have hmem : g.mem = d.mem := by rw [hnext, setSub_mem]; simp
  have hdone : g.proceed i false 11 = g := by
    unfold Dev.proceed
    dsimp only
    rw [hctx]
    dsimp only
    rw [hp]
  have hgo : d.go i = g := by
    unfold Dev.go
    rw [show planFuel = 11 + 1 from rfl]
    unfold Dev.proceed
    dsimp only
    rw [hp]
    dsimp only
    rw [hf]
    dsimp only
    rw [← hg, hdone]
  rw [hgo]
  exact ⟨hscb, hctx, hmem⟩

/-- Settles O20: the completion of the NOP, and then what follows it. -/
theorem completionGoesOnToTheNextCcw : Obligations.CompletionGoesOnToTheNextCcw := by
  unfold Obligations.CompletionGoesOnToTheNextCcw
  intro s n i x hg ha hn hx hp
  subst hx
  have hrun : Runs (.ccwComplete n) s ((s.dev.ccwCompletion i).go i) := by
    refine runs_onEngine (f := fun d => d.ccwComplete n) rfl hg ?_
    unfold Dev.ccwComplete
    rw [ha]
    exact if_pos hp
  refine ⟨hrun, fun hst hh hop hcc hcd hhead hpost hexc hplan hen hb => ⟨_, hrun, ?_⟩⟩
  obtain ⟨e, he, hc⟩ := ccwCompletion_nop hop hcc hcd hhead hpost hb
  have hectx : e.ctx i = { s.dev.ctx i with ticRun := 0 } := by
    rw [he]
    exact ctx_setCtx _ i fun h => absurd ((congrArg Ctx.phase h).symm.trans hp) (by decide)
  have hescb : e.scb i = s.dev.scb i := by rw [he, foldTag_eq]; rfl
  have hmem : e.mem = s.dev.mem := by rw [he, foldTag_eq]; rfl
  obtain ⟨f, hf⟩ : ∃ f, f = s.dev.ccwCompletion i := ⟨_, rfl⟩
  rw [← hf]
  rw [← hf, hectx, hescb] at hc
  have hfctx : f.ctx i = { s.dev.ctx i with
      ticRun := 0, plan := [], after := some (.next (BitVec.ofNat 48 ((s.dev.scb i).ccwAddr.toNat + 32))), succ := false } := by
    rw [hc]
    exact ctx_setCtx _ i fun h => absurd ((congrArg Ctx.phase h).symm.trans hp) (by decide)
  have hfscb : f.scb i = { s.dev.scb i with inChain := false } := by
    rw [hc, setCtx_scb]
    exact scb_setScb _ i fun h => absurd ((congrArg Scb.state h).symm.trans hst) (by decide)
  have hfmem : f.mem = s.dev.mem := by rw [hc]; exact hmem
  have hfen : f.pageEn (pgCE + i / 256) = true := by
    rw [hc, he, foldTag_eq, hn]
    exact hen
  obtain ⟨h1, h2, h3⟩ := go_next (d := f) (i := i) (by rw [hfctx]) (by rw [hfctx]) (by rw [hfctx]; exact hexc) (by rw [hfscb]; exact hst)
    (by rw [hfscb]; exact hh) hfen (by rw [hfctx]; exact hp)
  rw [h1, h2, h3, hfscb, hfmem]
  exact ⟨rfl, rfl, rfl, rfl, rfl, rfl⟩

end Sys2Proof.Machine
end

section
/-!
PROOFS about the control commands of a channel program (R100-R112).
-/

namespace Sys2Proof.Machine

/-! ### The command in execution -/

/-- A command of an OP acts on the subchannel that is to execute it. -/
theorem runs_onOp {q : Instr} {s : State} {n i : Nat} {op : Byte} {f : Dev → Nat → Dev} {e : Dev}
    (hx : exec q s = s.run fun d => d.onOp n op f) (hg : s.dev.gate (ceDom n) = .ok) (hi : s.dev.toExecute n op = some i)
    (he : f s.dev i = e) : Runs q s e := by
  refine runs_of_run hx ?_
  unfold Dev.onOp
  rw [hi]
  dsimp only
  rw [if_pos hg, he]

/-- It is a command of that OP. -/
theorem toExecute_op {d : Dev} {n i : Nat} {op : Byte} (h : d.toExecute n op = some i) : (d.ctx i).ccw.op = op := by
  unfold Dev.toExecute at h
  cases ha : d.activeSub n with
  | none => rw [ha] at h; cases h
  | some j =>
    rw [ha] at h
    dsimp only at h
    split at h
    · rename_i hp
      cases h
      exact hp.2
    · cases h

/-! ### Conditions (R101, R104, R105) -/

/-- A fold leaves contexts and SCBs. -/
theorem foldTag_ctx (d : Dev) (t j : Nat) : (d.foldTag t).ctx j = d.ctx j := by rw [foldTag_eq]; rfl
theorem foldTag_scb (d : Dev) (t j : Nat) : (d.foldTag t).scb j = d.scb j := by rw [foldTag_eq]; rfl

/-- The context of a command that goes to an address. -/
def Ctx.goesTo (x : Ctx) (a : Nat) (jump : Bool) : Ctx :=
  { x with phase := .done, nextAddr := BitVec.ofNat 48 a, ticRun := if jump then x.ticRun + 1 else x.ticRun,
           row := if jump then none else x.row, chainTic := x.chainTic || x.succ }

theorem transferTo_eq (d : Dev) (i a : Nat) (jump : Bool) : d.transferTo i a jump = d.setCtx i ((d.ctx i).goesTo a jump) := rfl

/-- A condition that is known takes its target or goes on in sequence. -/
theorem condDone_eq (d : Dev) (i : Nat) (b : Bool) : d.condDone i b = d.setCtx i
    (if b != bitAt (d.ctx i).ccw.mod_ 7 then
      (if (d.ctx i).ccw.op = 0x09 then (d.ctx i).goesTo (d.ctx i).ccw.addr.toNat true
        else (d.ctx i).goesTo ((d.scb i).ccwAddr.toNat + 64) false)
      else (d.ctx i).goesTo ((d.scb i).ccwAddr.toNat + 32) false) := by
  unfold Dev.condDone
  dsimp only
  simp only [transferTo_eq]
  repeat' split
  all_goals rfl

/-! ### Waits (R53, R55, R106) -/

section
variable {d : Dev} {i : Nat} {t : DT} (c : Cause) (g : Dev → Dev)

theorem waitTime_reached (h : reached d.now t = true) : d.waitTime i t c g = g d := by
  rcases wlInsert_cases d i ⟨t, .subch, i⟩ with ⟨-, hw⟩ | ⟨hr, -⟩ | ⟨hr, -⟩
  · unfold Dev.waitTime
    rw [hw]
  · rw [h] at hr; cases hr
  · rw [h] at hr; cases hr

theorem waitTime_refused (h : reached d.now t = false) (hl : wlCapacity ≤ d.wl.length) :
    d.waitTime i t c g = (d.bump pgPCR 0x078 1 0x084 1).raiseExc i xPROGRAM 0x200 (d.ctx i).ccw.count := by
  unfold Dev.waitTime
  rw [wlInsert_full (d := d) i ⟨t, .subch, i⟩ hl h]
  dsimp only
  congr 1
  rw [bump_eq]
  rfl

theorem waitTime_inserted (h : reached d.now t = false) (hl : d.wl.length < wlCapacity) :
    ∃ e : Dev, d.wlInsert i ⟨t, .subch, i⟩ = (.inserted, e) ∧ e.wl = wlPlace ⟨t, .subch, i⟩ d.wl ∧
      d.waitTime i t c g = (e.setCtx i { d.ctx i with phase := .running }).beginWait i c := by
  rcases wlInsert_cases d i ⟨t, .subch, i⟩ with ⟨hr, -⟩ | ⟨-, hf, -⟩ | ⟨-, -, e, he, hfe⟩
  · rw [h] at hr; cases hr
  · exact absurd hf (Nat.not_le.mpr hl)
  · refine ⟨e, he, by rw [hfe], ?_⟩
    have hctx : e.ctx i = d.ctx i := by rw [hfe]; rfl
    unfold Dev.waitTime
    rw [he]
    dsimp only
    rw [hctx]

end

/-- A wait that neither a HALT nor draining meets is WAITING, with its cause. -/
theorem beginWait_waits (e : Dev) (i : Nat) (q : Cause) (hh : (e.scb i).haltReq = false) (hen : e.pageEn (pgCE + i / 256) = true) :
    ((e.beginWait i q).scb i).state = .waiting ∧ ((e.beginWait i q).scb i).cause = q := by
  obtain ⟨w, hw⟩ : ∃ w, w = e.subWait i q := ⟨_, rfl⟩
  have hscb : w.scb i = { e.scb i with state := .waiting, cause := q } := by
    rw [hw]
    unfold Dev.subWait
    exact setSub_scb _ i (by decide) q
  have hwen : w.pageEn (pgCE + i / 256) = true := by rw [hw]; exact hen
  unfold Dev.beginWait
  dsimp only
  rw [← hw, hscb]
  dsimp only
  rw [if_neg (by rw [hh]; decide), if_neg (by rw [hwen]; decide), hscb]
  exact ⟨rfl, rfl⟩

/-! ### WAIT_EVENT (R107-R109) -/

section
variable {d : Dev} {i : Nat}

theorem waitEvent_none (hv : smGet (d.eng (i / 256)).arr (fld (d.ctx i).ccw.param 0 10) 0 % 256 = 0)
    (ht : fld (d.ctx i).ccw.param 32 32 ≠ 0) : d.waitEvent i =
      d.waitTime i (dsTarget (d.ctx i).started (w32 (fld (d.ctx i).ccw.param 32 32))) .event fun d => d.eventTimeout i := by
  unfold Dev.waitEvent
  dsimp only
  rw [if_neg (not_not_intro hv), if_neg ht]

theorem eventTimeout_continues (hm : bitAt (d.ctx i).ccw.mod_ 0 = true) (hst : (d.scb i).state = .active) :
    d.eventTimeout i = (d.setScb i { d.scb i with residual := 1, lastDevstat := 0 }).setCtx i { d.ctx i with phase := .done } := by
  have hscb : (d.setScb i { d.scb i with residual := 1, lastDevstat := 0 }).scb i = { d.scb i with residual := 1, lastDevstat := 0 } :=
    scb_setScb d i fun h => absurd (congrArg Scb.residual h) (by simp)
  unfold Dev.eventTimeout
  rw [if_pos hm]
  dsimp only
  rw [hscb]
  exact if_pos hst

end

/-- Settles O21: each command by its step on the subchannel that executes it. -/
theorem controlCommandsExecute : Obligations.ControlCommandsExecute := by
  unfold Obligations.ControlCommandsExecute
  refine ⟨?_, ?_⟩
  · intro s n i d x c here go hd hx hc hhere hg hgo
    subst hd hx hc hhere
    replace hgo : go = (s.dev.ctx i).goesTo := hgo
    subst hgo
    refine ⟨fun hi => ?_, ?conditions, fun hi => ?_, fun hi => ?_, fun hi => ?_, fun hi e he => ?_, fun hi bs hbs => ⟨?_, ?_⟩⟩
    case conditions =>
      intro q op hq hi
      have hop := toExecute_op hi
      have hrun : ∀ host {f}, s.dev.conditionStep i host = f → Runs (q host) s f := by
        rcases hq with ⟨rfl, rfl⟩ | ⟨rfl, rfl⟩
        · exact fun host f hf => runs_onOp (f := fun d i => d.conditionStep i host) rfl hg hi hf
        · exact fun host f hf => runs_onOp (f := fun d i => d.conditionStep i host) rfl hg hi hf
      refine ⟨fun hs e he => ?_, fun hs bs e hr => ?_, fun hs code det e hr => ?_, fun r hreq hr => ?_⟩
      · refine hrun none ?_
        have hctx : e.ctx i = s.dev.ctx i := by
          rw [he]
          split
          · exact foldTag_ctx ..
          · rfl
        have hscb : e.scb i = s.dev.scb i := by
          rw [he]
          split
          · exact foldTag_scb ..
          · rfl
        have hcond : s.dev.condition i = e.condDone i (e.selCond i) := by
          unfold Dev.condition
          dsimp only
          rw [if_neg hs, ← he]
        exact hcond.trans (by rw [condDone_eq, hctx, hscb, hop])
      · refine hrun none ?_
        show s.dev.condition i = _
        unfold Dev.condition
        dsimp only
        rw [if_pos hs, hr]
      · refine hrun none ?_
        show s.dev.condition i = _
        unfold Dev.condition
        dsimp only
        rw [if_pos hs, hr]
      · exact hrun (some r) (if_pos ⟨hreq, hr⟩)
    · exact runs_onOp (f := Dev.ticStep) rfl hg hi (transferTo_eq ..)
    · exact runs_onOp (f := Dev.opDone) rfl hg hi rfl
    · exact runs_onOp (f := Dev.opDone) rfl hg hi rfl
    · exact runs_onOp (f := Dev.postOp) rfl hg hi rfl
    · subst he
      exact runs_onOp (f := Dev.signalOp) rfl hg hi rfl
    · intro l e hw
      refine runs_onOp (f := Dev.storeTimeOp) rfl hg hi ?_
      subst hbs
      unfold Dev.storeTimeOp
      dsimp only
      rw [hw]
    · intro code det e hw
      refine runs_onOp (f := Dev.storeTimeOp) rfl hg hi ?_
      subst hbs
      unfold Dev.storeTimeOp
      dsimp only
      rw [hw]
  · intro s n i d x c hd hx hc hg
    subst hd hx hc
    refine ⟨?times, ?events, fun e q hh hen => beginWait_waits e i q hh hen⟩
    case times =>
      intro q op t hq hi
      have hrun : ∀ {f}, s.dev.waitTime i t .time (fun d => d.opDone i) = f → Runs q s f := fun hf => by
        rcases hq with ⟨rfl, rfl, rfl⟩ | ⟨rfl, rfl, rfl⟩
        · exact runs_onOp (f := Dev.waitUntilStep) rfl hg hi hf
        · exact runs_onOp (f := Dev.waitForStep) rfl hg hi hf
      refine ⟨fun hr => ?_, fun hr hl => ?_, fun hr hl => ?_⟩
      · exact hrun (waitTime_reached _ _ hr)
      · obtain ⟨e, h1, h2, h3⟩ := waitTime_inserted .time (fun d => d.opDone i) hr hl
        exact ⟨e, h1, h2, hrun h3⟩
      · exact hrun (waitTime_refused _ _ hr hl)
    case events =>
      intro hi g v ev t hgd hev hv ht
      subst hgd hev hv ht
      have hrun : ∀ {f}, s.dev.waitEvent i = f → Runs (.waitEvent n) s f := fun hf => runs_onOp (f := Dev.waitEvent) rfl hg hi hf
      refine ⟨fun h => ?_, fun h h0 => ?_, fun h h0 hr hm => ?_, fun h h0 hr hm hst => ?_, fun h h0 hr hl => ?_, fun h h0 hr hl => ?_⟩
      · exact hrun (if_pos h)
      · exact hrun ((if_neg (not_not_intro h)).trans (if_pos h0))
      · exact hrun ((waitEvent_none h h0).trans ((waitTime_reached _ _ hr).trans (if_neg (by rw [hm]; decide))))
      · exact hrun ((waitEvent_none h h0).trans ((waitTime_reached _ _ hr).trans (eventTimeout_continues hm hst)))
      · obtain ⟨e, h1, h2, h3⟩ := waitTime_inserted .event (fun d => d.eventTimeout i) hr hl
        exact ⟨e, h1, h2, hrun ((waitEvent_none h h0).trans h3)⟩
      · exact hrun ((waitEvent_none h h0).trans (waitTime_refused _ _ hr hl))

end Sys2Proof.Machine
end

section
/-!
PROOFS about the commands that move data, call a spoke core or work with a device, at their beginning (R113-R118, R173-R178, R203-R211).
-/

namespace Sys2Proof.Machine

/-! ### MOVE, DIGEST and CALL_SPOKE -/

section
variable {d : Dev} {i : Nat}

/-- A MOVE or DIGEST without a transform, or with its stream at hand, opens its source. -/
theorem moveStart_opens (h : (d.ctx i).ccw.xf = false ∨ (d.stream i).isSome = true) : d.moveStart i = d.moveOpen i := by
  unfold Dev.moveStart
  dsimp only
  refine if_neg fun ⟨hx, hn⟩ => ?_
  rcases h with h | h
  · rw [h] at hx; cases hx
  · rw [Option.isNone_iff_eq_none.mp hn] at h; cases h

/-- A successor whose stream is gone. -/
theorem moveStart_gone (hx : (d.ctx i).ccw.xf = true) (hn : d.stream i = none) (hs : (d.ctx i).succ = true) :
    d.moveStart i = d.raiseExc i xDATA 0 (d.ctx i).ccw.count := by
  unfold Dev.moveStart
  dsimp only
  rw [if_pos ⟨hx, by rw [hn]; rfl⟩, if_pos hs]

/-- A head that asks for its stream. -/
theorem moveStart_asks (hx : (d.ctx i).ccw.xf = true) (hn : d.stream i = none) (hs : (d.ctx i).succ = false) : d.moveStart i =
    if ((d.askStream i).scb i).state = .active ∧ ((d.askStream i).ctx i).phase = .ready ∧ ((d.askStream i).stream i).isSome then
      (d.askStream i).moveOpen i else d.askStream i := by
  unfold Dev.moveStart
  dsimp only
  rw [if_pos ⟨hx, by rw [hn]; rfl⟩, if_neg (by rw [hs]; decide)]

/-- What a wait for a time comes to, by what the wake list answers. -/
theorem waitTime_eq {t : DT} {c : Cause} {g : Dev → Dev} {e : Dev} :
    (d.wlInsert i ⟨t, .subch, i⟩ = (.inserted, e) → d.waitTime i t c g = (e.setCtx i { e.ctx i with phase := .running }).beginWait i c) ∧
    (d.wlInsert i ⟨t, .subch, i⟩ = (.reached, e) → d.waitTime i t c g = g e) := by
  unfold Dev.waitTime
  exact ⟨fun h => by rw [h], fun h => by rw [h]⟩

/-- A CALL_SPOKE whose mailbox's domain is not asleep. -/
theorem callSpokeOp_eq {r : Gate} {e : Dev} (hk : d.knock (commonDom (fld (d.ctx i).ccw.param 0 7 / 16)) = (r, e)) (hr : r ≠ .asleep) :
    d.callSpokeOp i =
      match e.mboxPost i (ceAgent (i / 256)) (fld (d.ctx i).ccw.param 0 7) (fld (d.ctx i).ccw.param 8 3) (spokeMsg (d.ctx i).ccw i) true with
      | (.accepted, f) =>
        let f := f.setCtx i { f.ctx i with spoke := some (fld (d.ctx i).ccw.param 0 7) }
        let t := dsTarget (e.ctx i).started (w32 (fld (d.ctx i).ccw.param 32 32))
        if fld (d.ctx i).ccw.param 32 32 = 0 then (f.setCtx i { f.ctx i with phase := .running }).beginWait i .spoke
        else if !reached e.now t ∧ wlCapacity ≤ e.wl.length then
          (e.bump pgPCR 0x078 1 0x084 1).raiseExc i xPROGRAM 0x200 (d.ctx i).ccw.count
        else f.waitTime i t .spoke fun g => g.raiseExc i xTIMEOUT 0 (d.ctx i).ccw.count
      | (_, f) => f.raiseExc i xDEVICE 1 (d.ctx i).ccw.count := by
  unfold Dev.callSpokeOp
  dsimp only
  rw [hk]
  cases r with
  | asleep => exact absurd rfl hr
  | ok | fenced => rfl

/-- The reached entry of a subchannel that waits for a spoke core's reply ends its wait with TIMEOUT. -/
theorem callTimeout_expires {w : WlEntry} (hf : d.wl.find? (fun v => wlMine .subch i v && reached d.now v.target) = some w)
    (hst : (d.scb i).state = .waiting) (hc : (d.scb i).cause = .spoke) (ha : w.dom.any (fun k => (d.dom k).asleep) = false) {g : Dev}
    (hg : g = ({ d with wl := d.wl.filter fun v => !wlMine .subch i v }).count 0 3 i 1) :
    d.callTimeout i = (g.setCtx i { g.ctx i with spoke := none }).raiseExc i xTIMEOUT 0 (d.ctx i).ccw.count := by
  have hmine := List.find?_some hf
  simp only [wlMine, Bool.and_eq_true, decide_eq_true_eq] at hmine
  obtain ⟨⟨hkind, hid⟩, -⟩ := hmine
  have hmem : w ∈ d.wl := List.mem_of_find?_eq_some hf
  have hg' : g = d.wlRemove (wlTag d.coreTag w.kind w.id) w.kind w.id := by
    rw [wlRemove_of_mem hmem, hkind, hid]
    exact hg
  have hscb : g.scb i = d.scb i := by rw [hg, count_eq]; rfl
  have hctx : g.ctx i = d.ctx i := by rw [hg, count_eq]; rfl
  have htell : g.tellOwner w = g.subExpiry i := by
    unfold Dev.tellOwner
    rw [hkind, hid]
  unfold Dev.callTimeout
  rw [hf]
  dsimp only
  rw [if_pos ⟨hst, hc⟩, wlExpire_awake ha, ← hg', htell]
  unfold Dev.subExpiry
  dsimp only
  rw [hscb, if_neg (not_not_intro hst), hc]
  dsimp only
  rw [hctx]

end

/-- Settles O22: a move's beginning by its stream, a call by its post and the wake list. -/
theorem movesAndCallsBegin : Obligations.MovesAndCallsBegin := by
  unfold Obligations.MovesAndCallsBegin
  refine ⟨?_, ?_⟩
  · intro s n i q op d x c start hq hd hx hc hg hi hstart
    subst hd hx hc
    replace hstart : start = fun e => e.moveOpen i := hstart
    subst hstart
    have hrun : ∀ {f}, s.dev.moveStart i = f → Runs q s f := fun hf => by
      rcases hq with ⟨rfl, rfl⟩ | ⟨rfl, rfl⟩
      · exact runs_onOp (f := Dev.moveStart) rfl hg hi hf
      · exact runs_onOp (f := Dev.moveStart) rfl hg hi hf
    refine ⟨fun h => hrun (moveStart_opens h), fun hx hn hs => hrun (moveStart_gone hx hn hs), fun hx hn hs e he => ?_⟩
    subst he
    refine ⟨fun h1 h2 h3 => ?_, fun h => ?_⟩ <;> refine hrun ((moveStart_asks hx hn hs).trans ?_)
    · exact if_pos ⟨h2, h3, h1⟩
    · refine if_neg fun ⟨h1, h2, h3⟩ => ?_
      rcases h with h | h | h
      · rw [h] at h3; cases h3
      · exact h h1
      · exact h h2
  · intro s n i d x c hd hx hc hg
    subst hd hx hc
    refine ⟨?_, ?_⟩
    · intro hi m r e f msg t z hm hk hr hmsg ht hz
      replace hmsg : msg = spokeMsg (s.dev.ctx i).ccw i := hmsg
      subst hm hmsg ht
      have hrun : ∀ {f}, s.dev.callSpokeOp i = f → Runs (.callSpoke n) s f := fun hf => runs_onOp (f := Dev.callSpokeOp) rfl hg hi hf
      have hcall := callSpokeOp_eq hk hr
      have hzctx : (f.setCtx i z).ctx i = z := ctx_setCtx f i fun h => by
        rw [hz] at h
        exact absurd (congrArg Ctx.spoke h) (by simp)
      have hneg : (reached e.now (dsTarget (e.ctx i).started (w32 (fld (s.dev.ctx i).ccw.param 32 32))) = true ∨ e.wl.length < wlCapacity) →
          ¬ ((!reached e.now (dsTarget (e.ctx i).started (w32 (fld (s.dev.ctx i).ccw.param 32 32)))) = true ∧ wlCapacity ≤ e.wl.length) := by
        rintro (h | h) ⟨h1, h2⟩
        · rw [h] at h1; cases h1
        · omega
      refine ⟨fun r hr hp => ?_, fun hp => ⟨fun h0 => ?_, fun h0 hreach hl => ?_, fun g h0 hw => ⟨fun hin => ?_, fun hin => ?_⟩⟩⟩ <;>
        refine hrun (hcall.trans ?_) <;> rw [hp]
      · cases r with
        | accepted => exact absurd rfl hr
        | full | fenced => rfl
      · subst hz
        dsimp only
        rw [if_pos h0, hzctx]
      · dsimp only
        rw [if_neg h0, if_pos ⟨by rw [hreach]; rfl, hl⟩]
      · subst hz
        dsimp only
        rw [if_neg h0, if_neg (hneg hw)]
        exact waitTime_eq.1 hin
      · subst hz
        dsimp only
        rw [if_neg h0, if_neg (hneg hw)]
        exact waitTime_eq.2 hin
    · intro t sub j w e he hj hf hst hcause ha g hgd
      subst he hj
      exact runs_of_run (f := fun d => (d.atCounts t).callTimeout (256 * n + sub)) rfl (callTimeout_expires hf hst hcause ha hgd)

/-! ### Device commands (R173-R177) -/

/-- A device command begins at its first byte, with its adapter. -/
def Dev.devBegin (d : Dev) (x : Ctx) (i : Nat) : Dev :=
  ((((d.setCtx i { d.ctx i with
    phase := .running, moved := 0, fed := 0, segs := [], devEnd := none, counting := true,
    stage := if x.succ ∧ !x.ccw.sink then (d.ctx i).stage else 0,
    outTo := if x.succ ∧ !x.ccw.sink then (d.ctx i).outTo else 0 }).openArea i).devIssue i).devSettle i opFuel).waitDevice i

section
variable {d : Dev} {i : Nat}

theorem deviceOp_running (h : (d.ctx i).phase = .running) : d.deviceOp i = ((d.devIssue i).devSettle i opFuel).waitDevice i := if_pos h

variable (h : (d.ctx i).phase = .ready)
include h

theorem deviceOp_notReady {code : Nat} (hn : d.notReady (d.scb i).binding (d.ctx i).ccw = some code) :
    d.deviceOp i = d.raiseExc i xDEVICE (devstat (bKind (d.scb i).binding) code 0) (d.ctx i).ccw.count := by
  unfold Dev.deviceOp
  dsimp only
  rw [if_neg (by rw [h]; decide), hn]

variable (hn : d.notReady (d.scb i).binding (d.ctx i).ccw = none)
include hn

theorem deviceOp_forbidden (hf : d.mwForbids (d.scb i).binding (d.ctx i).ccw.op = true) :
    d.deviceOp i = d.raiseExc i xPROTECTION 0x8005 (d.ctx i).ccw.count := by
  unfold Dev.deviceOp
  dsimp only
  rw [if_neg (by rw [h]; decide), hn]
  exact if_pos hf

variable (hf : d.mwForbids (d.scb i).binding (d.ctx i).ccw.op = false)
include hf

theorem deviceOp_asleep {e : Dev} (hk : d.knock (d.bindDom (d.scb i).binding) = (.asleep, e)) : d.deviceOp i = e := by
  unfold Dev.deviceOp
  dsimp only
  rw [if_neg (by rw [h]; decide), hn]
  dsimp only
  rw [if_neg (by rw [hf]; decide), hk]

/-- With a usable instance that is awake, what follows turns on the stream, once it has been asked for. -/
theorem deviceOp_awake {e g : Dev} (hk : d.knock (d.bindDom (d.scb i).binding) = (.ok, e))
    (hg : g = if (d.ctx i).ccw.xf = true ∧ e.stream i = none ∧ (d.ctx i).succ = false then e.askStream i else e) :
    ((d.ctx i).ccw.xf = false ∨ (g.stream i).isSome = true → d.deviceOp i = g.devBegin (d.ctx i) i) ∧
    ((d.ctx i).ccw.xf = true → g.stream i = none → (d.ctx i).succ = false → d.deviceOp i = g) ∧
    ((d.ctx i).ccw.xf = true → g.stream i = none → (d.ctx i).succ = true → d.deviceOp i = g.raiseExc i xDATA 0 (d.ctx i).ccw.count) := by
  unfold Dev.deviceOp
  dsimp only
  rw [if_neg (by rw [h]; decide), hn]
  dsimp only
  rw [if_neg (by rw [hf]; decide), hk]
  dsimp only
  have hasks : (if (d.ctx i).ccw.xf = true ∧ e.stream i = none ∧ (!(d.ctx i).succ) = true then e.askStream i else e) = g := by
    simp only [hg, Bool.not_eq_true']
  simp only [Option.isNone_iff_eq_none, hasks]
  refine ⟨fun hx => ?_, fun hx hs hu => ?_, fun hx hs hu => ?_⟩
  · have hno : ¬ ((d.ctx i).ccw.xf = true ∧ g.stream i = none) := by
      rintro ⟨h1, h2⟩
      rcases hx with hx | hx
      · rw [hx] at h1; cases h1
      · rw [h2] at hx; cases hx
    rw [if_neg fun hh => hno ⟨hh.1.1, hh.2⟩, if_neg hno]
    unfold Dev.devBegin
    repeat' split
    all_goals rfl
  · by_cases he : e.stream i = none
    · rw [if_pos ⟨⟨hx, he, by rw [hu]; rfl⟩, hs⟩]
    · rw [if_neg (fun hh => he hh.2.1)] at hg
      exact absurd (hg ▸ hs) he
  · rw [if_neg (by rw [hu]; simp), if_pos ⟨hx, hs⟩]

end

/-- Settles O23: the checks of the instance in their order, and then the stream. -/
theorem deviceCommandsBegin : Obligations.DeviceCommandsBegin := by
  unfold Obligations.DeviceCommandsBegin
  intro s n i q op d x b hq hd hx hb hg ha hop
  subst hd hx hb
  have hrun : (s.dev.ctx i).phase = .ready ∨ (s.dev.ctx i).phase = .running → ∀ {f}, s.dev.deviceOp i = f → Runs q s f := fun hp f hf => by
    have hdev : s.dev.onDevice n op = f := by
      unfold Dev.onDevice
      rw [ha]
      exact (if_pos ⟨hop, hp⟩).trans hf
    rcases hq with ⟨rfl, rfl⟩ | ⟨rfl, rfl⟩ | ⟨rfl, rfl⟩ | ⟨rfl, rfl⟩
    · exact runs_onEngine (f := fun d => d.onDevice n 0x40) rfl hg hdev
    · exact runs_onEngine (f := fun d => d.onDevice n 0x41) rfl hg hdev
    · exact runs_onEngine (f := fun d => d.onDevice n 0x42) rfl hg hdev
    · exact runs_onEngine (f := fun d => d.onDevice n 0x43) rfl hg hdev
  refine ⟨fun hp => hrun (.inr hp) (deviceOp_running hp), fun hp => ⟨fun code hn => ?_, fun hn hf => ?_, fun e hn hf hk => ?_,
    fun e g hn hf hk hgd => ?_⟩⟩
  · exact hrun (.inl hp) (deviceOp_notReady hp hn)
  · exact hrun (.inl hp) (deviceOp_forbidden hp hn (hop ▸ hf))
  · exact hrun (.inl hp) (deviceOp_asleep hp hn (hop ▸ hf) hk)
  · obtain ⟨h1, h2, h3⟩ := deviceOp_awake hp hn (hop ▸ hf) hk hgd
    exact ⟨fun hx => hrun (.inl hp) (h1 hx), fun hx hs hu => hrun (.inl hp) (h2 hx hs hu), fun hx hs hu => hrun (.inl hp) (h3 hx hs hu)⟩

/-! ### Operations and port data (R142, R166, R178, R203-R211) -/

/-- Settles O24: an operation by its outcome, a port's data by the kind of the port. -/
theorem deviceOperationsProgress : Obligations.DeviceOperationsProgress := by
  unfold Obligations.DeviceOperationsProgress
  refine ⟨?_, ?_⟩
  · intro s n sub i d x b hd hi hx hb
    subst hd hi hx hb
    refine ⟨fun r o z e hf hreap ho hgate hout => ?_, fun r k hf hreap => ?_, fun idx o t ho hk hsink ht ht0 hdue => ?_⟩
    · refine runs_of_run (f := fun d => d.opComplete n sub r) rfl ?_
      have hnone : s.dev.reapOne n sub = none := by
        unfold Dev.reapOne
        dsimp only
        rw [if_neg (by rw [hf]; decide), hreap]
      unfold Dev.opComplete
      rw [hnone]
      dsimp only
      rw [if_neg (by rw [hf]; decide), ho]
      dsimp only
      rw [if_neg hgate, hout]
    · refine runs_of_run (f := fun d => d.opComplete n sub r) rfl ?_
      have hsome : s.dev.reapOne n sub = some
          (((s.dev.setEng n { s.dev.eng n with reaping := (s.dev.eng n).reaping.erase k }).bump (pgCE + n) 0x064 1 0x074 0).grantSlot n) := by
        unfold Dev.reapOne
        dsimp only
        rw [if_neg (by rw [hf]; decide), hreap]
      unfold Dev.opComplete
      rw [hsome]
    · subst ht
      refine runs_of_run (f := fun d => d.pcieTimeout n sub idx) rfl ?_
      unfold Dev.pcieTimeout
      dsimp only
      rw [ho]
      dsimp only
      rw [if_pos ⟨hk, by simpa using hsink, ht0, hdue⟩]
  · intro s n sub i d x b take data left hd hi hx hb hp hst hserved hburst hdata hout hexc hfront hgate hon hleft
    subst hd hi hx hb
    have hclosed : ¬ ((s.dev.ctx (256 * n + sub)).phase ≠ .running ∨
        (!((s.dev.scb (256 * n + sub)).state = .waiting || (s.dev.scb (256 * n + sub)).state = .draining)) = true ∨
        (!s.dev.served (256 * n + sub)) = true ∨ (s.dev.ctx (256 * n + sub)).burst ≠ 0 ∨
        ((s.dev.ctx (256 * n + sub)).ccw.sink && !(s.dev.ctx (256 * n + sub)).data.isEmpty) = true ∨
        (!(s.dev.ctx (256 * n + sub)).outq.isEmpty) = true ∨ (s.dev.ctx (256 * n + sub)).exc.isSome = true ∨
        ((s.dev.ctx (256 * n + sub)).frontOp.bind (·.res)).isSome = true ∨
        s.dev.gate (s.dev.bindDom (s.dev.scb (256 * n + sub)).binding) ≠ .ok ∨ (!s.dev.portOn (s.dev.scb (256 * n + sub)).binding) = true) := by
      have hst' : ((s.dev.scb (256 * n + sub)).state = .waiting || (s.dev.scb (256 * n + sub)).state = .draining) = true := by
        simpa using hst
      simpa [hp, hst', hserved, hburst, hout, hexc, hfront, hgate, hon] using hdata
    have hrun : ∀ {f}, s.dev.portRequest (256 * n + sub) take data = f → Runs (.portDataRequest n sub take data) s f := fun hf =>
      runs_of_run (f := fun d => d.portRequest (256 * n + sub) take data) rfl hf
    refine ⟨fun hk hsink bs hbs => ?_, fun hk => ?_, fun hk hop u k hu hkk => ⟨fun h0 => ?_, fun h0 => ?_⟩,
      fun hk hop f k hfq hr hkk => ⟨fun h0 => ?_, fun h0 t l e hchain htd hte htake => ?_⟩⟩ <;>
      refine hrun ?_ <;> unfold Dev.portRequest <;> dsimp only <;> rw [if_neg hclosed]
    · subst hbs hleft
      rcases hk with hk | hk <;> rw [hk] <;> exact if_pos hsink
    · subst hleft
      rcases hk with ⟨hk | hk, hsink⟩ | ⟨hk, hop⟩
      · rw [hk]; exact if_neg (by rw [hsink]; decide)
      · rw [hk]; exact if_neg (by rw [hsink]; decide)
      · rw [hk]
        exact (if_neg (by rw [hop]; decide)).trans (if_pos hop)
    · subst hu hkk hleft
      rw [hk]
      exact (if_pos hop).trans (if_neg h0)
    · subst hu hkk hleft
      rw [hk]
      exact (if_pos hop).trans (if_pos h0)
    · subst hfq hkk hleft
      rw [hk]
      exact (if_neg (by rw [hop, hr]; decide)).trans ((if_neg fun h => h0 h.1).trans (if_pos h0))
    · subst hfq hkk hleft
      rw [hk]
      refine (if_neg (by rw [hop, hr]; decide)).trans ((if_pos ⟨h0, by rw [hchain]; simp [htd, hte]⟩).trans ?_)
      rw [htake]

end Sys2Proof.Machine
end

section
/-!
PROOFS about the commands of the adapters: lent queues, serial ports, I3C and GPIO (R183-R198, R205-R221).
-/

namespace Sys2Proof.Machine

/-! ### Lent queues -/

theorem lqCtrl_writable (q : Fin 32) : blockWritable pgNVA (lqOff q 0) = true := by revert q; decide +kernel

/-- CTRL of a lent queue. -/
theorem writeNVA_ctrl (e : Dev) (a : Nat) (q : Fin 32) (v : Word) : e.writeNVA a (lqOff q 0) v =
    some (if bitAt v 0 ∧ (e.lq q).state = .free then e.lend q else if bitAt v 1 then e.revoke q else e) := by
  have hq : (lqOff q 0 - 0x100) / 64 = q := by unfold lqOff; omega
  have hr : lqOff q 0 % 64 = 0 := by unfold lqOff; omega
  unfold Dev.writeNVA
  dsimp only
  rw [if_neg (by unfold lqOff; omega), if_pos (by unfold lqOff; omega), if_pos hr, hq]

section
variable {d : Dev} {q : Nat}

theorem lend_refused (hst : (d.lq q).state = .free) (hok : d.lendOk q = false) : d.lend q = d.setLq q { d.lq q with lendErr := true } := by
  unfold Dev.lend
  dsimp only
  rw [if_neg (not_not_intro hst), if_pos (by rw [hok]; rfl)]

/-- Lending of a queue whose fields are good, by the domains of its completion queue. -/
theorem lend_ok (hst : (d.lq q).state = .free) (hok : d.lendOk q = true) {ks : List Nat}
    (hks : ks = ((List.range ((d.cqSize q * 16 + 4095) / 4096)).map fun k => addrDom (d.cqBase q + 4096 * k)).eraseDups) :
    d.lend q = if ks.any (fun k => d.gate k = .asleep) = true then
      { ks.foldl (fun d k => (d.knock k).2) d with held := (ks.foldl (fun d k => (d.knock k).2) d).held ++ [.lend q] }
    else (d.clearMem (d.cqBase q) (d.cqSize q * 16)).setLq q { state := .lent, phase := true } := by
  subst hks
  unfold Dev.lend
  dsimp only
  rw [if_neg (not_not_intro hst), if_neg (by rw [hok]; decide)]

theorem nvmeScan_reaches (hst : (d.lq q).state ≠ .free) (hdue : (d.lq q).due = true) {f : Dev} :
    (d.reach 3 (d.cqBase q + 16 * (d.lq q).cqHead) = (.ok, f) → ∀ g : Dev,
      g = (f.setLq q { d.lq q with due := false }).cqScan q ((f.setLq q { d.lq q with due := false }).cqSize q) →
      d.nvmeScan q = ((if (g.lq q).cqHead ≠ (d.lq q).cqHead ∨ (g.lq q).phase ≠ (d.lq q).phase then
        g.ringDoorbell q true (g.lq q).cqHead else g).sqFlush q).lqRelease q) ∧
    (∀ r : Gate, r ≠ .ok → d.reach 3 (d.cqBase q + 16 * (d.lq q).cqHead) = (r, f) → d.nvmeScan q = f) := by
  have hgo : ¬ ((d.lq q).state = .free ∨ (!(d.lq q).due) = true) := by simp [hst, hdue]
  refine ⟨fun hr g hg => ?_, fun r hn hr => ?_⟩ <;> unfold Dev.nvmeScan <;> dsimp only <;> rw [if_neg hgo, hr]
  · subst hg
    rfl
  · cases r with
    | ok => exact absurd rfl hn
    | fenced | asleep => rfl

end

/-- Settles O25: lending and revocation by the queue's control register, the scan by the reach of its head, the timeout by the operation
that the command serves. -/
theorem lentQueueCommandsComplete : Obligations.LentQueueCommandsComplete := by
  unfold Obligations.LentQueueCommandsComplete
  intro s a q e v hv
  subst hv
  refine ⟨fun ha hu hst ks hks => ?_, fun ha hu hst => ?_, fun he hst hdue f => ?_, fun c k f key he hk hf hkey => ?_⟩
  · have hrun : ∀ {f}, e.lend q = f → Runs (.lend a q) s f := fun hf => by
      refine runs_of_run (f := fun d => d.wr a pgNVA (lqOff q 0) 1) rfl (wr_block ha hu (lqCtrl_writable q) ?_).symm
      rw [writeBlock_nva, writeNVA_ctrl, if_pos ⟨by decide, hst⟩, hf]
    refine ⟨fun hok hw => hrun ((lend_ok hst hok hks).trans (if_neg ?_)), fun hok hw f hf => ?_, fun hok => hrun (lend_refused hst hok)⟩
    · simpa using hw
    · subst hf
      exact hrun ((lend_ok hst hok hks).trans (if_pos (by simpa using hw)))
  · refine runs_of_run (f := fun d => d.wr a pgNVA (lqOff q 0) 2) rfl (wr_block ha hu (lqCtrl_writable q) ?_).symm
    rw [writeBlock_nva, writeNVA_ctrl, if_neg fun h => by rw [hst] at h; exact absurd h.2 (by decide), if_pos (by decide)]
    unfold Dev.revoke
    dsimp only
    rw [if_neg (not_not_intro hst)]
  · subst he
    have h := nvmeScan_reaches (f := f) hst hdue
    exact ⟨fun hr g hg => runs_of_run (f := fun d => d.nvmeScan q) rfl (h.1 hr g hg),
      fun r hn hr => runs_of_run (f := fun d => d.nvmeScan q) rfl (h.2 r hn hr)⟩
  · subst he hkey
    refine ⟨fun o ho => ?_, fun ho hfen hreap => ?_⟩ <;>
      refine runs_of_run (f := fun d => (d.atCounts c).nvmeTimeout q) rfl ?_ <;>
      unfold Dev.nvmeTimeout <;> rw [hk] <;> dsimp only <;> rw [← hf, ho]
    dsimp only
    rw [if_pos (by rw [hfen, hreap]; rfl)]

/-! ### Serial ports -/

/-- Activity on the pins of a unit that is not fenced is taken. -/
theorem onPins_taken {d e : Dev} {k : Nat} {r : Gate} (hk : d.knock k = (r, e)) (hr : r ≠ .fenced) (f : Dev → Dev) : d.onPins k f = f e := by
  unfold Dev.onPins
  rw [hk]
  cases r with
  | fenced => exact absurd rfl hr
  | ok | asleep => rfl

section
variable {d e : Dev} {u : Nat} {r : Gate}

theorem uartChar_heard (hh : d.uartHears u = true) (hk : d.knock 19 = (r, e)) (hr : r ≠ .fenced) (b : Byte) (framing parity : Bool) {f : Dev}
    (hf : f = e.setUart u { e.uart u with pin := true, lastRx := e.now, since := e.now }) : d.uartChar u b framing parity =
    if framing then (f.uartCount u 0x10 0).uartMark u .framing
    else if parity ∧ f.rf pgUAR (uarOff u 0) 2 2 ≠ 0 then (f.uartCount u 0x14 1).uartMark u .parity
    else f.uartReceive u b := by
  subst hf
  unfold Dev.uartChar
  rw [if_neg (by rw [hh]; decide), onPins_taken hk hr]

theorem uartBreak_heard (hh : d.uartHears u = true) (hk : d.knock 19 = (r, e)) (hr : r ≠ .fenced) :
    d.uartBreak u = (e.setUart u { e.uart u with pin := false, inBreak := true }).breakSeen u := by
  unfold Dev.uartBreak
  rw [if_neg (by rw [hh]; decide), onPins_taken hk hr]

/-- A recognised break, after it is counted, by what takes the characters of its UART. -/
theorem breakSeen_cases {f : Dev} (hf : f = d.uartCount u 0x1C 3) :
    (∀ k, f.producerFifo 1 u = some k → d.breakSeen u = f.fifoClose k false) ∧
    (f.producerFifo 1 u = none → f.uartReader u = none → d.breakSeen u = f) ∧
    (∀ i, f.producerFifo 1 u = none → f.uartReader u = some i → d.breakSeen u =
      if (f.ctx i).moved < (f.ctx i).ccw.count.toNat ∨ (f.ctx i).ccw.cd then
        (f.setUart u { f.uart u with rx := (f.uart u).rx ++ [.brk] }).uartCheck u
      else f) := by
  replace hf : d.bump pgUAR (0x100 + 0x40 * u + 0x1C) 1 (0x100 + 0x40 * u + 0x30) 3 = f := hf.symm
  refine ⟨fun k hp => ?_, fun hp hn => ?_, fun i hp hn => ?_⟩ <;> unfold Dev.breakSeen <;> dsimp only <;> rw [hf, hp]
  · dsimp only
    rw [hn]
  · dsimp only
    rw [hn]

end

/-- Settles O26: each event on the pins by the conditions of its port, and what stands behind the port. -/
theorem serialPortsReceive : Obligations.SerialPortsReceive := by
  unfold Obligations.SerialPortsReceive
  intro s u e f r hr
  refine ⟨fun hh hk hf => ?_, fun hh hk hf => ?_, fun hb => ?_, fun i x gap hi hx hg h0 hdue hmoved hburst hdata hrx => ?_,
    fun k gap hk hg h0 hdue hp => ?_, fun ht hk => ⟨fun hsel hf => ?_, fun hsel n v hn hf => ?_, fun hsel bad hf => ?_⟩⟩
  · have hrun : ∀ {b framing parity g}, (if framing = true then (f.uartCount u 0x10 0).uartMark u .framing
        else if parity = true ∧ f.rf pgUAR (uarOff u 0) 2 2 ≠ 0 then (f.uartCount u 0x14 1).uartMark u .parity
        else f.uartReceive u b) = g → Runs (.uartCharacterReceived u b framing parity) s g := fun {b framing parity g} hg =>
      runs_of_run (f := fun d => d.uartChar u b framing parity) rfl ((uartChar_heard hh hk hr b framing parity hf).trans hg)
    refine ⟨fun b parity => hrun (if_pos rfl), fun b hpar => hrun ((if_neg (by decide)).trans (if_pos ⟨rfl, hpar⟩)),
      fun b parity hpar => hrun ((if_neg (by decide)).trans (if_neg fun h => ?_))⟩
    rcases hpar with hpar | hpar
    · rw [hpar] at h; exact absurd h.1 (by decide)
    · exact h.2 hpar
  · obtain ⟨hfifo, hnone, hread⟩ := breakSeen_cases hf
    have hrun : ∀ {g}, (e.setUart u { e.uart u with pin := false, inBreak := true }).breakSeen u = g → Runs (.uartBreak u) s g :=
      fun hg => runs_of_run (f := fun d => d.uartBreak u) rfl ((uartBreak_heard hh hk hr).trans hg)
    refine ⟨fun k hp => hrun (hfifo k hp), fun hp hn => hrun (hnone hp hn),
      fun i hp hn hwant => hrun ((hread i hp hn).trans (if_pos hwant)),
      fun i hp hn hlen hcd => hrun ((hread i hp hn).trans (if_neg ?_))⟩
    rintro (h | h)
    · omega
    · rw [hcd] at h; cases h
  · exact runs_of_run (f := fun d => d.uartBreakEnd u) rfl (if_pos hb)
  · subst hx hg
    refine runs_of_run (f := fun d => d.uartIdleGap u) rfl ?_
    unfold Dev.uartIdleGap
    rw [hi]
    exact if_pos ⟨h0, hdue, hmoved, hburst, by rw [hdata]; rfl, by rw [hrx]; rfl⟩
  · subst hg
    refine runs_of_run (f := fun d => d.uartPacketGap u) rfl ?_
    unfold Dev.uartPacketGap
    rw [hk]
    exact if_pos ⟨h0, hdue, hp⟩
  · refine ⟨fun k hp => ?_, fun hp => ?_⟩ <;> refine runs_of_run (f := fun d => d.spiSelect u) rfl ?_ <;> unfold Dev.spiSelect <;>
      rw [if_neg (by rw [ht, hsel]; decide), onPins_taken hk hr] <;> dsimp only <;> rw [← hf, hp]
  · subst hn
    refine ⟨fun k hp => ?_, fun hp => ?_⟩ <;> refine runs_of_run (f := fun d => d.spiItem u v) rfl ?_ <;> unfold Dev.spiItem <;>
      rw [if_neg (by rw [ht, hsel]; decide), onPins_taken hk hr] <;> dsimp only <;> rw [← hf, hp]
  · refine ⟨fun k hp hopen => ?_, fun k hp hin hbad => ?_, fun hp => ?_⟩ <;>
      refine runs_of_run (f := fun d => d.spiDeselect u bad) rfl ?_ <;> unfold Dev.spiDeselect <;>
      rw [if_neg (by rw [ht, hsel]; decide), onPins_taken hk hr] <;> dsimp only <;> rw [← hf, hp]
    · exact if_pos hopen
    · exact if_neg (by rw [hin, hbad]; decide)

/-! ### I3C -/

theorem i3cCtrl_writable (c : Fin 6) : blockWritable pgI3C (i3cOff c 0) = true := by revert c; decide

theorem writeI3C_ctrl (e : Dev) (a : Nat) {c : Fin 6} (hc : c.val < 5) (v : Word) : e.writeI3C a (i3cOff c 0) v = e.writeI3cCtrl c v := by
  have hq : (i3cOff c 0 - 0x100) / 0x80 = c := by unfold i3cOff; omega
  have hr : (i3cOff c 0 - 0x100) % 0x80 = 0 := by unfold i3cOff; omega
  unfold Dev.writeI3C
  dsimp only
  rw [if_neg (by unfold i3cOff; omega), hq, if_neg (by omega), if_pos hr]

/-- A register write that arrives and is taken, as the value that the access answers. -/
theorem regWrite_block {d e e' : Dev} {a p o : Nat} {v : Word} (h : d.arrives a p o true = some e) (hu : e.unlocked p a)
    (hb : blockWritable p o = true) (hw : e.writeBlock a (e.tagOf a) p o v = some e') : d.regWrite a p o v = .ok 0 e' := by
  rw [regWrite_arrives h]
  unfold blockWritable at hb
  cases hr : regRow p o with
  | none => rw [hr] at hb; cases hb
  | some r =>
    simp [hr] at hb
    rw [writeReg_block hr (by omega) hu (by omega), hw, Option.getD_some]

/-- An in-band interrupt at an enabled controller that is not fenced. -/
theorem i3cIbi_taken {d e : Dev} {c : Nat} {r : Gate} (hc : c < 5) (hen : d.rb pgI3C (i3cOff c 0) 31 = true)
    (hk : d.knock (14 + c / 2) = (r, e)) (hr : r ≠ .fenced) (addr : Nat) (offered : List Byte) {acc : Bool} {f : Dev}
    (hacc : acc = (List.range 11).any fun t => bitAt (e.dat c t) 31 && bitAt (e.dat c t) 30 && fld (e.dat c t) 16 8 = addr)
    (hf : f = (e.bump pgI3C (i3cOff c 0x28) 1 (i3cOff c 0x2C) 2).countSerial (regionTag 3) (offered.take 8).length) :
    (acc = false → ∀ n : Nat, n = smGet (e.i3c c).unaccepted addr 0 + 1 → d.i3cIbi c addr offered =
      e.setI3c c { e.i3c c with unaccepted := smSet (e.i3c c).unaccepted addr (if n = 3 then 0 else n) 0 }) ∧
    (acc = true → (e.i3c c).ibiValid = true → d.i3cIbi c addr offered = e) ∧
    (acc = true → e.producerFifo 3 c = none → (e.i3c c).ibiValid = false → d.i3cIbi c addr offered =
      (f.setI3c c { e.i3c c with ibiValid := true, ibiAddr := BitVec.ofNat 7 addr, ibi := offered.take 8 }).raiseEvent (288 + c)) ∧
    (∀ k, acc = true → e.producerFifo 3 c = some k → (e.i3c c).ibiValid = false →
      d.i3cIbi c addr offered = ((offered.take 8).foldl (fun d b => d.fifoByte k b) f).fifoClose k false) := by
  subst hacc hf
  refine ⟨fun ha n hn => ?_, fun ha hv => ?_, fun ha hp hv => ?_, fun k ha hp hv => ?_⟩ <;> unfold Dev.i3cIbi <;> dsimp only <;>
    rw [if_neg (by rw [hen]; exact fun h => h.elim (by omega) (by decide)), onPins_taken hk hr] <;> rw [ha]
  · subst hn
    rfl
  · rw [if_neg (by decide)]
    cases e.producerFifo 3 c with
    | none | some k => exact if_pos hv
  · rw [if_neg (by decide), hp]
    exact if_neg (by rw [hv]; decide)
  · rw [if_neg (by decide), hp]
    exact if_neg (by rw [hv]; decide)

/-- Settles O27: the assignment after its register write, the interrupt by acceptance, by the one held and by the FIFO. -/
theorem i3cCommandsComplete : Obligations.I3cCommandsComplete := by
  unfold Obligations.I3cCommandsComplete
  intro s c e v hc
  refine ⟨fun a acked answers f l ha hu hw hen h29 hdaa hbusy hgate hv hl => ?_,
    fun r addr offered payload acc f hr hen hk hv hpay hacc hf => ?_, fun hen => ?_⟩
  · subst hv hl
    refine runs_of_run (f := fun d => d.daaRun a c acked answers) rfl ?_
    unfold Dev.daaRun
    dsimp only
    rw [regWrite_block ha hu (i3cCtrl_writable c) (by rw [writeBlock_i3c, writeI3C_ctrl e a hc]; exact hw)]
    refine if_neg ?_
    rw [hen, h29, hdaa, hbusy, hgate]
    simpa using hc
  · subst hv hpay
    obtain ⟨hno, hheld, hhold, hfifo⟩ := i3cIbi_taken hc hen hk hr addr.toNat offered hacc hf
    have hrun : ∀ {g}, s.dev.i3cIbi c addr.toNat offered = g → Runs (.i3cIbi c addr offered) s g := fun hg =>
      runs_of_run (f := fun d => d.i3cIbi c addr.toNat offered) rfl hg
    refine ⟨fun h k hkk => ?_, fun h hv => hrun (hheld h hv), fun h hp hv => hrun ((hhold h hp hv).trans ?_),
      fun k h hp hv => hrun (hfifo k h hp hv)⟩
    · exact hrun (hno h k hkk)
    · rw [BitVec.ofNat_toNat, BitVec.setWidth_eq]
  · exact runs_of_run (f := fun d => d.i3cBusError c) rfl (if_pos hen)

/-! ### GPIO -/

/-- A pin takes the level that it does not have, and judges the edge. -/
theorem gpioTake_new {d : Dev} {k : Nat} {v : Bool} (h : bitAt d.gpi.level k ≠ v) {edge : Nat → Bool}
    (he : edge = fun sense => sense = 3 || (sense = 1 && v) || (sense = 2 && !v)) : d.gpioTake k v =
    if edge (d.rf pgGPI (0x100 + 4 * k) 0 2)
      then ((({ d with gpi := { d.gpi with level := withBit d.gpi.level k v } }).bump pgGPI 0x058 1 0x05C 0).count 3 2
        (regionTag 3) 1).raiseEvent (64 + k)
      else { d with gpi := { d.gpi with level := withBit d.gpi.level k v } } := by
  subst he
  unfold Dev.gpioTake
  rw [if_neg h]
  refine ite_iff_congr ?_ rfl rfl
  simp only [Bool.or_eq_true, Bool.and_eq_true, decide_eq_true_eq, or_assoc]
  rfl

/-- OUT_SET and OUT_CLR of the GPIO block. -/
theorem gpioDrive_new (d : Dev) (tag : Nat) {mask v new : Word} (h : (d.reg pgGPI 0x044 &&& ~~~mask) ||| (v &&& mask) = new) :
    d.gpioDrive tag mask v = (d.setReg pgGPI 0x044 new).count 3 3 tag
      ((List.range 32).filter fun j => bitAt (d.reg pgGPI 0x044 ^^^ new) j && bitAt (d.reg pgGPI 0x048) j).length := by
  subst h
  rfl

/-- The bits of a mask taken from all ones are set. -/
theorem masked_set (x w : Word) : (x &&& ~~~w) ||| (0xFFFFFFFF &&& w) = x ||| w := by
  rw [show (0xFFFFFFFF : Word) = BitVec.allOnes 32 by decide, BitVec.allOnes_and]
  ext i
  simp only [BitVec.getElem_or, BitVec.getElem_and, BitVec.getElem_not]
  cases w[i] <;> simp

/-- Settles O28: the level by debounce and the block's sensing, the outputs by the masks of their registers. -/
theorem gpioCommandsComplete : Obligations.GpioCommandsComplete := by
  unfold Obligations.GpioCommandsComplete
  intro s k v e take edge hedge htake
  have hnew : ∀ {d : Dev}, bitAt d.gpi.level k ≠ v → d.gpioTake k v = take d := fun h => by
    rw [htake]
    exact gpioTake_new h hedge
  refine ⟨fun he => ?_, fun c he hraw hs hdb hdue => ?_, fun a w new ha hu hn => ?_, fun a w new ha hu hn => ?_⟩
  · have hlevel : e.gpi.level = s.dev.gpi.level := by subst he; split <;> rfl
    have hsense : e.gpioSenses = s.dev.gpioSenses := by subst he; split <;> rfl
    have hreg : e.regs = s.dev.regs := by subst he; split <;> rfl
    have hdeb : e.rb pgGPI (0x100 + 4 * k) 5 = s.dev.rb pgGPI (0x100 + 4 * k) 5 := congrArg (fun m => bitAt (smGet m _ _) 5) hreg
    have hchange : s.dev.gpioChange k v = if e.gpioSenses ∧ !e.rb pgGPI (0x100 + 4 * k) 5 then e.gpioTake k v else e := by
      subst he; rfl
    have hrun : ∀ {g}, s.dev.gpioChange k v = g → Runs (.gpioLevelChange k v) s g := fun hg =>
      runs_of_run (f := fun d => d.gpioChange k v) rfl hg
    rw [hsense, hdeb] at hchange
    refine ⟨fun h => hrun (hchange.trans ?_), fun h1 h2 h3 => hrun (hchange.trans ?_)⟩
    · rcases h with h | h | h
      · exact if_neg (by rw [h]; exact fun hx => absurd hx.1 (by decide))
      · exact if_neg (by rw [h]; exact fun hx => absurd hx.2 (by decide))
      · rw [← hlevel] at h
        have hsame : e.gpioTake k v = e := if_pos h
        rw [hsame]
        exact ite_self e
    · rw [if_pos ⟨h1, by rw [h2]; rfl⟩]
      exact hnew (by rw [hlevel]; exact h3)
  · subst he
    have hdb' : (s.dev.atCounts c).gpioDebounce k = (s.dev.atCounts c).gpioTake k v := by
      rw [← hraw]
      exact if_pos ⟨hs, hdb, hdue⟩
    refine ⟨fun hl => ?_, fun hl => ?_⟩ <;>
      refine runs_of_run (f := fun d => (d.atCounts c).gpioDebounce k) rfl (hdb'.trans ?_)
    · exact hnew hl
    · exact if_pos hl
  · subst hn
    refine runs_of_run (f := fun d => d.wr a pgGPI 0x04C w) rfl (wr_block ha hu (by decide) ?_).symm
    refine congrArg some (gpioDrive_new e _ ?_)
    exact masked_set _ w
  · subst hn
    refine runs_of_run (f := fun d => d.wr a pgGPI 0x050 w) rfl (wr_block ha hu (by decide) ?_).symm
    refine congrArg some (gpioDrive_new e _ ?_)
    simp

end Sys2Proof.Machine
end

section
/-!
PROOFS about the EC target port, the status rings, their mirrors and the poll page (R222-R251).
-/

namespace Sys2Proof.Machine

/-! ### The EC target port -/

section
variable {d : Dev}

theorem ecpCcc_on (h : d.ecpOn = true) (code : Nat) (f : Dev → Dev) : d.ecpCcc code f = f (d.setReg pgECP 0x074 (w32 code)) := if_pos h

theorem ecDirect_reaches (hon : d.ecpOn = true) (hdyn : d.ecpDyn ≠ 0) (code : Nat) (f : Dev → Dev) :
    d.ecDirect code f = f (d.setReg pgECP 0x074 (w32 code)) := (if_neg hdyn).trans (ecpCcc_on hon code f)

theorem ecDirect_unaddressed (hdyn : d.ecpDyn = 0) (code : Nat) (f : Dev → Dev) : d.ecDirect code f = d := if_pos hdyn

/-- ENEC and DISEC that reach the port, with or without the bit that names in-band interrupts. -/
theorem ecEvents_reaches {direct : Bool} (hon : d.ecpOn = true) (h : direct = false ∨ d.ecpDyn ≠ 0) (code : Nat) (off : Bool) (bits : Byte)
    {e : Dev} (he : e = d.setReg pgECP 0x074 (w32 (if direct then code + 0x80 else code))) :
    d.ecEvents code direct off bits = if bitAt bits 0 then { e with ecp := { e.ecp with disec := off } } else e := by
  subst he
  cases direct with
  | false => exact ecpCcc_on hon _ _
  | true => exact ecDirect_reaches hon (h.resolve_left (by decide)) _ _

/-- The interrupt that the port asks for is raised. -/
theorem ecIbi_raised (hp : d.ecp.ibiPend = true) (hon : d.ecpOn = true) (hdyn : d.ecpDyn ≠ 0) (hen : d.rb pgECP 0x040 23 = true)
    (hd : d.ecp.disec = false) (ack : Bool) : d.ecIbi ack =
    if ack then ({ d with ecp := { d.ecp with ibiPend := false, tries := 0 }, resp := [d.urgentByte.zeroExtend 32] }).ecpCount 0x060 2
    else ({ d with ecp := { d.ecp with ibiPend := decide (d.ecp.tries + 1 < 3), tries := if d.ecp.tries + 1 < 3 then d.ecp.tries + 1 else 0 } }).ecpCount
      0x064 3 := by
  unfold Dev.ecIbi
  rw [if_neg (by rw [hp, hon, hen, hd]; simpa using hdyn)]
  rfl

end

/-- Settles O29: reads and writes by the fence and the message index, CCCs by the port's address, the interrupt by its answer. -/
theorem ecPortCommandsComplete : Obligations.EcPortCommandsComplete := by
  unfold Obligations.EcPortCommandsComplete
  intro s d ccc hd hon hccc
  subst hd hccc
  refine ⟨fun n e i k hn he hi hk => ?_, fun e hfen he => ?_, fun addr => ?_, fun addr => ?_, ?_, fun q code off hq direct bits e he => ?_,
    fun q code get hq => ?_, fun code => ?_, fun hp hdyn hen hdis => ?_⟩
  · have hgo : ¬ ((!s.dev.ecpOn) = true ∨ n.val = 0) := by simpa [hon] using hn
    subst he hi hk
    refine ⟨fun hf => ?_, fun hf h31 => ?_, fun hf h31 => ?_⟩ <;> refine runs_of_run (f := fun d => d.ecRead n) rfl ((if_neg hgo).trans ?_)
    · exact if_pos hf
    · exact (if_neg (by rw [hf]; decide)).trans (if_neg (by rw [h31]; decide))
    · exact (if_neg (by rw [hf]; decide)).trans (if_pos h31)
  · subst he
    have hgo : ¬ ((!s.dev.ecpOn) = true ∨ s.dev.isFenced 24 = true) := by simp [hon, hfen]
    refine ⟨?_, fun b h0 hle => ?_, fun b hlt => ?_, fun bs hl => ?_⟩
    · exact runs_of_run (f := fun d => d.ecWrite [0]) rfl ((if_neg hgo).trans (if_pos rfl))
    · exact runs_of_run (f := fun d => d.ecWrite [b]) rfl ((if_neg hgo).trans ((if_neg h0).trans (if_pos hle)))
    · have h0 : b ≠ 0 := fun h => by subst h; simp at hlt
      exact runs_of_run (f := fun d => d.ecWrite [b]) rfl ((if_neg hgo).trans ((if_neg h0).trans (if_neg (by omega))))
    · refine runs_of_run (f := fun d => d.ecWrite bs) rfl ((if_neg hgo).trans ?_)
      match bs, hl with
      | [], _ => rfl
      | [_], hl => exact absurd rfl hl
      | _ :: _ :: _, _ => rfl
  · exact runs_of_run (f := fun d => d.ecAssign 0x87 addr) rfl (ecpCcc_on hon _ _)
  · exact runs_of_run (f := fun d => d.ecAssign 0x07 addr) rfl (ecpCcc_on hon _ _)
  · exact runs_of_run (f := Dev.ecReset) rfl (ecpCcc_on hon _ _)
  · have hrun : ∀ {g}, s.dev.ecEvents code direct off bits = g → Runs (q direct bits) s g := fun hg => by
      rcases hq with ⟨rfl, rfl, rfl⟩ | ⟨rfl, rfl, rfl⟩
      · exact runs_of_run (f := fun d => d.ecEvents 0x00 direct false bits) rfl hg
      · exact runs_of_run (f := fun d => d.ecEvents 0x01 direct true bits) rfl hg
    refine ⟨fun h h0 => hrun ((ecEvents_reaches hon h code off bits he).trans (if_pos h0)),
      fun h h0 => hrun ((ecEvents_reaches hon h code off bits he).trans (if_neg (by rw [h0]; decide))), fun h h0 => hrun ?_⟩
    subst h
    exact ecDirect_unaddressed h0 _ _
  · have hrun : ∀ {g}, s.dev.ecGet code get = g → Runs q s g := fun hg => by
      rcases hq with ⟨rfl, rfl, rfl⟩ | ⟨rfl, rfl, rfl⟩ | ⟨rfl, rfl, rfl⟩ | ⟨rfl, rfl, rfl⟩
      · exact runs_of_run (f := fun d => d.ecGet 0x8D Dev.ecPid) rfl hg
      · exact runs_of_run (f := fun d => d.ecGet 0x8E fun d => [d.rf pgECP 0x050 8 8]) rfl hg
      · exact runs_of_run (f := fun d => d.ecGet 0x8F fun d => [d.rf pgECP 0x050 0 8]) rfl hg
      · exact runs_of_run (f := fun d => d.ecGet 0x8C fun d => [d.rf pgECP 0x078 8 8, d.rf pgECP 0x078 0 8]) rfl hg
    exact ⟨fun h => hrun (ecDirect_reaches hon h _ _), fun h => hrun (ecDirect_unaddressed h _ _)⟩
  · exact runs_of_run (f := fun d => d.ecUnsupported code.toNat) rfl (ecpCcc_on hon _ _)
  · have h := ecIbi_raised hp hon hdyn hen hdis
    refine ⟨runs_of_run (f := fun d => d.ecIbi true) rfl (h true), fun ht => ?_, fun ht => ?_⟩ <;>
      refine runs_of_run (f := fun d => d.ecIbi false) rfl ((h false).trans ?_) <;> rw [if_neg (by decide)]
    · rw [decide_eq_false (by omega), if_neg (by omega)]
    · rw [decide_eq_true (by omega), if_pos (by omega)]

/-! ### Rings -/

theorem rcfg_writable (i : Fin 128) : blockWritable pgHIF (rcfgOff i) = true := by revert i; decide +kernel
theorem rcons_writable (i : Fin 128) : blockWritable pgHIF (rconsOff i) = true := by revert i; decide +kernel
theorem merr_writable (j : Fin 4) : blockWritable pgHIF (0x070 + 4 * j) = true := by revert j; decide

section
variable {d : Dev} {r : Nat} {v new : Word}

/-- RCFG of an enabled ring keeps its fields; the ring stays as it is, or is disabled where nothing is in it. -/
theorem writeRCFG_enabled (hen : d.ringEn r = true) (hnew : new = v &&& 0xE01F00FF) : d.writeRCFG r v =
    if (d.rcfg r ^^^ new) &&& 0x7FFFFFFF ≠ 0 then none
    else if bitAt new 31 then some d
    else if d.prod r = d.cons r ∧ !d.hif.store.any fun w => w.ring = r then some (d.setReg pgHIF (0x600 + 4 * r) new) else none := by
  subst hnew
  exact if_pos hen

/-- RCFG of a disabled ring enables it where its fields are good. -/
theorem writeRCFG_disabled (hen : d.ringEn r = false) (hnew : new = v &&& 0xE01F00FF) {size base : Nat} {good : Bool} (hsize : size = 32 * 2 ^ fld v 16 5)
    (hbase : base = d.rf pgHIF (0x400 + 4 * r) 5 21 * 32)
    (hgood : good = decide (6 ≤ fld v 16 5 ∧ fld v 16 5 ≤ 16 ∧ fld v 0 8 ≠ 0 ∧ base % size = 0 ∧ base + size ≤ xramBase ∧
        (bitAt v 30 = true → (d.reg pgHIF (0xA00 + 4 * r)).toNat * 32 % size = 0))) : d.writeRCFG r v =
    if bitAt new 31 then if good then some ((d.setReg pgHIF (0x600 + 4 * r) new).ringStart r) else none
    else some (d.setReg pgHIF (0x600 + 4 * r) new) := by
  subst hnew hsize hbase
  refine (if_neg (by rw [show bitAt (d.rcfg r) 31 = false from hen]; decide)).trans (ite_iff_congr Iff.rfl (ite_iff_congr ?_ rfl rfl) rfl)
  rw [hgood, decide_eq_true_eq]
  unfold within
  cases bitAt v 30 with
  | true | false => simp [and_assoc]

end

/-- Bit 31 of a word for RCFG stays as it is written. -/
theorem rcfgWord_bit31 (v : Word) (b : Bool) : bitAt (withBit v 31 b &&& 0xE01F00FF) 31 = b := by
  have hmask : (0xE01F00FF : Word).getLsbD 31 = true := by decide
  have hkeep : (~~~(BitVec.ofNat 32 ((2 ^ 1 - 1) * 2 ^ 31)) : Word).getLsbD 31 = false := by decide
  unfold bitAt withBit withFld
  dsimp only
  rw [BitVec.getLsbD_and, BitVec.getLsbD_or, BitVec.getLsbD_and, hmask, hkeep]
  cases b with
  | true | false => simp

section
variable {s : State} {e : Dev} {a : Nat} {i : Fin 128} {v : Word} {q : Instr}

/-- A write of RCFG does what its rules say, or is discarded. -/
theorem wr_rcfg (ha : s.dev.arrives a pgHIF (rcfgOff i) true = some e) (hu : e.unlocked pgHIF a) :
    (∀ f, e.writeRCFG i v = some f → s.dev.wr a pgHIF (rcfgOff i) v = f) ∧
    (e.writeRCFG i v = none → s.dev.wr a pgHIF (rcfgOff i) v = e.badWrite pgHIF a (rcfgOff i)) := by
  have h : e.writeBlock a (e.tagOf a) pgHIF (rcfgOff i) v = e.writeRCFG i v := (writeBlock_hif ..).trans (writeHIF_cfg ..)
  exact ⟨fun f hf => (wr_block ha hu (rcfg_writable i) (h.trans hf)).symm, fun hf => wr_block_discarded ha hu (rcfg_writable i) (h.trans hf)⟩

theorem wr_rcons (ha : s.dev.arrives a pgHIF (rconsOff i) true = some e) (hu : e.unlocked pgHIF a) :
    (∀ f, e.writeRCONS i v = some f → s.dev.wr a pgHIF (rconsOff i) v = f) ∧
    (e.writeRCONS i v = none → s.dev.wr a pgHIF (rconsOff i) v = e.badWrite pgHIF a (rconsOff i)) := by
  have h : e.writeBlock a (e.tagOf a) pgHIF (rconsOff i) v = e.writeRCONS i v := (writeBlock_hif ..).trans (writeHIF_cons ..)
  exact ⟨fun f hf => (wr_block ha hu (rcons_writable i) (h.trans hf)).symm, fun hf => wr_block_discarded ha hu (rcons_writable i) (h.trans hf)⟩

end

/-- Settles O30: the rings' registers by what they may become, HOST by what it was. -/
theorem ringCommandsComplete : Obligations.RingCommandsComplete := by
  unfold Obligations.RingCommandsComplete
  intro s a i e v hu
  refine ⟨fun w new size base good hw ha hnew hsize hbase hgood => ?_, fun new ha hnew h31 hsame => ?_, fun ha => ⟨fun hle => ?_, fun hlt => ?_⟩,
    fun ha => ⟨?_, fun hsl => ?_, fun haw => ?_⟩⟩
  · obtain ⟨htaken, hdisc⟩ := wr_rcfg (v := w) ha hu
    have h31 : bitAt new 31 = true := by rw [hnew, hw]; exact rcfgWord_bit31 v true
    have hoff := fun hen => writeRCFG_disabled (d := e) (v := w) hen hnew hsize hbase hgood
    have hon := fun hen => writeRCFG_enabled (d := e) (r := i) (v := w) hen hnew
    have hrun : ∀ {g}, s.dev.wr a pgHIF (rcfgOff i) w = g → Runs (.ringEnable a i v) s g := fun hg => by
      subst hw
      exact runs_of_run (f := fun d => d.wr a pgHIF (rcfgOff i) (withBit v 31 true)) rfl hg
    refine ⟨fun hen hg => ?_, fun hen hg => hrun (hdisc ?_), fun hen hs => hrun (htaken e ?_), fun hen hs => hrun (hdisc ?_)⟩
    · refine ⟨_, hrun (htaken _ ((hoff hen).trans ((if_pos h31).trans (if_pos hg)))), rfl, rfl, rfl⟩
    · exact (hoff hen).trans ((if_pos h31).trans (if_neg (by rw [hg]; decide)))
    · exact (hon hen).trans ((if_neg (not_not_intro hs)).trans (if_pos h31))
    · exact (hon hen).trans (if_pos hs)
  · obtain ⟨htaken, hdisc⟩ := wr_rcfg (v := withBit (s.dev.reg pgHIF (rcfgOff i)) 31 false) ha hu
    have h31' : ¬ bitAt new 31 = true := by rw [h31]; decide
    have hon := fun hen => writeRCFG_enabled (d := e) (r := i) (v := withBit (s.dev.reg pgHIF (rcfgOff i)) 31 false) hen hnew
    have hrun : ∀ {g}, s.dev.wr a pgHIF (rcfgOff i) (withBit (s.dev.reg pgHIF (rcfgOff i)) 31 false) = g → Runs (.ringDisable a i) s g :=
      fun hg => runs_of_run (f := fun d => d.wr a pgHIF (rcfgOff i) (withBit (d.reg pgHIF (rcfgOff i)) 31 false)) rfl hg
    refine ⟨fun h => hrun (htaken _ ?_), fun hen h => hrun (hdisc ?_)⟩
    · cases hen : e.ringEn i with
      | false => exact (writeRCFG_disabled hen hnew rfl rfl rfl).trans (if_neg h31')
      | true =>
        obtain ⟨hidx, hst⟩ := h.resolve_left (by rw [hen]; decide)
        exact (hon hen).trans ((if_neg (not_not_intro hsame)).trans ((if_neg h31').trans (if_pos ⟨hidx, by rw [hst]; rfl⟩)))
    · refine (hon hen).trans ((if_neg (not_not_intro hsame)).trans ((if_neg h31').trans (if_neg fun ⟨hidx, hst⟩ => ?_)))
      rcases h with h | h
      · exact h hidx
      · rw [h] at hst; cases hst
  · exact runs_of_run (f := fun d => d.wr a pgHIF (rconsOff i) v) rfl ((wr_rcons ha hu).1 _ (if_pos hle))
  · exact runs_of_run (f := fun d => d.wr a pgHIF (rconsOff i) v) rfl ((wr_rcons ha hu).2 (if_neg (by omega)))
  · refine runs_of_run (f := fun d => d.wr a pgHIF 0x040 0) rfl (wr_block ha hu (by decide) ?_).symm
    rfl
  · refine runs_of_run (f := fun d => d.wr a pgHIF 0x040 1) rfl (wr_block ha hu (by decide) ?_).symm
    have hawake : e.hostAwake = (e.setRf pgHIF 0x040 0 1 1).flushStart := if_neg (by rw [hsl]; decide)
    rw [← hawake]
    exact congrArg some ((if_pos (by decide)).trans (if_neg (by rw [hsl]; decide)))
  · refine runs_of_run (f := fun d => d.wr a pgHIF 0x040 1) rfl (wr_block ha hu (by decide) ?_).symm
    exact congrArg some ((if_pos (by decide)).trans (if_pos haw))

/-! ### Mirrors and the poll page -/

section
variable {d : Dev} {r : Nat} {target : Word}

theorem mirrorMake_awake (h : ∀ k ∈ d.mirrorDoms r target, d.gate k ≠ .asleep) : d.mirrorMake r target = (true, d.mirrorTo r target) :=
  if_neg (by simpa using h)

theorem mirrorMake_asleep (h : ∃ k ∈ d.mirrorDoms r target, d.gate k = .asleep) :
    d.mirrorMake r target = (false, (d.mirrorDoms r target).foldl (fun d k => (d.knock k).2) d) :=
  if_pos (by simpa using h)

theorem mirrorRun_awake (h : ∀ k ∈ d.mirrorDoms r target, d.gate k ≠ .asleep) : d.mirrorRun r target = d.mirrorTo r target := by
  unfold Dev.mirrorRun
  rw [mirrorMake_awake h]

theorem mirrorRun_asleep (h : ∃ k ∈ d.mirrorDoms r target, d.gate k = .asleep) {f : Dev}
    (hf : f = (d.mirrorDoms r target).foldl (fun d k => (d.knock k).2) d) :
    d.mirrorRun r target = { f with held := f.held ++ [.mirror r target] } := by
  subst hf
  unfold Dev.mirrorRun
  rw [mirrorMake_asleep h]

end

/-- The words that MERR clears ring by ring. -/
theorem writeHIF_merr (e : Dev) (a : Nat) (j : Fin 4) (v : Word) : e.writeHIF a (0x070 + 4 * j) v =
    some ((List.range 32).foldl (fun d b => if bitAt v b && d.merr (32 * j + b) then d.merrResume (32 * j + b) else d) e) := by
  have hj : (0x070 + 4 * j.val - 0x070) / 4 = j := by omega
  unfold Dev.writeHIF
  rw [if_neg (by omega), if_neg (by omega), if_pos (by omega), hj]

/-- A poll page read of a size that it may have, with the path to the page awake. -/
theorem bar2Read_arrives {d e f : Dev} {o n : Nat} (he : e = d.linkWake 6) (hn : n = 4 ∨ ((n = 8 ∨ n = 16) ∧ o + n ≤ 0x20)) (ho : o % n = 0)
    (hh : e.faults.halted = false) (hk : e.knockEach [3, 4] = (false, f)) : d.bar2Read o n =
    if f.fencedOn [3, 4] = true then f.answer .abort []
    else ((f.countTlp 1 (agentTag agHost) 2 n).pollRegion (agentTag agHost) o n).2.answer .success
      ((f.countTlp 1 (agentTag agHost) 2 n).pollRegion (agentTag agHost) o n).1 := by
  have hmax : max n 1 = n := by omega
  subst he
  unfold Dev.bar2Read
  dsimp only
  rw [if_neg (by rw [hmax]; exact fun h => h.elim (fun h => h ho) (fun h => h hn)), if_neg (by rw [hh]; exact fun h => absurd h.1 (by decide))]
  simp only [hh, hk, Bool.false_eq_true, if_false, Bool.not_false, true_and]

/-- Settles O31: a batch by what calls for it and the domains on its way, the flush by its next ring, the poll page by its reads. -/
theorem mirrorAndPollCommandsComplete : Obligations.MirrorAndPollCommandsComplete := by
  unfold Obligations.MirrorAndPollCommandsComplete
  intro s a i c e
  refine ⟨fun q due ks hq hks => ?_, fun j bits ha hu => ?_, fun he hl hpm hfl hopen => ?_, fun hi ha hu => ?_, fun he hnp hr => ?_,
    fun o n f he hn ho hh hk => ?_⟩
  · subst hks
    have hrun : ∀ {g}, (if due then e.mirrorBatch i else e) = g → Runs q s g := fun hg => by
      rcases hq with ⟨rfl, he, hdue⟩ | ⟨rfl, he, hdue⟩ <;> subst hdue he
      · refine runs_of_run (f := fun d => (d.atCounts c).modExpiry i) rfl (Eq.trans ?_ hg)
        exact ite_iff_congr (Bool.and_eq_true ..).symm.to_iff rfl rfl
      · exact runs_of_run (f := fun d => d.batchDue i) rfl hg
    have hbatch : e.batching i = false → e.mirrorBatch i = e.mirrorRun i (e.prod i) := fun h => if_neg (by rw [h]; decide)
    refine ⟨fun hdue hb hw => hrun ((if_pos hdue).trans ((hbatch hb).trans (mirrorRun_awake hw))),
      fun hdue hb hs f hf => hrun ((if_pos hdue).trans ((hbatch hb).trans (mirrorRun_asleep hs hf))), fun h => hrun ?_⟩
    rcases h with h | h
    · exact if_neg (by rw [h]; decide)
    · have hsame : e.mirrorBatch i = e := if_pos h
      rw [hsame, ite_self]
  · refine runs_of_run (f := fun d => d.wr a pgHIF (0x070 + 4 * j) bits) rfl (wr_block ha hu (merr_writable j) ?_).symm
    exact (writeBlock_hif ..).trans (writeHIF_merr ..)
  · subst he
    have hgo : ¬ ((!s.dev.hif.flushing) = true ∨ (!s.dev.hostOpen) = true) := by simp [hfl, hopen]
    have hring : s.dev.flushRing = s.dev.flushStep := if_pos ⟨hl, hpm⟩
    have hnext : ∀ {r}, s.dev.flushNext = some r →
        s.dev.flushStep = (s.dev.mirrorMake r ((smFind s.dev.hif.flushTo r).getD (s.dev.mirrored r))).2.flushSkip := fun hr => by
      unfold Dev.flushStep
      rw [if_neg hgo, hr]
    refine ⟨fun hn => runs_of_run (f := Dev.flushRing) rfl (hring.trans ?_), fun r upTo ks hr hup hks => ?_⟩
    · unfold Dev.flushStep
      rw [if_neg hgo, hn]
      rfl
    · subst hks hup
      refine ⟨fun hw => ?_, fun hs => ?_⟩ <;> refine runs_of_run (f := Dev.flushRing) rfl (hring.trans ((hnext hr).trans ?_))
      · rw [mirrorMake_awake hw]
      · rw [mirrorMake_asleep hs]
  · refine runs_of_run (f := fun d => d.wr a pgHIF 0x04C hi) rfl (wr_block ha hu (by decide) ?_).symm
    rw [writeBlock_hif]
    unfold Dev.writeHIF
    rw [if_neg (by decide), if_pos rfl, plain_whole (by decide)]
    rfl
  · subst he
    exact runs_of_run (f := fun d => (d.atCounts c).pollLapse) rfl (if_pos ⟨hnp, hr⟩)
  · have hread := bar2Read_arrives he hn ho hh hk
    refine ⟨fun hf => ?_, fun bs g hf hp => ?_⟩ <;> refine runs_of_run (f := fun d => (d.atCounts c).bar2Read o.toNat n) rfl (hread.trans ?_)
    · exact if_pos hf
    · rw [if_neg (by rw [hf]; decide), hp]

end Sys2Proof.Machine
end

section
/-!
PROOFS about the commands of the data movers: channels, runs, descriptors and notices (R253-R276).
-/

namespace Sys2Proof.Machine

/-! ### Channel registers -/

theorem chCfg_writable (k : Fin 128) : blockWritable (chPage k) (mvOff k 0x08) = true := by revert k; decide +kernel
theorem chTail_writable (k : Fin 128) : blockWritable (chPage k) (mvOff k 0x0C) = true := by revert k; decide +kernel

section
variable {s : State} {e : Dev} {a : Nat} {k : Fin 128} {v : Word}

/-- A write of CH_CFG does what R254 and R255 say, or is discarded. -/
theorem wr_chCfg (ha : s.dev.arrives a (chPage k) (mvOff k 0x08) true = some e) (hu : e.unlocked (chPage k) a) :
    (∀ f, e.mvCfgWrite k v = some f → s.dev.wr a (chPage k) (mvOff k 0x08) v = f) ∧
    (e.mvCfgWrite k v = none → s.dev.wr a (chPage k) (mvOff k 0x08) v = e.badWrite (chPage k) a (mvOff k 0x08)) := by
  have h : e.writeBlock a (e.tagOf a) (chPage k) (mvOff k 0x08) v = e.mvCfgWrite k v := (writeBlock_wdm ..).trans (writeWDM_cfg ..)
  exact ⟨fun f hf => (wr_block ha hu (chCfg_writable k) (h.trans hf)).symm, fun hf => wr_block_discarded ha hu (chCfg_writable k) (h.trans hf)⟩

/-- A write of CH_TAIL. -/
theorem wr_chTail (ha : s.dev.arrives a (chPage k) (mvOff k 0x0C) true = some e) (hu : e.unlocked (chPage k) a) :
    (∀ f, e.mvTailWrite k v = some f → s.dev.wr a (chPage k) (mvOff k 0x0C) v = f) ∧
    (e.mvTailWrite k v = none → s.dev.wr a (chPage k) (mvOff k 0x0C) v = e.badWrite (chPage k) a (mvOff k 0x0C)) := by
  have h : e.writeBlock a (e.tagOf a) (chPage k) (mvOff k 0x0C) v = e.mvTailWrite k v := (writeBlock_wdm ..).trans (writeWDM_tail ..)
  exact ⟨fun f hf => (wr_block ha hu (chTail_writable k) (h.trans hf)).symm, fun hf => wr_block_discarded ha hu (chTail_writable k) (h.trans hf)⟩

end

section
variable {d g : Dev} {k : Nat} {w : Word}

theorem mvCfgWrite_fixed (hk : fld w 0 4 ≠ fld (d.mvCfg k) 0 4) (h : bitAt (d.mvCfg k) 31 = true ∨ (d.mchan k).state ≠ .off) :
    d.mvCfgWrite k w = none := if_pos ⟨hk, h⟩

theorem mvCfgWrite_notEnabled (hw : bitAt w 31 = true) (ho : bitAt (d.mvCfg k) 31 = false)
    (h : (d.mchan k).state ≠ .off ∨ d.mvEnOk k w = false) : d.mvCfgWrite k w = none := by
  have h2 : bitAt w 31 = true ∧ (!bitAt (d.mvCfg k) 31) = true ∧ ((d.mchan k).state ≠ .off ∨ (!d.mvEnOk k w) = true) :=
    ⟨hw, by rw [ho]; rfl, h.imp_right fun h => by rw [h]; rfl⟩
  unfold Dev.mvCfgWrite
  dsimp only
  rw [if_pos h2, ite_self]

theorem mvCfgWrite_enabled (hw : bitAt w 31 = true) (ho : bitAt (d.mvCfg k) 31 = false) (hc : (d.mchan k).state = .off) (hok : d.mvEnOk k w = true)
    (hg : g = d.setReg (mvPage k) (mvOff k 8) (w &&& 0xC000000F)) : d.mvCfgWrite k w =
    some (g.setMchan k { d.mchan k with head := 0, tail := 0, crc := 0xFFFFFFFF, stalled := false, state := .idle }) := by
  subst hg
  refine (if_neg fun h => ?_).trans ((if_neg fun h => ?_).trans (congrArg some (if_pos ⟨hw, by rw [ho]; rfl⟩)))
  · exact h.2.elim (fun h => by rw [ho] at h; cases h) fun h => h hc
  · exact h.2.2.elim (fun h => h hc) fun h => by rw [hok] at h; cases h

/-- A write of CH_CFG that does not enable the channel, and leaves K where it must. -/
theorem mvCfgWrite_kept (hk : fld w 0 4 = fld (d.mvCfg k) 0 4 ∨ (bitAt (d.mvCfg k) 31 = false ∧ (d.mchan k).state = .off))
    (hen : bitAt w 31 = true → bitAt (d.mvCfg k) 31 = true) (hg : g = d.setReg (mvPage k) (mvOff k 8) (w &&& 0xC000000F)) : d.mvCfgWrite k w =
    some (if (d.mchan k).state = .running ∨ (d.mchan k).state = .off then g
      else if !bitAt w 31 then g.setMchan k { d.mchan k with state := .off }
      else if bitAt w 30 ∧ (d.mchan k).state = .ready then g.setMchan k { d.mchan k with state := .braked }
      else if !bitAt w 30 ∧ bitAt (d.mvCfg k) 30 then g.setMchan k { d.mchan k with state := g.mvRest k }
      else g) := by
  subst hg
  have hneg : bitAt w 31 = true → ¬ (!bitAt (d.mvCfg k) 31) = true := fun h => by rw [hen h]; decide
  refine (if_neg fun h => ?_).trans ((if_neg fun h => hneg h.1 h.2.1).trans (congrArg some (if_neg fun h => hneg h.1 h.2)))
  rcases hk with hk | ⟨ho, hc⟩
  · exact h.1 hk
  · exact h.2.elim (fun h => by rw [ho] at h; cases h) fun h => h hc

end

/-! ### Runs and descriptors -/

section
variable {s : State} {m : Fin 16} {q : Instr} {f : Dev → Dev} {e : Dev}

theorem runs_onMover (hx : exec q s = s.run fun d => d.onMover m f) (hg : s.dev.gate (moverDom (m / 2)) = .ok) (he : f s.dev = e) :
    Runs q s e := runs_of_run (f := fun d => d.onMover m f) hx ((if_pos hg).trans he)

theorem runs_onMover_stopped (hx : exec q s = s.run fun d => d.onMover m f) (hg : s.dev.gate (moverDom (m / 2)) ≠ .ok) :
    Runs q s s.dev := runs_of_run (f := fun d => d.onMover m f) hx (if_neg hg)

end

section
variable {d : Dev} {n : Nat}

theorem knock_ok {k : Nat} (h : d.gate k = .ok) : d.knock k = (.ok, d.touch k) := by
  unfold Dev.knock
  rw [h]

theorem mvRunStart_ready (hg : d.gate (moverDom (n / 2)) = .ok) (hr : (d.mover n).running = false) (hen : d.pageEn (pgWDM + n / 2) = true)
    {e : Dev} (he : e = d.touch (moverDom (n / 2))) :
    (e.mvNext n = none → d.mvRunStart n = e) ∧
    (∀ j, e.mvNext n = some j → d.mvRunStart n =
      (e.setMover n { d.mover n with running := true, chan := j, fresh := false, last := false, cur := none }).setMchan (8 * n + j)
        { e.mchan (8 * n + j) with state := .running }) := by
  subst he
  have hgo : ¬ ((d.mover n).running = true ∨ (!d.pageEn (pgWDM + n / 2)) = true) := by simp [hr, hen]
  refine ⟨fun hn => ?_, fun j hn => ?_⟩ <;> unfold Dev.mvRunStart <;> dsimp only <;> rw [if_neg hgo, knock_ok hg] <;> dsimp only <;> rw [hn]

section
variable (hg : d.gate (moverDom (n / 2)) = .ok) (hr : (d.mover n).running = true) (hc : (d.mover n).cur = none)
include hr hc

theorem mvFetch_stops {st : MvState} (hs : d.mvStops n = some st) : d.mvFetch n = d.mvRunEnd n st := by
  unfold Dev.mvFetch
  refine (if_neg ?_).trans ?_
  · rw [hr, hc]; decide
  · rw [hs]

include hg

/-- The read of a descriptor that meets a fence or a sleeping domain on its way. -/
theorem mvFetch_stopped (hs : d.mvStops n = none) {k a : Nat} {f : Dev} (hk : k = 8 * n + (d.mover n).chan) (ha : a = d.mvBase k + 32 * (d.mchan k).head) :
    (d.reach (moverDom (n / 2)) a = (.asleep, f) → d.mvFetch n = f) ∧
    (d.reach (moverDom (n / 2)) a = (.fenced, f) →
      d.mvFetch n = f.setMover n { d.mover n with cur := some { bytes := List.replicate 32 0, err := 9 } }) := by
  subst ha hk
  have hgo : ¬ ((!(d.mover n).running) = true ∨ (d.mover n).cur.isSome = true) := by rw [hr, hc]; decide
  refine ⟨fun h => ?_, fun h => ?_⟩ <;> unfold Dev.mvFetch <;> simp only [hgo, hs, knock_ok hg, h, if_false]

/-- The read of a descriptor whose bytes arrive. -/
theorem mvFetch_read (hs : d.mvStops n = none) {k a : Nat} {f g h : Dev} {bs : List Byte} {bad : Bool} (hk : k = 8 * n + (d.mover n).chan)
    (ha : a = d.mvBase k + 32 * (d.mchan k).head) (hreach : d.reach (moverDom (n / 2)) a = (.ok, f)) (hread : f.memRead a 32 = (bs, bad, g))
    (hh : h = g.countAccess (agentTag (0x60 + n)) (moverDom (n / 2)) false a 32) : d.mvFetch n =
    if bad then h.setMover n { d.mover n with cur := some { bytes := bs, err := 8 } }
    else if !bitAt (mdCtrl bs) 31 then (h.setMchan k { h.mchan k with stalled := true }).mvRunEnd n (if h.mvBrake k then .braked else .idle)
    else h.setMover n { d.mover n with cur := some {
      bytes := bs, err := h.mdErr bs, ovlp := mdOverlap bs, down := mdOverlap bs && mdDown bs
      blk := if (mdOverlap bs && mdDown bs) = true then (mdCount bs - 1) / 64 * 64 else 0
      crc := if bitAt (mdCtrl bs) 13 then (h.mchan k).crc else 0xFFFFFFFF } } := by
  subst ha hk hh
  have hgo : ¬ ((!(d.mover n).running) = true ∨ (d.mover n).cur.isSome = true) := by rw [hr, hc]; decide
  unfold Dev.mvFetch
  simp only [hgo, hs, knock_ok hg, hreach, hread, if_false]

end

section
variable {x : MvDesc} (hx : (d.mover n).cur = some x)
include hx

theorem mvHalf_cur : d.mvHalf n =
    if x.halfDue then (d.setMover n { d.mover n with cur := some { x with half := true } }).raiseEvent (d.mvEvent n) else d := by
  unfold Dev.mvHalf
  rw [hx]

theorem mvComplete_moving (h : x.hostReq.isSome = true ∨ (x.err = 0 ∧ x.wpos < mdCount x.bytes)) : d.mvComplete n = d := by
  unfold Dev.mvComplete
  rw [hx]
  exact if_pos (h.imp_right .inl)

/-- A descriptor that has moved its bytes or failed is handed back, or first acknowledges its host window writes. -/
theorem mvComplete_done (hreq : x.hostReq = none) (hdone : x.err ≠ 0 ∨ mdCount x.bytes ≤ x.wpos) (hg : d.gate (moverDom (n / 2)) = .ok) :
    (x.needsFlush = true → d.mvComplete n = d.mvFlush n x (x.hostWrote.getD 0)) ∧
    (x.needsFlush = false → ∀ (k : Nat) (e : Dev), k = 8 * n + (d.mover n).chan →
      (d.reach (moverDom (n / 2)) (d.mvBase k + 32 * (d.mchan k).head) = (.ok, e) → d.mvComplete n = e.mvHandBack n x) ∧
      (d.reach (moverDom (n / 2)) (d.mvBase k + 32 * (d.mchan k).head) = (.asleep, e) → d.mvComplete n = e) ∧
      (d.reach (moverDom (n / 2)) (d.mvBase k + 32 * (d.mchan k).head) = (.fenced, e) → d.mvComplete n = e.mvRunEnd n .error)) := by
  have hgo : ¬ (x.hostReq.isSome = true ∨ (x.err = 0 ∧ x.wpos < mdCount x.bytes) ∨ d.gate (moverDom (n / 2)) ≠ .ok) := by
    rw [hreq, hg]
    rintro (h | ⟨h1, h2⟩ | h)
    · cases h
    · exact hdone.elim (fun h => h h1) (fun h => by omega)
    · exact h rfl
  refine ⟨fun hf => ?_, fun hf k e hk => ⟨fun h => ?_, fun h => ?_, fun h => ?_⟩⟩ <;> unfold Dev.mvComplete <;> rw [hx] <;> dsimp only <;>
    rw [if_neg hgo]
  · exact if_pos hf
  all_goals subst hk; rw [if_neg (by rw [hf]; decide), h]

end

end

/-- Settles O32: the channel's registers by what R254 to R256 allow, the run by its channel, the descriptor by its read and its progress. -/
theorem moverCommandsComplete : Obligations.MoverCommandsComplete := by
  unfold Obligations.MoverCommandsComplete
  refine ⟨?_, ?_⟩
  · intro s a k e v c hc hu
    subst hc
    refine ⟨fun q old w g ha hq hold hg => ?_, fun ha => ?_⟩
    · subst hold
      obtain ⟨htaken, hdisc⟩ := wr_chCfg (v := w) ha hu
      have hrun : ∀ {f}, s.dev.wr a (chPage k) (mvOff k 0x08) w = f → Runs q s f := fun hf => by
        rcases hq with ⟨rfl, rfl⟩ | ⟨rfl, rfl⟩ | ⟨rfl, rfl⟩ | ⟨rfl, rfl⟩
        · exact runs_of_run (f := fun d => d.wr a (chPage k) (mvOff k 0x08) (withBit v 31 true)) rfl hf
        · exact runs_of_run (f := fun d => d.chCfg a k 31 false) rfl hf
        · exact runs_of_run (f := fun d => d.chCfg a k 30 true) rfl hf
        · exact runs_of_run (f := fun d => d.chCfg a k 30 false) rfl hf
      refine ⟨fun hk h => hrun (hdisc (mvCfgWrite_fixed hk h)), fun hw ho h => hrun (hdisc (mvCfgWrite_notEnabled hw ho h)),
        fun hw ho hc hok => hrun (htaken _ (mvCfgWrite_enabled hw ho hc hok hg)), fun hk hen => ?_⟩
      have hkept := fun f hf => hrun (htaken f ((mvCfgWrite_kept hk hen hg).trans (congrArg some hf)))
      refine ⟨fun h => hkept _ (if_pos h), fun h1 h2 => ?_⟩
      have hout : ¬ ((e.mchan k).state = .running ∨ (e.mchan k).state = .off) := not_or.mpr ⟨h1, h2⟩
      have hon : bitAt w 31 = true → ¬ (!bitAt w 31) = true := fun h => by rw [h]; decide
      have hrel : bitAt w 30 = false → ¬ (bitAt w 30 = true ∧ (e.mchan k).state = .ready) := fun h => by rw [h]; exact fun h => absurd h.1 (by decide)
      refine ⟨fun hw => hkept _ ((if_neg hout).trans (if_pos (by rw [hw]; rfl))),
        fun hw hb hr => hkept _ ((if_neg hout).trans ((if_neg (hon hw)).trans (if_pos ⟨hb, hr⟩))),
        fun hw hb hr => hkept _ ((if_neg hout).trans ((if_neg (hon hw)).trans ((if_neg fun h => hr h.2).trans (if_neg ?_)))),
        fun hw hb ho => hkept _ ((if_neg hout).trans ((if_neg (hon hw)).trans ((if_neg (hrel hb)).trans (if_pos ⟨by rw [hb]; rfl, ho⟩)))),
        fun hw hb ho => hkept _ ((if_neg hout).trans ((if_neg (hon hw)).trans ((if_neg (hrel hb)).trans (if_neg ?_))))⟩
      · rw [hb]; exact fun h => absurd h.1 (by decide)
      · rw [ho]; exact fun h => absurd h.2 (by decide)
    · obtain ⟨htaken, hdisc⟩ := wr_chTail (v := v) ha hu
      refine ⟨fun h => ?_, fun b g hb hg hen hlt => ?_⟩
      · exact runs_of_run (f := fun d => d.wr a (chPage k) (mvOff k 0x0C) v) rfl
          (hdisc (if_pos (h.imp_left fun h => by rw [h]; rfl)))
      · have hgo : ¬ ((!e.mvEn k) = true ∨ e.mvSize k ≤ v.toNat) := by
          rw [hen]; exact fun h => h.elim (by decide) (by omega)
        subst hg hb
        refine ⟨fun hr => ?_, fun hr => ?_⟩ <;>
          refine runs_of_run (f := fun d => d.wr a (chPage k) (mvOff k 0x0C) v) rfl (htaken _ ((if_neg hgo).trans ?_))
        · exact if_pos hr
        · exact if_neg hr
  · intro s m v d hd hv
    subst hd hv
    refine ⟨fun q hq hg => ?_, fun hg => ⟨fun h => ?_, fun e he hr hen => ?_, fun h => ?_, fun hr hc => ?_, fun hc => ?_, fun x hx => ?_⟩⟩
    · simp only [List.mem_cons, List.not_mem_nil, or_false] at hq
      rcases hq with rfl | rfl | rfl | rfl
      · exact runs_onMover_stopped (f := fun d => d.mvRunStart m) rfl hg
      · exact runs_onMover_stopped (f := fun d => d.mvFetch m) rfl hg
      · exact runs_onMover_stopped (f := fun d => d.mvHalf m) rfl hg
      · exact runs_onMover_stopped (f := fun d => d.mvComplete m) rfl hg
    · exact runs_onMover (f := fun d => d.mvRunStart m) rfl hg (if_pos (h.imp_right fun h => by rw [h]; rfl))
    · obtain ⟨hnone, hsome⟩ := mvRunStart_ready hg hr hen he
      exact ⟨fun h => runs_onMover (f := fun d => d.mvRunStart m) rfl hg (hnone h),
        fun j h => runs_onMover (f := fun d => d.mvRunStart m) rfl hg (hsome j h)⟩
    · exact runs_onMover (f := fun d => d.mvFetch m) rfl hg (if_pos (h.imp_left fun h => by rw [h]; rfl))
    · have hrun : ∀ {f}, s.dev.mvFetch m = f → Runs (.moverDescriptorFetch m) s f := fun hf => runs_onMover (f := fun d => d.mvFetch m) rfl hg hf
      refine ⟨fun st hs => hrun (mvFetch_stops hr hc hs), fun j ad f hs hj had => ⟨fun h => ?_, fun h => ?_, fun bs bad g h hreach hread hh => ?_⟩⟩
      · exact hrun ((mvFetch_stopped hg hr hc hs hj had).1 h)
      · exact hrun ((mvFetch_stopped hg hr hc hs hj had).2 h)
      · have hf := mvFetch_read hg hr hc hs hj had hreach hread hh
        refine ⟨fun hb => hrun (hf.trans (if_pos hb)), fun hb h31 => hrun (hf.trans ((if_neg (by rw [hb]; decide)).trans (if_pos (by rw [h31]; rfl)))),
          fun hb h31 => ⟨_, hrun (hf.trans ((if_neg (by rw [hb]; decide)).trans (if_neg (by rw [h31]; decide)))), rfl, rfl, rfl, rfl, rfl, rfl, rfl,
            rfl, rfl, rfl⟩⟩
    · refine ⟨runs_onMover (f := fun d => d.mvHalf m) rfl hg ?_, runs_onMover (f := fun d => d.mvComplete m) rfl hg ?_⟩
      · unfold Dev.mvHalf; rw [hc]
      · unfold Dev.mvComplete; rw [hc]
    · refine ⟨fun h => ?_, fun h => ?_, fun h => ?_, fun hreq hdone => ?_⟩
      · exact runs_onMover (f := fun d => d.mvHalf m) rfl hg ((mvHalf_cur hx).trans (if_neg (by rw [h]; decide)))
      · exact runs_onMover (f := fun d => d.mvHalf m) rfl hg ((mvHalf_cur hx).trans (if_pos h))
      · exact runs_onMover (f := fun d => d.mvComplete m) rfl hg (mvComplete_moving hx h)
      · have hrun : ∀ {f}, s.dev.mvComplete m = f → Runs (.moverDescriptorComplete m) s f :=
          fun hf => runs_onMover (f := fun d => d.mvComplete m) rfl hg hf
        obtain ⟨hflush, hback⟩ := mvComplete_done hx hreq hdone hg
        refine ⟨fun h => hrun (hflush h), fun h j e hj => ?_⟩
        obtain ⟨hok, hasleep, hfenced⟩ := hback h j e hj
        exact ⟨fun h => hrun (hok h), fun h => hrun (hasleep h), fun h => hrun (hfenced h)⟩

end Sys2Proof.Machine
end

section
/-!
PROOFS about the commands of the port FIFOs and the transform engines (R280-R319, R409).
-/

namespace Sys2Proof.Machine

/-! ### Port FIFOs -/

theorem fifoCfg_writable (f : Fin 32) : blockWritable pgFIF (fifOff f 0x00) = true := by revert f; decide +kernel
theorem fifoCmd_writable (f : Fin 32) : blockWritable pgFIF (fifOff f 0x08) = true := by revert f; decide +kernel
theorem fifoStage_readable (f : Fin 32) : (regRow pgFIF (fifOff f 0x18)).isSome = true := by revert f; decide +kernel

section
variable {d : Dev} {a : Nat} {f : Fin 32} {w : Word}

/-- CFG of a FIFO (R281, R287, R291). -/
theorem writeFIF_cfg {taken : Prop} [Decidable taken]
    (ht : taken ↔ fld w 24 4 ≠ 0 ∧ ∃ g : Nat, g < 32 ∧ g ≠ f ∧ bitAt (d.fifoCfg g) 31 = true ∧
      fld (d.fifoCfg g) 24 4 = fld w 24 4 ∧ fld (d.fifoCfg g) 16 3 = fld w 16 3) : d.writeFIF a (fifOff f 0x00) w =
    if !fifoSrcOk w then none
    else if bitAt (d.fifoCfg f) 31 then
      if (d.fifoCfg f ^^^ w) &&& 0x4F070FFF ≠ 0 then none else some (if bitAt w 31 then d else d.fifoDisable f)
    else if bitAt w 31 then if taken then none else some ((d.plain a pgFIF (fifOff f 0x00) w).fifoEnable f)
    else some (d.plain a pgFIF (fifOff f 0x00) w) := by
  have hf : (fifOff f 0x00 - 0x100) / 64 = f := by unfold fifOff; omega
  unfold Dev.writeFIF
  dsimp only
  rw [if_neg (by unfold fifOff; omega), if_pos (by unfold fifOff; omega), hf]
  refine ite_iff_congr Iff.rfl rfl (ite_iff_congr Iff.rfl rfl (ite_iff_congr Iff.rfl (ite_iff_congr ?_ rfl rfl) rfl))
  rw [ht, List.any_eq_true]
  refine and_congr_right fun _ => exists_congr fun g => ?_
  simp only [List.mem_range, Bool.and_eq_true, decide_eq_true_eq, and_assoc]

/-- CMD of a FIFO. -/
theorem writeFIF_cmd : d.writeFIF a (fifOff f 0x08) w = some (d.fifoCmd f (bitAt w 0) (bitAt w 1)) := by
  have hf : (fifOff f 0x08 - 0x100) / 64 = f := by unfold fifOff; omega
  have hr : fifOff f 0x08 % 64 = 8 := by unfold fifOff; omega
  unfold Dev.writeFIF
  dsimp only
  rw [if_neg (by unfold fifOff; omega), hr, if_neg (by decide), if_neg (by decide), if_pos rfl, hf]

/-- A read of RD_LO takes a stage. -/
theorem readReg_fifoStage (tag : Nat) : d.readReg a tag pgFIF (fifOff f 0x18) = d.fifoReadStage f tag := by
  have hdiv : (fifOff f 0x18 - 0x100) / 64 = f := by unfold fifOff; omega
  have hmod : fifOff f 0x18 % 64 = 0x18 := by unfold fifOff; omega
  have hlow : 0x100 ≤ fifOff f 0x18 := by unfold fifOff; omega
  have hwide : wideLow pgFIF (fifOff f 0x18) = false := rfl
  have hlock : lockReg pgFIF (fifOff f 0x18) = none := by
    unfold lockReg
    split <;> rfl
  have hne : ∀ x ∈ [pgPCR, pgLDG], pgFIF ≠ x := by decide
  unfold Dev.readReg
  rw [hwide, hlock]
  simp [hne, hdiv, hmod, hlow]

theorem fifoReadStage_cases (tag : Nat) :
    (bitAt (d.fifoCfg f) 30 = false → d.fifoReadStage f tag = (0, d)) ∧
    (bitAt (d.fifoCfg f) 30 = true → ∀ g : Dev,
      (d.fifoTake f tag = (none, g) → d.fifoReadStage f tag = (0, g.setReg pgFIF (0x100 + 0x40 * f + 0x20) 0)) ∧
      (∀ x : Stage, d.fifoTake f tag = (some x, g) → d.fifoReadStage f tag = (w32 (leNat x.data),
        (g.setReg pgFIF (0x100 + 0x40 * f + 0x1C) (w32 (leNat x.data / 2 ^ 32))).setReg pgFIF (0x100 + 0x40 * f + 0x20)
          (w32 (fput 7 1 (b2n x.bad) + fput 6 1 (b2n x.eop) + x.data.length))))) := by
  refine ⟨fun h => if_pos (by rw [h]; rfl), fun h g => ⟨fun ht => ?_, fun x ht => ?_⟩⟩ <;>
    refine (if_neg (by rw [h]; decide)).trans ?_ <;> rw [ht]

end

/-- Settles O33: the configuration by what a FIFO's fields allow, its commands, and the stage that a read takes. -/
theorem fifoCommandsComplete : Obligations.FifoCommandsComplete := by
  unfold Obligations.FifoCommandsComplete
  intro s a f e v
  refine ⟨fun q old w taken ha hu hq hold ht => ?_, fun ha hu => ⟨?_, ?_⟩, fun ha => ⟨fun h => ?_, fun h g => ⟨fun hg => ?_, fun x hg => ?_⟩⟩⟩
  · subst hold
    classical
    have hw : e.writeBlock a (e.tagOf a) pgFIF (fifOff f 0x00) w = _ := (writeBlock_fif ..).trans (writeFIF_cfg ht)
    have hrun : ∀ {g}, s.dev.wr a pgFIF (fifOff f 0x00) w = g → Runs q s g := fun hg => by
      rcases hq with ⟨rfl, rfl⟩ | ⟨rfl, rfl⟩
      · exact runs_of_run (f := fun d => d.wr a pgFIF (fifOff f 0x00) (withBit v 31 true)) rfl hg
      · exact runs_of_run (f := fun d => d.wr a pgFIF (fifOff f 0x00) (withBit (d.reg pgFIF (fifOff f 0x00)) 31 false)) rfl hg
    have htaken := fun {g} hg => hrun (wr_block (e' := g) ha hu (fifoCfg_writable f) (hw.trans hg)).symm
    have hdisc := fun hn => hrun (wr_block_discarded ha hu (fifoCfg_writable f) (hw.trans hn))
    refine ⟨fun h => hdisc (if_pos (by rw [h]; rfl)), fun h => ?_⟩
    have hsrc : ¬ (!fifoSrcOk w) = true := by rw [h]; decide
    have hoff : bitAt (e.fifoCfg f) 31 = false → ¬ bitAt (e.fifoCfg f) 31 = true := fun h => by rw [h]; decide
    exact ⟨fun ho hx => hdisc ((if_neg hsrc).trans ((if_pos ho).trans (if_pos hx))),
      fun ho hx => htaken ((if_neg hsrc).trans ((if_pos ho).trans (if_neg (not_not_intro hx)))),
      fun ho h31 => htaken ((if_neg hsrc).trans ((if_neg (hoff ho)).trans (if_neg (by rw [h31]; decide)))),
      fun ho h31 hx => hdisc ((if_neg hsrc).trans ((if_neg (hoff ho)).trans ((if_pos h31).trans (if_pos hx)))),
      fun ho h31 hx => htaken ((if_neg hsrc).trans ((if_neg (hoff ho)).trans ((if_pos h31).trans (if_neg hx))))⟩
  · refine runs_of_run (f := fun d => d.wr a pgFIF (fifOff f 0x08) 1) rfl (wr_block ha hu (fifoCmd_writable f) ?_).symm
    rw [writeBlock_fif, writeFIF_cmd]
    simp [Dev.fifoCmd, bitAt]
  · refine runs_of_run (f := fun d => d.wr a pgFIF (fifOff f 0x08) 2) rfl (wr_block ha hu (fifoCmd_writable f) ?_).symm
    rw [writeBlock_fif, writeFIF_cmd]
    simp [Dev.fifoCmd, bitAt]
  all_goals refine answers_rd rfl ha (fun h => absurd h.1 (by decide)) (fifoStage_readable f) ((readReg_fifoStage _).trans ?_)
  · exact (fifoReadStage_cases _).1 h
  · exact ((fifoReadStage_cases _).2 h g).1 hg
  · exact ((fifoReadStage_cases _).2 h g).2 x hg

/-! ### Transform engines -/

theorem kslot_writable (k : Fin 64) : blockWritable pgXAE (0x100 + 4 * k) = true := by revert k; decide +kernel

section
variable {d : Dev}

/-- The key attributes of a slot are taken where the agent may write them, and the slot's keys are not one twice. -/
theorem writeXAE_kslot (a : Nat) (k : Fin 64) (v : Word) {may same : Prop} [Decidable (may ∧ ¬ same)] (hm : may ↔ a = agKettle ∨ d.caddyGrants a = true)
    (hs : same ↔ bitAt v 31 = true ∧ bitAt v 30 = true ∧ (d.peek (caddyBase + 64 * k) 64).take 32 = (d.peek (caddyBase + 64 * k) 64).drop 32) :
    d.writeXAE a (0x100 + 4 * k) v = if may ∧ ¬ same then some (d.plain a pgXAE (0x100 + 4 * k) v) else none := by
  have hk : (0x100 + 4 * k.val - 0x100) / 4 = k := by omega
  refine (if_pos (by omega)).trans (ite_iff_congr ?_ rfl rfl)
  rw [hm, hs, hk]
  cases bitAt v 31 with
  | false => simp
  | true =>
    cases bitAt v 30 with
    | false | true => simp

/-- One step of the allocation, with domain 151 awake. -/
theorem allocStreams_step {bad : Option StreamWait} (n : Nat) (hg : d.gate 151 = .ok)
    (hb : bad = d.streamWait.find? fun w => !d.descBusy (fld (d.ctx w.sub).ccw.xdt 0 10) &&
      !d.xdtValid (d.xdesc (fld (d.ctx w.sub).ccw.xdt 0 10)) (d.ctx w.sub).ccw.op (d.scb w.sub).binding (w.sub / 256) (d.ctx w.sub).ccw.stored) :
    (∀ w, bad = some w → d.allocStreams (n + 1) = (d.grantStream w.sub).allocStreams n) ∧
    (∀ w rest, bad = none → grantable d [] d.streamWait = w :: rest → d.allocStreams (n + 1) = (d.grantStream w.sub).allocStreams n) ∧
    (bad = none → grantable d [] d.streamWait = [] → d.allocStreams (n + 1) = d) := by
  refine ⟨fun w h => ?_, fun w rest h hl => ?_, fun h hl => ?_⟩ <;> rw [h] at hb <;>
    refine (if_neg (not_not_intro hg)).trans ?_ <;> dsimp only <;> rw [← hb] <;> dsimp only <;> rw [hl]

/-- A wipe that begins clears the caddy and its grants, and ends each stream of its engines. -/
theorem wipe_begins (h : d.caddy.wiping = false) : ∃ t : Dev, t.caddy = { wiping := true, held := [] } ∧
    t.mem = memClear d.mem caddyBase 0x100000 ∧ t.scbs = d.scbs ∧ t.streams = d.streams ∧
    d.wipe = (d.streams.filter fun x => x.2.engs.any fun g => g / 16 = 0).foldl
      (fun d x => d.loseStream 8 (x.2.stageOf fun g => g / 16 = 0) x.1) t := by
  obtain ⟨f, hf⟩ : ∃ f, f = (List.range 64).foldl (fun d j => d.setRf pgXAE (0x100 + 4 * j) 31 1 0)
    ((List.range 4).foldl (fun d j => d.setReg pgCDY (0x040 + 4 * j) 0) (d.clearMem caddyBase 0x100000)) := ⟨_, rfl⟩
  have hkeep : ∀ {β : Type} (g : Dev → β), (∀ d p o v, g (Dev.setReg d p o v) = g d) → g f = g (d.clearMem caddyBase 0x100000) := fun g hg => by
    rw [hf]
    exact (foldl_keep g (f := fun d j => d.setRf pgXAE (0x100 + 4 * j) 31 1 0) (fun d j => hg ..) _ _).trans
      (foldl_keep g (f := fun d j => d.setReg pgCDY (0x040 + 4 * j) 0) (fun d j => hg ..) _ _)
  refine ⟨{ f with caddy := { f.caddy with wiping := true, held := [] } }, rfl, hkeep Dev.mem fun _ _ _ _ => rfl, hkeep Dev.scbs fun _ _ _ _ => rfl,
    hkeep Dev.streams fun _ _ _ _ => rfl, ?_⟩
  have hst : f.streams = d.streams := hkeep Dev.streams fun _ _ _ _ => rfl
  rw [← hst, hf]
  exact if_neg (by rw [h]; decide)

end

/-- Settles O34: the descriptor window, a slot's attributes by who writes them, the allocation's next stream, and the wipe. -/
theorem transformCommandsComplete : Obligations.TransformCommandsComplete := by
  unfold Obligations.TransformCommandsComplete
  intro s a e i hi
  refine ⟨fun ha hu => ⟨?_, ?_⟩, fun k v may same ha hu hm hs => ?_, fun bad n hn hb => ⟨fun hg => ?_, fun hg => ?_⟩,
    fun ha hu => ⟨fun h => ?_, fun h hw => ?_, fun h hw => ?_⟩, fun hw => ?_, fun hw f hf => ?_⟩
  · subst hi
    refine runs_of_run (f := fun d => d.wr a pgXCR 0x044 2) rfl (wr_block ha hu (by decide) ?_).symm
    rfl
  · subst hi
    refine runs_of_run (f := fun d => d.wr a pgXCR 0x044 1) rfl (wr_block ha hu (by decide) ?_).symm
    rfl
  · classical
    have hw : e.writeBlock a (e.tagOf a) pgXAE (0x100 + 4 * k) v = _ := (writeBlock_xae ..).trans (writeXAE_kslot a k v hm hs)
    have hrun : ∀ {g}, s.dev.wr a pgXAE (0x100 + 4 * k) v = g → Runs (.kslotWrite a k v) s g := fun hg =>
      runs_of_run (f := fun d => d.wr a pgXAE (0x100 + 4 * k) v) rfl hg
    refine ⟨fun h => hrun (wr_block ha hu (kslot_writable k) (hw.trans (if_pos h))).symm,
      fun h => hrun (wr_block_discarded ha hu (kslot_writable k) (hw.trans (if_neg fun hx => ?_)))⟩
    exact h.elim (fun h => h hx.1) (fun h => hx.2 h)
  · exact runs_of_run (f := Dev.streamGrants) rfl (if_pos hg)
  · subst hn
    obtain ⟨hbad, hnext, hnone⟩ := allocStreams_step s.dev.streamWait.length hg hb
    exact ⟨fun w h => runs_of_run (f := Dev.streamGrants) rfl (hbad w h),
      fun w rest h hl => runs_of_run (f := Dev.streamGrants) rfl (hnext w rest h hl),
      fun h hl => runs_of_run (f := Dev.streamGrants) rfl (hnone h hl)⟩
  · refine runs_of_run (f := fun d => d.wr a pgCDY 0x054 1) rfl (wr_block_discarded ha hu (by decide) ?_)
    exact if_pos h
  · refine runs_of_run (f := fun d => d.wr a pgCDY 0x054 1) rfl (wr_block ha hu (by decide) ?_).symm
    have hsame : e.wipe = e := if_pos hw
    exact (if_neg (not_not_intro h)).trans (congrArg some hsame)
  · obtain ⟨t, hc, hm, hb, hst, hwipe⟩ := wipe_begins hw
    refine ⟨t, hc, hm, hb, hst, runs_of_run (f := fun d => d.wr a pgCDY 0x054 1) rfl (wr_block ha hu (by decide) ?_).symm⟩
    exact (if_neg (not_not_intro h)).trans (congrArg some hwipe)
  · exact runs_of_run (f := Dev.wipeDone) rfl (if_neg (by rw [hw]; decide))
  · subst hf
    refine runs_of_run (f := Dev.wipeDone) rfl ((if_pos hw).trans ?_)
    dsimp only
    rw [show (s.dev.bump pgCDY 0x058 1 0x060 0).caddy = s.dev.caddy by rw [bump_eq]]

end Sys2Proof.Machine
end

section
/-!
PROOFS about the wheel interrupt controllers, the mailboxes and the locks (R359-R386).
-/

namespace Sys2Proof.Machine

/-! ### Claim and complete -/

section
variable {d e : Dev} {k : Nat}

/-- A load or store at CLAIM and COMPLETE that waits behind earlier accesses, or finds its unit asleep or fenced. -/
theorem claimRead_cases (hr : (d.core k).state = .running) (hg : d.gate (coreDomain k) = .ok) :
    (d.queues k = true → d.claimRead k = { d with held := d.held ++ [.claim k] }) ∧
    (d.queues k = false →
      (d.ioGate k 0xC100 = (.asleep, e) → d.claimRead k = d.holds e (.claim k)) ∧
      (d.ioGate k 0xC100 = (.fenced, e) → d.claimRead k = e) ∧
      (d.ioGate k 0xC100 = (.ok, e) → d.claimRead k = (e.claim k).2.respond [w32 ((e.claim k).1 % 256)])) := by
  have hgo : ¬ ((d.core k).state ≠ .running ∨ d.gate (coreDomain k) ≠ .ok) := by rw [hr, hg]; decide
  have hview : d.viewLoad k 0xC100 1 = if d.queues k then .wait d else d.ioLoad k 0xC100 1 := rfl
  refine ⟨fun hq => ?_, fun hq => ⟨fun h => ?_, fun h => ?_, fun h => ?_⟩⟩ <;> unfold Dev.claimRead <;> rw [if_neg hgo, hview]
  · rw [if_pos hq]
    rfl
  all_goals rw [if_neg (by rw [hq]; decide)]; unfold Dev.ioLoad; rw [h]
  have hbytes : e.ioBytes k 0xC100 none 1 = some ([BitVec.ofNat 8 (e.claim k).1], (e.claim k).2) := rfl
  dsimp only
  rw [hbytes]
  show (e.claim k).2.respond [w32 (leNat [BitVec.ofNat 8 (e.claim k).1])] = _
  rw [show leNat [BitVec.ofNat 8 (e.claim k).1] = (e.claim k).1 % 256 by simp [leNat]]

/-- A store of source and count at COMPLETE. -/
theorem completeStore_cases (hr : (d.core k).state = .running) (hg : d.gate (coreDomain k) = .ok) (src n : Byte) :
    (d.queues k = true → d.completeStore k src n = d.postHeld k 0xC102 (.io 0xC102 [src, n])) ∧
    (d.queues k = false →
      (d.ioGate k 0xC102 = (.asleep, e) → d.completeStore k src n = (d.woken e).postHeld k 0xC102 (.io 0xC102 [src, n])) ∧
      (d.ioGate k 0xC102 = (.fenced, e) → d.completeStore k src n = e) ∧
      (d.ioGate k 0xC102 = (.ok, e) → ∀ g : Dev, g = e.setCore k { e.core k with completeCnt := n } →
        d.completeStore k src n = g.complete k src.toNat (g.core k).completeCnt.toNat)) := by
  have hgo : ¬ ((d.core k).state ≠ .running ∨ d.gate (coreDomain k) ≠ .ok) := by rw [hr, hg]; decide
  have hview : d.viewStore k 0xC102 [src, n] = d.post k 0xC102 (.io 0xC102 [src, n]) := rfl
  have htry : d.postTry k (.io 0xC102 [src, n]) = d.ioStore k 0xC102 [src, n] := rfl
  refine ⟨fun hq => ?_, fun hq => ⟨fun h => ?_, fun h => ?_, fun h g hge => ?_⟩⟩ <;> unfold Dev.completeStore <;> rw [if_neg hgo, hview] <;>
    unfold Dev.post
  · rw [if_pos hq]
  all_goals rw [if_neg (by rw [hq]; decide), htry]; unfold Dev.ioStore; rw [h]
  subst hge
  rfl

/-- What reaches the I/O region finds its core as it was. -/
theorem ioGate_core {a : Nat} {r : Gate} (h : d.ioGate k a = (r, e)) (j : Nat) : e.core j = d.core j := by
  unfold Dev.ioGate at h
  rw [knock_eq] at h
  split at h
  · split at h
    · rename_i heq
      obtain ⟨-, rfl⟩ := Prod.mk.inj h
      obtain ⟨-, rfl⟩ := Prod.mk.inj heq
      unfold Dev.countWheelOp
      rw [count_eq]
      rfl
    · obtain ⟨-, rfl⟩ := Prod.mk.inj h
      rfl
  · obtain ⟨-, rfl⟩ := Prod.mk.inj h
    rfl

/-- The source that a claim takes, and what it leaves where there is none. -/
theorem claim_eq : (d.claimPick k = none → d.claim k = (0, d)) ∧
    (∀ p src f, d.claimPick k = some (p, src) → f = d.setSrc (coreSrcKey k src) { d.src (coreSrcKey k src) with active := some k, latch := false } →
      d.claim k = (src, f.setStack k ((p, src) :: f.stack k))) := by
  refine ⟨fun h => ?_, fun p src f h hf => ?_⟩ <;> unfold Dev.claim <;> rw [h]
  subst hf
  rfl

/-- A completion of the core's own source, and of another. -/
theorem complete_eq {src n : Nat} {v : Src} (hv : v = d.src (coreSrcKey k src)) :
    (src ≠ 0 → v.active = some k → ∀ f : Dev, f = d.setSrc (coreSrcKey k src)
        { v with count := if 2 ≤ v.sense then BitVec.ofNat 8 (v.count.toNat - n) else v.count, active := none } →
      d.complete k src n = f.setStack k (dropSrc src (f.stack k))) ∧
    (src = 0 ∨ v.active ≠ some k →
      (k < 64 → d.complete k src n = (d.bump (pgWICU + k / 8) 0x040 1 0x044 0).pageEvt (pgWICU + k / 8) 0x10000) ∧
      (¬ k < 64 → d.complete k src n = d)) := by
  subst hv
  refine ⟨fun h0 ha f hf => ?_, fun h => ⟨fun hk => ?_, fun hk => ?_⟩⟩
  · subst hf
    refine (if_pos ⟨h0, ha⟩).trans ?_
    unfold Src.edge
    simp only [decide_eq_true_eq]
    split
    · rfl
    · rfl
  all_goals have hnot : ¬ (src ≠ 0 ∧ (d.src (coreSrcKey k src)).active = some k) := fun hx => h.elim hx.1 (fun h => h hx.2)
  · exact (if_neg hnot).trans (if_pos hk)
  · exact (if_neg hnot).trans (if_neg hk)

end

/-! ### The registers of the interrupt controllers -/

/-- The pages of the eight wheels have the rows of the first. -/
theorem regRow_wicu (w : Fin 8) (o : Nat) : regRow (pgWICU + w) o = regRow pgWICU o := by
  obtain ⟨w, hw⟩ := w
  have : w = 0 ∨ w = 1 ∨ w = 2 ∨ w = 3 ∨ w = 4 ∨ w = 5 ∨ w = 6 ∨ w = 7 := by omega
  rcases this with rfl | rfl | rfl | rfl | rfl | rfl | rfl | rfl <;> rfl

theorem blockWritable_wicu (w : Fin 8) (o : Nat) : blockWritable (pgWICU + w) o = blockWritable pgWICU o := by
  unfold blockWritable
  rw [regRow_wicu]

theorem bank_writable (w : Fin 8) (j : Fin 4) (b : SrcBank) : blockWritable (pgWICU + w) (bankOff j b) = true := by
  rw [blockWritable_wicu]
  cases b with
  | priv c => revert j c; decide +kernel
  | shared i => revert j i; decide +kernel

theorem srcPriv_writable (w : Fin 8) (c : Fin 8) (i : Fin 32) (h : 1 ≤ i.val) : blockWritable (pgWICU + w) (srcOff (.priv c i)) = true := by
  rw [blockWritable_wicu]
  revert c i
  decide +kernel

theorem srcShared_writable (w : Fin 8) (i : Fin 256) (h : 32 ≤ i.val) : blockWritable (pgWICU + w) (srcOff (.shared i)) = true := by
  rw [blockWritable_wicu]
  revert i
  decide +kernel

/-- Key of source `i` of a word of sources. -/
def bankKey (w : Nat) : SrcBank → Nat → Nat
  | .priv c, i => w * 512 + 256 + c * 32 + i
  | .shared j, i => w * 512 + 32 * j + i

/-- A word of sources has its source `i`; `least`: the first of a core's own. -/
def bankHas (least : Nat) : SrcBank → Nat → Bool
  | .priv _, i => decide (least ≤ i)
  | .shared j, _ => decide (j.val ≠ 0)

/-- A word of sources, an operation on each of those whose bit is 1. -/
def Dev.bankEach (f : Dev) (w : Nat) (b : SrcBank) (least : Nat) (op : Src → Src) (bits : Word) : Dev :=
  (List.range 32).foldl (fun d i => if bitAt bits i && bankHas least b i then d.setSrc (bankKey w b i) (op (d.src (bankKey w b i))) else d) f

/-- An operation on sources, by their keys and which there are. -/
theorem eachSrc_eq (f : Dev) (op : Src → Src) {key key' : Nat → Nat} {first : Nat} {has : Nat → Bool} (bits : Word)
    (hk : ∀ i, key i = key' i) (hh : ∀ i < 32, first ≤ i ↔ has i = true) : f.eachSrc op key first bits =
    (List.range 32).foldl (fun d i => if bitAt bits i && has i then d.setSrc (key' i) (op (d.src (key' i))) else d) f := by
  refine foldl_eq_of_forall_mem (fun d i hi => ?_) f
  rw [hk i]
  exact ite_iff_congr (by rw [Bool.and_eq_true, hh i (List.mem_range.mp hi)]) rfl rfl

/-- A register of a core's bank, by its offset in the bank. -/
theorem writeWICU_priv (e : Dev) (a t w : Nat) {c x : Nat} (hc : c < 8) (hx : x < 0x40) (bits : Word) :
    e.writeWICU a t w (0x100 + 0x40 * c + x) bits =
      if x = 0x10 then some ((e.countWheelOp w t).eachSrc (bankOp 0) (privSrc w c) (bankFirst 0) bits)
      else if x = 0x14 then some ((e.countWheelOp w t).eachSrc (bankOp 1) (privSrc w c) (bankFirst 1) bits)
      else if x = 0x1C then some ((e.countWheelOp w t).eachSrc (bankOp 2) (privSrc w c) (bankFirst 2) bits)
      else if x = 0x20 then some ((e.countWheelOp w t).eachSrc (bankOp 3) (privSrc w c) (bankFirst 3) bits)
      else some (e.plain a (pgWICU + w) (0x100 + 0x40 * c + x) bits) := by
  have hdiv : (0x100 + 0x40 * c + x - 0x100) / 64 = c := by omega
  have hmod : (0x100 + 0x40 * c + x) % 64 = x := by omega
  unfold Dev.writeWICU
  dsimp only
  rw [if_neg (by omega), if_pos (by omega), hdiv, hmod]

/-- A register of the shared sources, by its row. -/
theorem writeWICU_shared (e : Dev) (a t w : Nat) {i x : Nat} (hi : i < 8) (bits : Word) {op : Src → Src}
    (hop : op = if x = 1 then bankOp 0 else if x = 2 then bankOp 1 else if x = 4 then bankOp 2 else bankOp 3) :
    e.writeWICU a t w (0xF00 + 0x20 * x + 4 * i) bits =
      some ((e.countWheelOp w t).eachSrc op (fun b => sharedSrc w (32 * i + b)) (if i = 0 then 32 else 0) bits) := by
  have hdiv : (0xF00 + 0x20 * x + 4 * i - 0xF00) / 32 = x := by omega
  have hword : (0xF00 + 0x20 * x + 4 * i - 0xF00) % 32 / 4 = i := by omega
  subst hop
  unfold Dev.writeWICU
  dsimp only
  iterate 5 rw [if_neg (by omega)]
  rw [hdiv, hword]
  split
  · rfl
  · rfl
  · rfl
  · rename_i h1 h2 h4
    rw [if_neg h1, if_neg h2, if_neg h4]

/-- PEND_SET, PEND_CLR, MASK_SET and MASK_CLR of a word of sources. -/
theorem writeWICU_bank (e : Dev) (a t : Nat) (w : Fin 8) (j : Fin 4) (b : SrcBank) (bits : Word) :
    e.writeWICU a t w (bankOff j b) bits = some ((e.countWheelOp w t).bankEach w b (bankFirst j) (bankOp j) bits) := by
  cases b with
  | priv c =>
    have h : e.writeWICU a t w (bankOff j (.priv c)) bits =
        some ((e.countWheelOp w t).eachSrc (bankOp j) (privSrc w c) (bankFirst j) bits) := by
      match j with
      | 0 => exact (writeWICU_priv e a t w c.isLt (x := 0x10) (by omega) bits).trans rfl
      | 1 => exact (writeWICU_priv e a t w c.isLt (x := 0x14) (by omega) bits).trans rfl
      | 2 => exact (writeWICU_priv e a t w c.isLt (x := 0x1C) (by omega) bits).trans rfl
      | 3 => exact (writeWICU_priv e a t w c.isLt (x := 0x20) (by omega) bits).trans rfl
    rw [h]
    exact congrArg some (eachSrc_eq _ _ bits (fun _ => rfl) fun i _ => by simp [bankHas])
  | shared i =>
    have h : e.writeWICU a t w (bankOff j (.shared i)) bits =
        some ((e.countWheelOp w t).eachSrc (bankOp j) (fun b => sharedSrc w (32 * i + b)) (if i.val = 0 then 32 else 0) bits) := by
      match j with
      | 0 => exact writeWICU_shared e a t w i.isLt (x := 1) bits rfl
      | 1 => exact writeWICU_shared e a t w i.isLt (x := 2) bits rfl
      | 2 => exact writeWICU_shared e a t w i.isLt (x := 4) bits rfl
      | 3 => exact writeWICU_shared e a t w i.isLt (x := 5) bits rfl
    rw [h]
    refine congrArg some (eachSrc_eq _ _ bits (fun x => (Nat.add_assoc ..).symm) fun x hx => ?_)
    unfold bankHas
    rw [decide_eq_true_eq]
    split
    · omega
    · omega

/-- SRC_CFG of a source that a wheel has. -/
theorem writeWICU_srcCfg (e : Dev) (a t : Nat) (w : Fin 8) (v : Word) :
    (∀ (c : Fin 8) (i : Fin 32), e.writeWICU a t w (srcOff (.priv c i)) v = (e.countWheelOp w t).srcCfgWrite (w * 512 + 256 + c * 32 + i) v) ∧
    (∀ i : Fin 256, e.writeWICU a t w (srcOff (.shared i)) v = (e.countWheelOp w t).srcCfgWrite (w * 512 + i) v) := by
  refine ⟨fun c i => ?_, fun i => ?_⟩ <;> unfold Dev.writeWICU srcOff <;> dsimp only
  · rw [if_neg (by omega), if_neg (by omega), if_pos (by omega), show (0x300 + 0x80 * c.val + 4 * i.val - 0x300) / 128 = c by omega,
      show (0x300 + 0x80 * c.val + 4 * i.val - 0x300) % 128 / 4 = i by omega]
    rfl
  · rw [if_neg (by omega), if_neg (by omega), if_neg (by omega), if_pos (by omega), show (0x700 + 4 * i.val - 0x700) / 4 = i by omega]
    rfl

/-- A write of SRC_CFG by what it would change (R365, R370). -/
theorem srcCfgWrite_cases {f : Dev} {key : Nat} {v : Word} {x : Src} (hx : x = f.src key) {target : Nat}
    (ht : target = if key % 512 < 256 then fld v 8 3 else x.target) :
    ((4 < fld v 4 3 ∨ (x.active.isSome = true ∧ (target ≠ x.target ∨ fld v 4 3 ≠ x.sense))) → f.srcCfgWrite key v = none) ∧
    (fld v 4 3 ≤ 4 → ¬ (x.active.isSome = true ∧ (target ≠ x.target ∨ fld v 4 3 ≠ x.sense)) → ∀ y : Src,
      y = (if fld v 4 3 = x.sense then x else { x with count := 0, latch := false, sense := fld v 4 3, level := f.srcLevel key }) →
      f.srcCfgWrite key v = some (f.setSrc key { y with target := target, prio := fld v 0 4, ovf := x.ovf && !bitAt v 31 })) := by
  subst hx ht
  refine ⟨fun h => if_pos h, fun hs hfix y hy => ?_⟩
  subst hy
  refine (if_neg fun h => h.elim (fun h => absurd h (by omega)) hfix).trans ?_
  rw [ite_not]
  by_cases he : fld v 4 3 = (f.src key).sense
  · rw [if_pos he]
  · rw [if_neg he]

/-- Settles O41: claim and complete by what the access finds, the registers by their sources. -/
theorem interruptCommandsComplete : Obligations.InterruptCommandsComplete := by
  unfold Obligations.InterruptCommandsComplete
  intro s
  refine ⟨fun n => ?_, fun k d hd => ⟨fun h => ?_, fun hr hg => ⟨fun hq => ?_, fun hq e => ⟨fun h => ?_, fun h => ?_, fun h => ?_, fun src n => ?_⟩⟩⟩,
    fun a w b bits e f hf => ?_, fun a w n v e f ha hu hf => ?_⟩
  · exact runs_of_run (f := fun d => d.raiseEvent n) rfl rfl
  · subst hd
    exact ⟨runs_of_run (f := fun d => d.claimRead k) rfl (if_pos h),
      fun src n => runs_of_run (f := fun d => d.completeStore k src n) rfl (if_pos h)⟩
  · subst hd
    exact ⟨runs_of_run (f := fun d => d.claimRead k) rfl ((claimRead_cases (e := s.dev) hr hg).1 hq),
      fun src n => runs_of_run (f := fun d => d.completeStore k src n) rfl ((completeStore_cases (e := s.dev) hr hg src n).1 hq)⟩
  · subst hd
    exact runs_of_run (f := fun d => d.claimRead k) rfl (((claimRead_cases hr hg).2 hq).1 h)
  · subst hd
    exact runs_of_run (f := fun d => d.claimRead k) rfl (((claimRead_cases hr hg).2 hq).2.1 h)
  · subst hd
    have hok := ((claimRead_cases hr hg).2 hq).2.2 h
    refine ⟨fun p src hp hlt f hf => ?_, fun hp => ?_⟩ <;> refine runs_of_run (f := fun d => d.claimRead k) rfl (hok.trans ?_)
    · rw [claim_eq.2 p src f hp hf]
      dsimp only
      rw [Nat.mod_eq_of_lt hlt]
      rfl
    · rw [claim_eq.1 hp]
      rfl
  · subst hd
    obtain ⟨hasleep, hfenced, hok⟩ := (completeStore_cases (e := e) hr hg src n).2 hq
    refine ⟨fun h => runs_of_run (f := fun d => d.completeStore k src n) rfl (hasleep h),
      fun h => runs_of_run (f := fun d => d.completeStore k src n) rfl (hfenced h), fun g v h hge hv => ?_⟩
    have hcore : (g.core k).completeCnt = n := by
      rw [hge, core_setCore_running]
      rw [ioGate_core h]
      exact hr
    have hsrc : v = g.src (coreSrcKey k src.toNat) := by rw [hv, hge]; rfl
    have hrun : ∀ {f}, g.complete k src.toNat n.toNat = f → Runs (.wicuComplete k src n) s f := fun hf =>
      runs_of_run (f := fun d => d.completeStore k src n) rfl ((hok h g hge).trans (by rw [hcore]; exact hf))
    obtain ⟨hown, hother⟩ := complete_eq (n := n.toNat) hsrc
    refine ⟨fun h0 hact f hf => hrun (hown (fun h => h0 (BitVec.eq_of_toNat_eq h)) hact f hf), fun h => ?_⟩
    have h' : src.toNat = 0 ∨ v.active ≠ some k.val := h.imp_left fun h => by rw [h]; rfl
    exact ⟨fun hk => hrun ((hother h').1 hk), fun hk => hrun ((hother h').2 (by omega))⟩
  · subst hf
    intro each arrives
    have hrun : ∀ {q : Instr} {j : Fin 4} {op : Src → Src}, (exec q s = s.run fun d => d.wr a (pgWICU + w) (bankOff j b) bits) → arrives j →
        bankOp j = op → Runs q s ((e.countWheelOp w (e.tagOf a)).bankEach w b (bankFirst j) op bits) := fun {q j op} hx ha hop => by
      subst hop
      exact runs_of_run (f := fun d => d.wr a (pgWICU + w) (bankOff j b) bits) hx
        (wr_block ha.1 ha.2 (bank_writable w j b) ((writeBlock_wicu ..).trans (writeWICU_bank ..))).symm
    have heach : ∀ least op, each least op = (e.countWheelOp w (e.tagOf a)).bankEach w b least op bits := fun least op => by
      cases b with
      | priv c | shared j => rfl
    clear_value each
    refine ⟨fun ha => ?_, fun ha => ?_, fun ha => ?_, fun ha => ?_⟩ <;> rw [heach]
    · refine hrun (j := 0) rfl ha (funext fun x => ?_)
      show x.pendSet = _
      unfold Src.pendSet Src.arrive Src.edge
      simp only [decide_eq_true_eq]
      split
      · rfl
      · rfl
    · refine hrun (j := 1) rfl ha (funext fun x => ?_)
      show x.pendClr = _
      unfold Src.pendClr Src.edge
      simp only [decide_eq_true_eq]
    · exact hrun (j := 2) rfl ha rfl
    · exact hrun (j := 3) rfl ha rfl
  · subst hf
    intro key hfirst x hx target fixed
    have hwr : blockWritable (pgWICU + w) (srcOff n) = true := by
      cases n with
      | priv c i => exact srcPriv_writable w c i hfirst
      | shared i => exact srcShared_writable w i hfirst
    have hw : e.writeBlock a (e.tagOf a) (pgWICU + w) (srcOff n) v = (e.countWheelOp w (e.tagOf a)).srcCfgWrite key v := by
      refine (writeBlock_wicu ..).trans ?_
      cases n with
      | priv c i => exact (writeWICU_srcCfg ..).1 c i
      | shared i => exact (writeWICU_srcCfg ..).2 i
    have ht : target = if key % 512 < 256 then fld v 8 3 else x.target := by
      cases n with
      | priv c i => exact (if_neg (by show ¬ (w.val * 512 + 256 + c.val * 32 + i.val) % 512 < 256; omega)).symm
      | shared i => exact (if_pos (by show (w.val * 512 + i.val) % 512 < 256; omega)).symm
    obtain ⟨hdisc, htaken⟩ := srcCfgWrite_cases hx ht
    refine ⟨fun h => ?_, fun hs hfix y hy => ?_⟩
    · exact runs_of_run (f := fun d => d.wr a (pgWICU + w) (srcOff n) v) rfl (wr_block_discarded ha hu hwr (hw.trans (hdisc h)))
    · exact runs_of_run (f := fun d => d.wr a (pgWICU + w) (srcOff n) v) rfl (wr_block ha hu hwr (hw.trans (htaken hs hfix y hy))).symm

end Sys2Proof.Machine
end

section
/-!
PROOFS about the mailboxes and the locks (R375-R386).
-/

namespace Sys2Proof.Machine

/-! ### Mailboxes -/

/-- The pages of the eight wheels have the rows of the first. -/
theorem regRow_wmbx (w : Fin 8) (o : Nat) : regRow (pgWMBX + w) o = regRow pgWMBX o := by
  obtain ⟨w, hw⟩ := w
  have : w = 0 ∨ w = 1 ∨ w = 2 ∨ w = 3 ∨ w = 4 ∨ w = 5 ∨ w = 6 ∨ w = 7 := by omega
  rcases this with rfl | rfl | rfl | rfl | rfl | rfl | rfl | rfl <;> rfl

theorem blockWritable_wmbx (w : Fin 8) (o : Nat) : blockWritable (pgWMBX + w) o = blockWritable pgWMBX o := by
  unfold blockWritable
  rw [regRow_wmbx]

theorem mboxPost_writable (w : Fin 8) : blockWritable (pgWMBX + w) 0x040 = true := by
  rw [blockWritable_wmbx]
  decide

theorem mboxCmd_writable (w : Fin 8) (m : Fin 16) : blockWritable (pgWMBX + w) (0x10C + 32 * m) = true := by
  rw [blockWritable_wmbx]
  revert m
  decide +kernel

section
variable {d f : Dev} {tag sender m c : Nat} {msg : List Byte} {call : Bool}

/-- What a post finds at its mailbox. -/
theorem mboxPost_cases {w : Nat} (hw : m / 16 = w) :
    (d.isFenced (commonDom w) = true → d.mboxPost tag sender m c msg call = (.fenced, d.bump (pgWMBX + w) 0x04C 1 0x058 1)) ∧
    (d.isFenced (commonDom w) = false → f = (d.countWheelOp w tag).touch (commonDom w) →
      ((f.mbox m).full = true → d.mboxPost tag sender m c msg call = (.full, f.bump (pgWMBX + w) 0x04C 1 0x058 1)) ∧
      ((f.mbox m).full = false → ∀ g, g = f.bump (pgWMBX + w) 0x048 1 0x058 0 → d.mboxPost tag sender m c msg call =
        (.accepted, ((g.sample tag).2.setMbox m { f.mbox m with full := true, call := call, target := c, sender := sender
                                                                postTime := toDs32 (g.sample tag).1, msg := msg }).doorbell m))) := by
  subst hw
  refine ⟨fun h => if_pos h, fun h hf => ⟨fun hfull => ?_, fun hfull g hg => ?_⟩⟩
  · subst hf
    exact (if_neg (by rw [h]; decide)).trans (if_pos hfull)
  · subst hf hg
    exact (if_neg (by rw [h]; decide)).trans (if_neg (by rw [hfull]; decide))

end

/-- The result word of a post, by its mailbox and code. -/
theorem postResult (m : Fin 16) {x : Nat} : fput 4 4 m + x = 16 * m + x := by
  unfold fput
  omega

/-- The word that a post writes names its mailbox and its core. -/
theorem postWord_fields (c : Fin 8) (m : Fin 16) : fld (w32 (fput 8 3 c + m)) 0 4 = m ∧ fld (w32 (fput 8 3 c + m)) 8 3 = c := by
  revert c m
  decide +kernel

/-- POST of a wheel's page, with what the mailbox makes of it. -/
theorem writeWMBX_post (e : Dev) (a tag : Nat) (w m : Nat) (c : Fin 8) {m' : Fin 16} (hm : m = 16 * w + m') {r : PostRes} {f : Dev}
    (hp : e.mboxPost tag a m c ((List.range 4).flatMap fun j => leBytes 4 (e.bank (pgWMBX + w) (0x060 + 4 * j) a).toNat) false = (r, f)) :
    e.writeWMBX a tag w 0x040 (w32 (fput 8 3 c + m')) = some (f.setBank (pgWMBX + w) 0x044 a (w32 (16 * m' + r.code))) := by
  subst hm
  obtain ⟨hmfld, hcfld⟩ := postWord_fields c m'
  unfold Dev.writeWMBX Dev.postWrite
  dsimp only
  rw [if_pos rfl, hmfld, hcfld, hp, postResult]

/-- CMD of a mailbox. -/
theorem writeWMBX_cmd (e : Dev) (a tag : Nat) (w : Fin 8) (m : Fin 16) (v : Word) :
    e.writeWMBX a tag w (0x10C + 32 * m) v = e.mboxCmd tag (16 * w + m) (fld v 0 8) := by
  unfold Dev.writeWMBX
  dsimp only
  rw [if_neg (by omega), if_pos (by omega), if_neg (by omega), if_pos (by omega), show (0x10C + 32 * m.val - 0x100) / 32 = m by omega]

section
variable {f : Dev} {m : Nat} {x : Mbox}

/-- A mailbox that is not FULL stays as it is; one that is, is freed, and answers its caller. -/
theorem mboxAnswer_cases (hx : x = f.mbox m) (word : Word) :
    (x.full = false → f.mboxAnswer m word = f) ∧
    (x.full = true → ∀ g : Dev, g = (f.setMbox m { x with full := false, call := false }).srcFalls →
      (x.call = false → f.mboxAnswer m word = g) ∧
      (x.call = true → f.mboxAnswer m word = g.spokeReply m x.sender (leNat ((x.msg.drop 12).take 2)) word)) := by
  subst hx
  refine ⟨fun h => if_pos (by rw [h]; rfl), fun h g hg => ⟨fun hc => ?_, fun hc => ?_⟩⟩ <;> subst hg <;>
    refine (if_neg (by rw [h]; decide)).trans ?_
  · exact if_neg (by rw [hc]; decide)
  · exact if_pos hc

end

/-! ### Locks -/

/-- The number of a lock among all 144. -/
def lockNum : LockName → Nat
  | .wheel w k => 16 * w.val + k.val
  | .global k => 128 + k.val

/-- An operation on a lock is counted where it is a wheel's. -/
def Dev.lockCounted (d : Dev) (tag : Nat) : LockName → Dev
  | .wheel w _ => d.countWheelOp w tag
  | .global _ => d

theorem lockReg_lockPage (l : LockName) : lockReg (lockPage l).1 (lockPage l).2 = some (lockNum l) := by
  cases l with
  | wheel w k =>
    have h : ¬ pgWMBX + w.val = pgKTL := by have := w.isLt; simp only [pgWMBX, pgKTL]; omega
    unfold lockReg lockPage lockNum
    dsimp only
    rw [if_pos (by omega), if_neg h, if_pos (by simp only [pgWMBX, pgWDM]; omega)]
    congr 1
    omega
  | global k =>
    unfold lockReg lockPage lockNum
    dsimp only
    rw [if_pos (by omega), if_pos rfl]
    congr 1
    omega

theorem lockPage_writable (l : LockName) : blockWritable (lockPage l).1 (lockPage l).2 = true := by
  cases l with
  | wheel w k =>
    refine (blockWritable_wmbx w (0x300 + 4 * k)).trans ?_
    revert k
    decide +kernel
  | global k => revert k; decide +kernel

theorem lockPage_readable (l : LockName) : (regRow (lockPage l).1 (lockPage l).2).isSome = true := by
  have h := lockPage_writable l
  unfold blockWritable at h
  cases hr : regRow (lockPage l).1 (lockPage l).2 with
  | none => rw [hr] at h; cases h
  | some r => rfl

theorem lockWheel_wheel (w : Fin 8) (k : Fin 16) : lockWheel (lockNum (.wheel w k)) = some w.val := by
  have hdiv : (16 * w.val + k.val) / 16 = w := by omega
  have h : lockWheel (lockNum (.wheel w k)) = some ((16 * w.val + k.val) / 16) := if_pos (by show 16 * w.val + k.val < 128; omega)
  rw [h, hdiv]

theorem lockWheel_global (k : Fin 16) : lockWheel (lockNum (.global k)) = none := if_neg (by show ¬ 128 + k.val < 128; omega)

/-- A read of a lock, counted. -/
theorem readReg_lock (d : Dev) (a tag : Nat) (l : LockName) :
    d.readReg a tag (lockPage l).1 (lockPage l).2 = (d.lockCounted tag l).lockRead tag a (lockNum l) := by
  have hwide : wideLow (lockPage l).1 (lockPage l).2 = false := by
    cases l with
    | wheel w k => revert w k; decide +kernel
    | global k => revert k; decide +kernel
  unfold Dev.readReg
  rw [hwide, if_neg (by decide), lockReg_lockPage]
  dsimp only
  cases l with
  | wheel w k => rw [lockWheel_wheel]; rfl
  | global k => rw [lockWheel_global]; rfl

/-- A write of a lock, counted. -/
theorem writeBlock_lock (d : Dev) (a tag : Nat) (l : LockName) (v : Word) :
    d.writeBlock a tag (lockPage l).1 (lockPage l).2 v = if v ≠ 0 then none else some ((d.lockCounted tag l).lockWrite a (lockNum l)) := by
  have hlock : d.writeLock a tag (lockNum l) v = if v ≠ 0 then none else some ((d.lockCounted tag l).lockWrite a (lockNum l)) := by
    unfold Dev.writeLock
    cases l with
    | wheel w k => rw [lockWheel_wheel]; rfl
    | global k => rw [lockWheel_global]; rfl
  rw [← hlock]
  have hreg := lockReg_lockPage l
  cases l with
  | wheel w k =>
    refine (writeBlock_wmbx d a tag w (0x300 + 4 * k) v).trans ?_
    replace hreg : lockReg (pgWMBX + w) (0x300 + 4 * k) = some (lockNum (.wheel w k)) := hreg
    unfold Dev.writeWMBX
    dsimp only
    rw [if_neg (by omega), if_neg (by omega), hreg]
  | global k =>
    refine (writeBlock_ktl d a tag (0x300 + 4 * k) v).trans ?_
    replace hreg : lockReg pgKTL (0x300 + 4 * k) = some (lockNum (.global k)) := hreg
    unfold Dev.writeKTL
    dsimp only
    rw [if_neg (by omega), if_neg (by omega), if_neg (by omega), if_neg (by omega), hreg]

section
variable {f : Dev} {a : Nat} {l : LockName}

theorem lockRead_cases (tag : Nat) :
    ((f.lock (lockNum l)).owner = none → f.lockRead tag a (lockNum l) = (w32 (256 * (f.lock (lockNum l)).broken.toNat),
      (f.sample tag).2.setLock (lockNum l) { f.lock (lockNum l) with owner := some a, time := toDs32 (f.sample tag).1 })) ∧
    (∀ o, (f.lock (lockNum l)).owner = some o → f.lockRead tag a (lockNum l) = (w32 o, f)) := by
  refine ⟨fun h => ?_, fun o h => ?_⟩ <;> unfold Dev.lockRead Dev.lockShown <;> dsimp only <;> rw [h]
  · cases (f.lock (lockNum l)).broken with
    | true | false => rfl
  · rfl

theorem lockWrite_owner (h : (f.lock (lockNum l)).owner = some a) : f.lockWrite a (lockNum l) =
    (f.setLock (lockNum l) { f.lock (lockNum l) with owner := none, broken := false, lastOwner := a }).lockFreed (lockNum l) := if_pos h

/-- A release by an agent that does not own the lock. -/
theorem lockWrite_misuse (h : (f.lock (lockNum l)).owner ≠ some a) {g : Dev}
    (hw : ∀ w k, l = .wheel w k → g = (f.bump (pgWMBX + w) 0x050 1 0x058 2).pageEvt (pgWMBX + w) 0x10000)
    (hg : ∀ k, l = .global k → g = f.bump pgKTL 0x3C0 1 0x3C4 0) : f.lockWrite a (lockNum l) =
    if 1 ≤ a ∧ a ≤ 64 then g.srcOccur (privSrc ((a - 1) / 8) ((a - 1) % 8) 18) else g := by
  refine (if_neg h).trans ?_
  cases l with
  | wheel w k => rw [lockWheel_wheel, hw w k rfl]
  | global k => rw [lockWheel_global, hg k rfl]

end

/-- Settles O42: a post by its mailbox, a mailbox by its caller, a lock by its owner. -/
theorem mailboxAndLockCommandsComplete : Obligations.MailboxAndLockCommandsComplete := by
  unfold Obligations.MailboxAndLockCommandsComplete
  intro s a e
  refine ⟨fun w m c ha hu => ?_, fun w m f x ha hu hf hx => ?_, fun l p i hpi f hf => ?_⟩
  · have hdiv : (16 * w.val + m.val) / 16 = w := by omega
    have hrun : ∀ r {g}, e.mboxPost (e.tagOf a) a (16 * w + m) c
        ((List.range 4).flatMap fun j => leBytes 4 (e.bank (pgWMBX + w) (0x060 + 4 * j) a).toNat) false = (r, g) →
        Runs (.mailboxPost a w m c) s (g.setBank (pgWMBX + w) 0x044 a (w32 (16 * m + r.code))) := fun r _ hp =>
      runs_of_run (f := fun d => d.wr a (pgWMBX + w) 0x040 (w32 (fput 8 3 c + m))) rfl
        (wr_block ha hu (mboxPost_writable w) ((writeBlock_wmbx ..).trans (writeWMBX_post e a (e.tagOf a) w (16 * w + m) c (m' := m) rfl hp))).symm
    refine ⟨fun h => hrun .fenced ((mboxPost_cases (f := e) hdiv).1 h), fun h f hf => ?_⟩
    obtain ⟨hfull, hfree⟩ := (mboxPost_cases (sender := a) (c := c) (call := false)
      (msg := (List.range 4).flatMap fun j => leBytes 4 (e.bank (pgWMBX + w) (0x060 + 4 * j) a).toNat) hdiv).2 h hf
    exact ⟨fun hm g hg => hrun .accepted (hfree hm g hg), fun hm => hrun .full (hfull hm)⟩
  · have hdiv : (16 * w.val + m.val) / 16 = w := by omega
    have hrel : ∀ {g}, f.mboxAnswer (16 * w + m) 0xFFFFFFFF = g → Runs (.release a w m) s g := fun hg => by
      refine runs_of_run (f := fun d => d.wr a (pgWMBX + w) (0x10C + 32 * m) 1) rfl (wr_block ha hu (mboxCmd_writable w m) ?_).symm
      rw [writeBlock_wmbx, writeWMBX_cmd]
      unfold Dev.mboxCmd
      rw [hdiv, ← hf, ← hg]
      rfl
    have hrep : ∀ {g}, f.mboxAnswer (16 * w + m) x.reply = g → Runs (.reply a w m) s g := fun hg => by
      refine runs_of_run (f := fun d => d.wr a (pgWMBX + w) (0x10C + 32 * m) 2) rfl (wr_block ha hu (mboxCmd_writable w m) ?_).symm
      rw [writeBlock_wmbx, writeWMBX_cmd]
      unfold Dev.mboxCmd
      rw [hdiv, ← hf, ← hg, hx]
      rfl
    have hcases := mboxAnswer_cases hx
    refine ⟨fun h => ⟨hrel ((hcases _).1 h), hrep ((hcases _).1 h)⟩, fun h g hg => ⟨fun hc => ⟨?_, ?_⟩, fun hc => ⟨?_, ?_⟩⟩⟩
    · exact hrel (((hcases _).2 h g hg).1 hc)
    · exact hrep (((hcases _).2 h g hg).1 hc)
    · exact hrel (((hcases _).2 h g hg).2 hc)
    · exact hrep (((hcases _).2 h g hg).2 hc)
  · have hp : p = lockPage l ∧ i = lockNum l := by
      cases l with
      | wheel w k | global k => exact Prod.mk.inj hpi
    obtain ⟨rfl, rfl⟩ := hp
    have hf' : f = e.lockCounted (e.tagOf a) l := by
      rw [hf]
      cases l with
      | wheel w k | global k => rfl
    clear hpi hf
    subst hf'
    refine ⟨fun ha => ?_, fun ha hu => ?_⟩
    · have hans : ∀ {g v}, (e.lockCounted (e.tagOf a) l).lockRead (e.tagOf a) a (lockNum l) = (v, g) → Answers (.lockAcquireRead a l) s g v :=
        fun hv => answers_rd rfl ha (fun h => by cases l with | wheel w k | global k => exact absurd h.2 (by unfold lockPage; dsimp only; omega))
          (lockPage_readable l) ((readReg_lock ..).trans hv)
      exact ⟨fun ho => hans ((lockRead_cases _).1 ho), fun o ho => hans ((lockRead_cases _).2 o ho)⟩
    · have hw := fun v => writeBlock_lock e a (e.tagOf a) l v
      refine ⟨fun v hv => ?_, fun ho => ?_, fun ho g hg => ?_⟩
      · exact runs_of_run (f := fun d => d.wr a (lockPage l).1 (lockPage l).2 v) rfl
          (wr_block_discarded ha hu (lockPage_writable l) ((hw v).trans (if_pos hv)))
      · refine runs_of_run (f := fun d => d.wr a (lockPage l).1 (lockPage l).2 0) rfl
          (wr_block ha hu (lockPage_writable l) ((hw 0).trans ((if_neg (not_not_intro rfl)).trans (congrArg some (lockWrite_owner ho))))).symm
      · refine runs_of_run (f := fun d => d.wr a (lockPage l).1 (lockPage l).2 0) rfl
          (wr_block ha hu (lockPage_writable l) ((hw 0).trans ((if_neg (not_not_intro rfl)).trans (congrArg some (lockWrite_misuse ho ?_ ?_))))).symm
        · rintro w k rfl
          exact hg
        · rintro k rfl
          exact hg

end Sys2Proof.Machine
end

section
/-!
PROOFS about the memory requests that come from outside, through BAR4 and the switch (R391, R392, R411, R473, R519-R521).
-/

namespace Sys2Proof.Machine

/-! ### The host -/

section
variable {d0 d g : Dev} {o n : Nat}

/-- A host read that is not aborted in DEVICE_HALT, by the domains on its way and the blocks it reads. -/
theorem hostRead_cases (hd : d = d0.linkWake 6) :
    (d.faults.halted = true → d0.hostRead o n = d.answer .abort []) ∧
    (d.faults.halted = false →
      (d.knockEach (bar4Doms o n) = (true, g) → d0.hostRead o n = d.holds g (.host o (.read n))) ∧
      (d.knockEach (bar4Doms o n) = (false, g) →
        (g.fencedOn [3, 4] = true → d0.hostRead o n = g.answer .abort []) ∧
        (g.fencedOn [3, 4] = false → ∀ f h : Dev, f = g.countTlp 1 (agentTag agHost) 2 n →
          (∀ bs p, f.blockReads .host 4 (blocksOf o n) = .ok bs p h → d0.hostRead o n = h.answer (if p then .poisoned else .success) bs) ∧
          (f.blockReads .host 4 (blocksOf o n) = .wait h → d0.hostRead o n = d.holds h (.host o (.read n))) ∧
          (∀ c, f.blockReads .host 4 (blocksOf o n) = .refuse c h → d0.hostRead o n = h.answer c [])))) := by
  subst hd
  have hgo : (d0.linkWake 6).faults.halted = false → ¬ (d0.linkWake 6).faults.halted = true := fun h => by rw [h]; decide
  refine ⟨fun h => if_pos h, fun h => ⟨fun hk => ?_, fun hk => ⟨fun hf => ?_, fun hf f h' hff => ⟨fun bs p hb => ?_, fun hb => ?_, fun c hb => ?_⟩⟩⟩⟩ <;>
    unfold Dev.hostRead <;> dsimp only <;> rw [if_neg (hgo h), hk]
  · exact if_pos rfl
  · exact (if_neg Bool.false_ne_true).trans (if_pos hf)
  all_goals rw [if_neg Bool.false_ne_true, if_neg (by rw [hf]; decide), ← hff, hb]

/-- A host write that is not lost, by the domains on its way. -/
theorem hostWrite_cases {bs : List Byte} {ep b : Bool} (hd : d = d0.linkWake 6) :
    ((d.faults.halted || (d.boot.hostPath && !decide (stagingBase ≤ o ∧ o + bs.length ≤ stagingBase + stagingSize))) = true →
      d0.hostWrite o bs ep = d.answer .success []) ∧
    ((d.faults.halted || (d.boot.hostPath && !decide (stagingBase ≤ o ∧ o + bs.length ≤ stagingBase + stagingSize))) = false →
      d.knockEach (bar4Doms o bs.length) = (b, g) →
      (b = true ∨ (d.caddy.wiping = true ∧ plainRange o = .caddy) → d0.hostWrite o bs ep = d.holds g (.host o (.write bs ep))) ∧
      (b = false → (d.caddy.wiping = true → plainRange o ≠ .caddy) →
        (g.fencedOn [3, 4] = true → d0.hostWrite o bs ep = g.answer .success []) ∧
        (g.fencedOn [3, 4] = false → ∀ f : Dev, f = g.countTlp 1 (agentTag agHost) 1 bs.length →
          (plainRange o = .hwt → d0.hostWrite o bs ep = (if ep then f else f.hwtWrite agHost (o - hwtBase) bs).answer .success []) ∧
          (plainRange o ≠ .hwt → d0.hostWrite o bs ep =
            ((f.blockWrites .host 4 ep (beatParts o bs (bs.length / 32 + 2))).2).answer .success [])))) := by
  subst hd
  generalize hin : decide (stagingBase ≤ o ∧ o + bs.length ≤ stagingBase + stagingSize) = inside
  refine ⟨fun h => ?_, fun h hk => ⟨fun hw => ?_, fun hb hw => ⟨fun hf => ?_, fun hf f hff => ⟨fun hr => ?_, fun hr => ?_⟩⟩⟩⟩ <;>
    unfold Dev.hostWrite <;> dsimp only <;> rw [hin]
  · exact if_pos (by simpa using h)
  all_goals rw [if_neg (by simpa using h), hk]
  · exact if_pos hw
  all_goals rw [if_neg (fun hx => hx.elim (fun h => by rw [hb] at h; cases h) fun h => hw h.1 h.2)]
  · exact if_pos hf
  · rw [if_neg (by rw [hf]; decide), ← hff, if_pos hr]
  · rw [if_neg (by rw [hf]; decide), ← hff, if_neg hr]

end

/-! ### The switch -/

/-- What a request of a downstream port that is not served is answered. -/
def reqLost (r : MemReq) : Cpl := if reqBytes r = 0 then .abort else .success

section
variable {d e g : Dev} {p : Nat} {id : PeerId} {a : Nat} {r : MemReq}

theorem peerRequest_cases (he : e = d.linkWake p) (hl : d.linkActive p = true) :
    (e.faults.halted = true → d.peerRequest p id a r = e.answer (reqLost r) []) ∧
    (e.faults.halted = false → e.acs p 1 = true → id.addrType ≠ 0 → d.peerRequest p id a r = e.answer .unsupported []) ∧
    (e.faults.halted = false → (e.acs p 1 = true → id.addrType = 0) → e.acs p 0 = true → e.busBelow p id.bus = false →
      d.peerRequest p id a r = e.answer (reqLost r) []) ∧
    (e.faults.halted = false → (e.acs p 1 = true → id.addrType = 0) → (e.acs p 0 = true → e.busBelow p id.bus = true) →
      ∀ o, e.busRoute a = .bar4 o → d.peerRequest p id a r = if e.peerMay p then e.peerAccess p 4 o r else e.peerDenied) := by
  subst he
  have hgo : (d.linkWake p).faults.halted = false → ¬ (d.linkWake p).faults.halted = true := fun h => by rw [h]; decide
  refine ⟨fun h => ?_, fun h h1 ht => ?_, fun h h1 h0 hb => ?_, fun h h1 h0 o hr => ?_⟩ <;> unfold Dev.peerRequest <;>
    rw [if_neg (by rw [hl]; decide)] <;> dsimp only
  · exact if_pos h
  · exact (if_neg (hgo h)).trans (if_pos ⟨h1, ht⟩)
  · refine (if_neg (hgo h)).trans ((if_neg fun h => h.2 (h1 h.1)).trans (if_pos ?_))
    rw [h0, hb]
    decide
  · refine (if_neg (hgo h)).trans ((if_neg fun h => h.2 (h1 h.1)).trans ((if_neg fun h => ?_).trans ?_))
    · rw [h0 h.1] at h
      exact absurd h.2 (by decide)
    · rw [hr]

/-- A peer read whose way is awake and not fenced, and whose blocks are served. -/
theorem peerAccess_read {o n : Nat} (hk : d.knockEach ([8 + p, 3, 4] ++ (blocksOf o n).flatMap fun x => pathTo 4 x.1) = (false, g))
    (hf : g.fencedOn [8 + p, 3, 4] = false) {f h : Dev} (hff : f = g.countTlp 2 tagOwn 1 0) {bs : List Byte} {po : Bool}
    (hb : f.blockReads .peer 4 (blocksOf o n) = .ok bs po h) :
    d.peerAccess p 4 o (.read n) = (h.countTlp 2 tagOwn 1 n).answer (if po then .poisoned else .success) bs := by
  subst hff
  unfold Dev.peerAccess
  dsimp only
  rw [if_pos rfl, hk, if_neg Bool.false_ne_true, if_neg (by rw [hf]; decide)]
  dsimp only [reqBytes]
  rw [hb]

/-- A peer write whose way is awake and not fenced, and of which something lands. -/
theorem peerAccess_write {o : Nat} {bs : List Byte} {ep : Bool}
    (hk : d.knockEach ([8 + p, 3, 4] ++ (blocksOf o bs.length).flatMap fun x => pathTo 4 x.1) = (false, g))
    (hf : g.fencedOn [8 + p, 3, 4] = false) {f : Dev} (hff : f = g.countTlp 2 tagOwn 1 bs.length) {q : List (Nat × Nat) × Dev}
    (hq : q = f.blockWrites .peer 4 ep (beatParts o bs (bs.length / 32 + 2))) (hne : q.1 ≠ []) :
    d.peerAccess p 4 o (.write bs ep) = (q.2.watchWrite p q.1).answer .success [] := by
  have hsome : q.1.isEmpty = false := List.isEmpty_eq_false_iff.mpr hne
  subst hff
  unfold Dev.peerAccess
  dsimp only
  rw [if_pos rfl, hk, if_neg Bool.false_ne_true, if_neg (by rw [hf]; decide)]
  subst hq
  refine congrArg (fun c => Dev.answer _ c []) (if_neg fun h => ?_)
  rw [Bool.and_eq_true, Bool.and_eq_true] at h
  exact Bool.false_ne_true (hsome.symm.trans h.1.1)

end

/-- Settles O43: the host's requests by their domains and blocks, a port's by its ACS controls and PEER_CTRL. -/
theorem memoryRequestsComplete : Obligations.MemoryRequestsComplete := by
  unfold Obligations.MemoryRequestsComplete
  intro s e
  refine ⟨fun o n halt hn he hh => ?_, fun q o bs ep lost he hq hlost => ?_, fun o bs => ?_, fun q p id addr r lost hq => ?_,
    fun p o g => ⟨fun n f hk hf hff bs po h hb => ?_, fun bs ep f q hk hf hff hq hne => ?_⟩, fun p => ⟨fun hl hh => ?_, fun h => ?_⟩⟩
  · subst hh
    have hrun : ∀ {f}, s.dev.hostRead o.toNat n = f → Runs (.hostMemoryRead o n) s f := fun hf =>
      runs_of_run (f := fun d => d.hostRead o.toNat n) (if_pos (decide_eq_true hn)) hf
    refine ⟨fun h => hrun ((hostRead_cases (g := e) he).1 h), fun h g => ⟨fun hk => hrun (((hostRead_cases he).2 h).1 hk), fun hk => ?_⟩⟩
    obtain ⟨hfenced, hopen⟩ := ((hostRead_cases he).2 h).2 hk
    refine ⟨fun hf => hrun (hfenced hf), fun hf f h hff => ?_⟩
    obtain ⟨hok, hwait, hrefuse⟩ := hopen hf f h hff
    exact ⟨fun bs p hb => hrun (hok bs p hb), fun hb => hrun (hwait hb), fun c hb => hrun (hrefuse c hb)⟩
  · subst hlost
    have hrun : ∀ {f}, s.dev.hostWrite o bs ep = f → Runs q s f := fun hf => by
      rcases hq with ⟨off, rfl, rfl⟩ | ⟨off, rfl, rfl, rfl⟩
      · exact runs_of_run (f := fun d => d.hostWrite off.toNat bs ep) rfl hf
      · exact runs_of_run (f := fun d => d.hwtEntryWrite agHost off.toNat bs) rfl ((if_pos rfl).trans hf)
    refine ⟨fun h => hrun ((hostWrite_cases (g := e) (b := false) he).1 h), fun h b g hk => ?_⟩
    obtain ⟨hwait, hmade⟩ := (hostWrite_cases he).2 h hk
    refine ⟨fun hw => hrun (hwait hw), fun hb hw => ?_⟩
    obtain ⟨hfenced, hopen⟩ := hmade hb hw
    refine ⟨fun hf => hrun (hfenced hf), fun hf f hff => ⟨fun hr hep => hrun ?_, fun hr hep => hrun ?_, fun hr => hrun ((hopen hf f hff).2 hr)⟩⟩
    · rw [(hopen hf f hff).1 hr, hep]
      rfl
    · rw [(hopen hf f hff).1 hr, hep]
      rfl
  · refine ⟨fun h => ?_, fun h => ?_, fun h => ?_, fun a h1 h2 => ?_⟩
    iterate 3
      refine runs_of_run (f := fun d => d.hwtEntryWrite agKettle o.toNat bs) rfl ?_
      unfold Dev.hwtEntryWrite
      rw [if_neg (by decide), if_pos rfl, h]
    exact runs_of_run (f := fun d => d.hwtEntryWrite a o.toNat bs) rfl ((if_neg fun h => h1 (Fin.ext h)).trans (if_neg fun h => h2 (Fin.ext h)))
  · have hrun : ∀ {f}, s.dev.peerRequest p id addr.toNat r = f → Runs q s f := fun hf => by
      rcases hq with ⟨n, hn, rfl, rfl, -⟩ | ⟨bs, ep, rfl, rfl, -, -⟩
      · exact runs_of_run (f := fun d => d.peerRequest p id addr.toNat (.read n)) (if_pos (decide_eq_true hn)) hf
      · exact runs_of_run (f := fun d => d.peerRequest p id addr.toNat (.write bs ep)) rfl hf
    have hlost : reqLost r = lost := by
      rcases hq with ⟨n, -, -, rfl, rfl⟩ | ⟨bs, ep, -, rfl, hne, rfl⟩
      · rfl
      · exact if_neg (fun h => hne (List.eq_nil_of_length_eq_zero h))
    refine ⟨fun h => hrun (if_pos (by rw [h]; rfl)), fun hl he => ?_⟩
    obtain ⟨hhalt, hblock, hvalid, hroute⟩ := peerRequest_cases (id := id) (a := addr.toNat) (r := r) he hl
    rw [hlost] at hhalt hvalid
    refine ⟨fun h => hrun (hhalt h), fun h h1 ht => hrun (hblock h h1 ht), fun h h1 h0 hb => hrun (hvalid h h1 h0 hb), fun h h1 h0 o ho => ?_⟩
    exact ⟨fun hm => hrun ((hroute h h1 h0 o ho).trans (if_neg (by rw [show e.peerMay p = false from hm]; decide))),
      fun hm => hrun ((hroute h h1 h0 o ho).trans (if_pos hm))⟩
  · exact peerAccess_read hk hf hff hb
  · exact peerAccess_write hk hf hff hq hne
  · exact runs_of_run (f := fun d => d.peerMessage p) rfl (if_neg (by rw [hl, hh]; decide))
  · refine runs_of_run (f := fun d => d.peerMessage p) rfl (if_pos ?_)
    exact h.imp_left fun h => by rw [h]; rfl

end Sys2Proof.Machine
end

section
/-!
PROOFS about the hub: the responses to its requesters, the arbiters' grants, and the training of a memory channel (R26, R395-R434, R461).
-/

namespace Sys2Proof.Machine

/-! ### Responses -/

section
variable {d : Dev} {a sub n : Nat}

/-- What a response goes on with, by its requester. -/
theorem accessGoesOn_cases :
    (0x50 ≤ a → a < 0x60 → d.accessGoesOn a sub n = d.engineBeats ((a - 0x50) * 256 + sub) n) ∧
    (0x60 ≤ a → a < 0x70 → d.accessGoesOn a sub n = d.mvBeats (a - 0x60) n) ∧
    (1 ≤ a → a ≤ 0x41 → 0 < n → d.accessGoesOn a sub n = d.loadArrives (a - 1) none) ∧
    ((a = 0 ∨ (0x41 < a ∧ a < 0x50) ∨ 0x70 ≤ a ∨ (a ≤ 0x41 ∧ n = 0)) → d.accessGoesOn a sub n = d) := by
  refine ⟨fun h1 h2 => if_pos ⟨h1, h2⟩, fun h1 h2 => (if_neg (by omega)).trans (if_pos ⟨h1, h2⟩),
    fun h1 h2 h3 => (if_neg (by omega)).trans ((if_neg (by omega)).trans (if_pos ⟨h1, h2, h3⟩)),
    fun h => (if_neg (by omega)).trans ((if_neg (by omega)).trans (if_neg (by omega)))⟩

/-- An engine's running access ends with the fenced error. -/
theorem accessFails_engine (h1 : 0x50 ≤ a) (h2 : a < 0x60) (hp : (d.ctx ((a - 0x50) * 256 + sub)).phase = .running) :
    d.accessFails a sub true = d.failAccess ((a - 0x50) * 256 + sub) xENGINE 3 :=
  (if_pos ⟨h1, h2⟩).trans ((if_neg (not_not_intro hp)).trans (if_pos rfl))

/-- A word error, by whether it can be corrected and whether its memory keeps the poison. -/
theorem responseError_memory {w : BitVec 48} {unc : Bool} {c : Checker} (hc : checkerOf w.toNat = some c) {e : Dev}
    (he : e = (d.eccCount c.page (if unc then c.unc else c.corr)).raiseFault
      { kind := if unc then c.ue else c.ce, page := c.page, source := c.source, info := w32 c.info, unit := c.unit }) :
    d.responseError a sub n (.memory w unc) =
      if !unc then e.accessGoesOn a sub n
      else if c.keeps then (e.setPoison (w.toNat / 8 * 8) true).accessGoesOn a sub n
      else e.accessFails a sub false := by
  subst he
  unfold Dev.responseError
  dsimp only
  rw [hc]
  rfl

theorem responseError_unchecked {w : BitVec 48} (unc : Bool) (hc : checkerOf w.toNat = none) :
    d.responseError a sub n (.memory w unc) = d.accessGoesOn a sub n := by
  unfold Dev.responseError
  dsimp only
  rw [hc]

theorem responseError_sameStep (h : d.portA = none) : d.responseError a sub n .sameStep = d.accessGoesOn a sub n := by
  show d.inSameStep (fun d => d.accessGoesOn a sub n) = _
  unfold Dev.inSameStep
  rw [h]

end

/-! ### Arbiters -/

section
variable {d f : Dev} {a : Nat} {req : List Nat}

/-- A class has two bits. -/
theorem portClass_lt (d : Dev) (a p : Nat) : d.portClass a p < 4 := Nat.mod_lt _ (by decide)

/-- The classes above the highest that presents a request are passed over. -/
theorem grantClass_highest {k : Nat} (hle : ∀ q ∈ req, f.portClass a q ≤ k) {n : Nat} (hn : k < n) :
    f.grantClass a req n = f.grantClass a req (k + 1) := by
  induction n with
  | zero => omega
  | succ n ih =>
    rcases Nat.lt_or_ge k n with h | h
    · have hempty : (req.filter fun p => f.portClass a p = n).isEmpty = true := by
        rw [List.isEmpty_iff, List.filter_eq_nil_iff]
        intro q hq hc
        have := hle q hq
        have := of_decide_eq_true hc
        omega
      exact (if_pos hempty).trans (ih h)
    · rw [show n = k by omega]

theorem grantClass_none (n : Nat) : f.grantClass a [] n = f := by
  induction n with
  | zero => rfl
  | succ n ih => exact ih

/-- The grant to the port that the search finds in the highest class. -/
theorem grantClass_grants {k p : Nat} {g : Dev} (hle : ∀ q ∈ req, f.portClass a q ≤ k) (hex : ∃ q ∈ req, f.portClass a q = k)
    (hg : g = if (req.filter fun p => f.portClass a p = k).any fun p => decide (0 < (f.arb a).creditOf p) then f
      else f.reload a ((arbPorts a).filter fun p => f.portClass a p = k))
    (hs : (g.arb a).search (smGet (g.arb a).ptr k 0) (req.filter fun p => f.portClass a p = k) = some p) :
    f.grantClass a req 4 = g.grantPort a k p (req.filter (· ≠ p)) := by
  subst hg
  obtain ⟨q, hq, hk⟩ := hex
  have hsome : ¬ (req.filter fun p => f.portClass a p = k).isEmpty = true := by
    rw [List.isEmpty_iff, List.filter_eq_nil_iff]
    exact fun h => h q hq (decide_eq_true hk)
  rw [grantClass_highest hle (hk ▸ portClass_lt f a q)]
  refine (if_neg hsome).trans ?_
  rw [hs]

/-- A grant opportunity of an arbiter whose target is awake. -/
theorem arbiterGrant_awake (present : BitVec 16) (hg : d.gate (arbTarget a) = .ok)
    (hf : f = d.setArb a { d.arb a with
      waited := (d.arb a).waited.filter fun e => !((arbPorts a).filter fun p => d.portMasked a p).contains e.1 })
    (hr : req = (arbPorts a).filter (fun p => present.getLsbD p && !((arbPorts a).filter fun p => d.portMasked a p).contains p)) :
    d.arbiterGrant a present = f.grantClass a req 4 := by
  subst hf hr
  exact if_neg (not_not_intro hg)

/-- The steps of a core's local RAM. -/
theorem lramGrant_cases {w c : Nat} {present : BitVec 16} {v : Arb} (hv : v = d.arb (64 + w)) :
    (d.gate (coreDom w c) ≠ .ok ∨ present.getLsbD 1 = false → d.lramGrant w c present = d) ∧
    (d.gate (coreDom w c) = .ok → present.getLsbD 1 = true →
      (present.getLsbD 0 = false → d.lramGrant w c present =
        d.setArb (64 + w) { v with waited := smSet v.waited c 0 0, told := v.told.filter (· ≠ c) }) ∧
      (present.getLsbD 0 = true → ∀ (n l : Nat) (f : Dev), n = smGet v.waited c 0 + 1 → l = d.rf (pgWARB + w) 0x200 16 8 →
        f = d.setArb (64 + w) { v with waited := smSet v.waited c n 0 } → d.lramGrant w c present =
          if l ≠ 0 ∧ 16 * l < n ∧ !v.told.contains c then f.starve (64 + w) c (pgWARB + w) 0x204 0x208 2 else f)) := by
  subst hv
  refine ⟨fun h => if_pos (h.symm.imp_left fun h => by rw [h]; rfl), fun hg h1 => ⟨fun h0 => ?_, fun h0 n l f hn hl hf => ?_⟩⟩
  all_goals
    have hgo : ¬ ((!present.getLsbD 1) = true ∨ d.gate (coreDom w c) ≠ .ok) := by rw [h1, hg]; decide
  · exact (if_neg hgo).trans (if_pos (by rw [h0]; rfl))
  · subst hn hl hf
    exact (if_neg hgo).trans (if_neg (by rw [h0]; decide))

end

/-- Settles O44: a response by its requester and its error, a grant by the highest class and its credits, training by the channel. -/
theorem hubCommandsComplete : Obligations.HubCommandsComplete := by
  unfold Obligations.HubCommandsComplete
  intro s
  refine ⟨fun a sub n => ?_, fun arb a present f req ha hlt hf hr => ⟨fun hg => ?_, fun hg => ?_⟩, fun w c present v hv => ?_,
    fun c => ⟨fun h => ?_, fun h => ?_⟩⟩
  · intro goesOn
    have hrun : ∀ {x g}, s.dev.responseError a sub n x = g → Runs (.hubResponse a sub n (some x)) s g := fun {x _} hg =>
      runs_of_run (f := fun d => d.hubResponse a sub n (some x)) rfl hg
    refine ⟨runs_of_run (f := fun d => d.hubResponse a sub n none) rfl rfl, fun d => accessGoesOn_cases, fun lane e he => ?_,
      fun w unc hc => hrun (responseError_unchecked unc hc), fun w unc c e hc he => ?_, fun dom st => hrun rfl, fun port detail => hrun rfl,
      fun h => hrun (responseError_sameStep h)⟩
    · have hlane : s.dev.responseError a sub n (.bridge lane) = e.accessFails a sub true := by rw [he]; rfl
      exact ⟨hrun hlane, fun h1 h2 hp => hrun (hlane.trans (accessFails_engine h1 h2 hp))⟩
    · have h := responseError_memory (a := a) (sub := sub) (n := n) hc he
      refine ⟨fun hu => hrun (h.trans (if_pos (by rw [hu]; rfl))),
        fun hu hk => hrun (h.trans ((if_neg (by rw [hu]; decide)).trans (if_pos hk))),
        fun hu hk => hrun (h.trans ((if_neg (by rw [hu]; decide)).trans (if_neg (by rw [hk]; decide))))⟩
  · have hrun : s.dev.grant arb present = s.dev.arbiterGrant a present := by
      subst ha
      cases arb with
      | hub b | wheel w b => rfl
      | lram w c => exact absurd hlt (by show ¬ 64 + w.val < 64; omega)
    exact runs_of_run (f := fun d => d.grant arb present) rfl (hrun.trans (if_pos hg))
  · have hrun : s.dev.grant arb present = f.grantClass a req 4 := by
      refine Eq.trans ?_ (arbiterGrant_awake present hg hf hr)
      subst ha
      cases arb with
      | hub b | wheel w b => rfl
      | lram w c => exact absurd hlt (by show ¬ 64 + w.val < 64; omega)
    refine ⟨fun h => ?_, fun k p g hle hex hgg hs v c hv hc => ?_⟩ <;> refine runs_of_run (f := fun d => d.grant arb present) rfl (hrun.trans ?_)
    · rw [h]
      exact grantClass_none 4
    · subst hv hc
      exact grantClass_grants hle hex hgg hs
  · have hrun : ∀ {g}, s.dev.lramGrant w c present = g → Runs (.arbiterGrant (.lram w c) present) s g := fun hg =>
      runs_of_run (f := fun d => d.grant (.lram w c) present) rfl hg
    obtain ⟨hstay, hgo⟩ := lramGrant_cases (c := c.val) (present := present) hv
    refine ⟨fun h => hrun (hstay h), fun hg h1 => ⟨fun h0 => hrun ((hgo hg h1).1 h0), fun h0 n l f hn hl hf => ⟨fun h => ?_, fun h => ?_⟩⟩⟩ <;>
      refine hrun (((hgo hg h1).2 h0 n l f hn hl hf).trans ?_)
    · exact if_pos ⟨h.1, h.2.1, by rw [h.2.2]; rfl⟩
    · refine if_neg fun hx => ?_
      rcases h with h | h | h
      · exact hx.1 h
      · exact absurd hx.2.1 (by omega)
      · rw [h] at hx; exact absurd hx.2.2 (by decide)
  · exact runs_of_run (f := fun d => d.trained c) rfl (if_pos h)
  · exact runs_of_run (f := fun d => d.trained c) rfl (if_neg h)

end Sys2Proof.Machine
end

section
/-!
PROOFS about the derailleur: eligibility, evaluation, scheduled wakes, slots and the domains' transitions (R436-R449).
-/

namespace Sys2Proof.Machine

section
variable {d e f : Dev} {k : Nat} {u : Dom}

/-- Where a domain is moved, by its transition and its state. -/
theorem moveToward_cases {best now : Nat} (hu : u = d.dom k) (hn : now = max 1 u.state.code) :
    (∀ dem known, u.trans = .exiting dem known → d.moveToward k best = d) ∧
    (∀ goal, u.trans = .entering goal → d.moveToward k best =
      if now < best then d.setDom k { u with trans := .entering (PState.ofCode best) } else d.startExit k false none) ∧
    (u.trans = .none → d.moveToward k best =
      if now < best then d.setDom k { u with trans := .entering (PState.ofCode best) }
      else if best < now then d.startExit k false none else d) := by
  subst hu hn
  refine ⟨fun dem known h => ?_, fun goal h => ?_, fun h => ?_⟩ <;> unfold Dev.moveToward <;> dsimp only <;> rw [h]

/-- One evaluation of an eligible domain: it is moved, and its scheduled wake is set. -/
theorem evaluate_eligible {best : Nat} (h0 : k ≠ 0) (hel : (d.dom k).eligible = true) (hf : d.isFenced k = false) (hc : (d.dom k).cycling = false)
    (he : e = d.bump pgDRL 0x050 1 0x060 0) (hb : best = e.selection k) (hm : f = e.moveToward k best) :
    (e.knownEvent k = none ∨ best = 1 → d.evaluate k = f.setDom k { f.dom k with wakeAt := none }) ∧
    (∀ t wake : DT, e.knownEvent k = some t → best ≠ 1 → wake = t - BitVec.ofNat 64 ((f.lat k best + (f.reg pgDRL 0x044).toNat) * 256) →
      d.evaluate k = if reached f.now wake then f.startExit k false (some t) else f.setDom k { f.dom k with wakeAt := some wake, wakeFor := t }) := by
  have hgo : ¬ (k = 0 ∨ (!(d.dom k).eligible) = true ∨ d.isFenced k = true ∨ (d.dom k).cycling = true) := by simp [h0, hel, hf, hc]
  refine ⟨fun h => ?_, fun t wake hk hne hw => ?_⟩ <;> unfold Dev.evaluate <;> dsimp only <;> rw [if_neg hgo, ← he, ← hb, ← hm]
  · rcases h with h | h
    · rw [h]
    · cases e.knownEvent k with
      | none => rfl
      | some t => exact if_pos h
  · subst hw
    rw [hk]
    exact if_neg hne

theorem scheduledWake_none (h : (d.dom k).wakeAt = none) : d.scheduledWake k = d := by
  unfold Dev.scheduledWake
  rw [h]

theorem scheduledWake_some {t : DT} (h : (d.dom k).wakeAt = some t) :
    d.scheduledWake k = if reached d.now t ∧ !d.isFenced k then d.startExit k false (some (d.dom k).wakeFor) else d := by
  unfold Dev.scheduledWake
  rw [h]

/-- A domain that sleeps, and is in no transition, begins its exit. -/
theorem startExit_asleep {dem : Bool} {known : Option DT} (hc : (d.dom k).cycling = false) (ht : (d.dom k).trans = .none)
    (hs : (d.dom k).state = .doze ∨ (d.dom k).state = .nap ∨ (d.dom k).state = .off) :
    d.startExit k dem known = d.setDom k { d.dom k with trans := .exiting dem known, wakeAt := none, eligible := false } := by
  unfold Dev.startExit
  dsimp only
  rw [if_neg (by rw [hc]; decide), ht]
  exact if_pos hs

/-- A schedule slot in force, by its time and its period. -/
theorem slotReached_some {i : Nat} {x : Slot} (h : smFind d.slots i = some x) :
    (reached d.now x.time = false → d.slotReached i = d) ∧
    (reached d.now x.time = true → d.reg pgDRL (slotOff i 8) = 0 → d.slotReached i =
      { d.setRf pgDRL (slotOff i 0xC) 31 1 0 with slots := smErase d.slots i }) ∧
    (∀ t f, reached d.now x.time = true → d.reg pgDRL (slotOff i 8) ≠ 0 → t = x.time + ds32Dur (d.reg pgDRL (slotOff i 8)) →
      f = (if d.reg pgDRL (slotOff i 0) = lo32 x.time then d.setReg pgDRL (slotOff i 0) (lo32 t) else d) →
      d.slotReached i = { f.setReg pgDRL (slotOff i 4) (hi32 t) with slots := smPut f.slots i { x with time := t } }) := by
  refine ⟨fun hr => ?_, fun hr hp => ?_, fun t f hr hp ht hf => ?_⟩ <;> unfold Dev.slotReached <;> rw [h]
  · exact if_pos (by rw [hr]; rfl)
  · exact (if_neg (by rw [hr]; decide)).trans (if_pos hp)
  · subst ht hf
    refine (if_neg (by rw [hr]; decide)).trans ((if_neg hp).trans ?_)
    split
    · rfl
    · rfl

/-- One step of an entry. -/
theorem entryStep_enters {goal : PState} (pj : Option Nat) (hu : u = d.dom k) (ht : u.trans = .entering goal) (hc : u.cycling = false)
    (hf : d.isFenced k = false) (hff : f = ((d.chargeTrans k (d.ein k u.state.deeper.code)).measureIn k u.state.deeper.code pj).setDom k
      { u with state := u.state.deeper, trans := if u.state.deeper = goal then .none else .entering goal }) :
    d.entryStep k pj = if u.state.deeper = .off then f.poweredOff k else f := by
  subst hu hff
  unfold Dev.entryStep
  dsimp only
  rw [ht]
  exact if_neg (by rw [hc, hf]; decide)

theorem entryStep_stays (pj : Option Nat) (hu : u = d.dom k)
    (h : (∀ goal, u.trans ≠ .entering goal) ∨ u.cycling = true ∨ d.isFenced k = true) : d.entryStep k pj = d := by
  subst hu
  unfold Dev.entryStep
  dsimp only
  cases ht : (d.dom k).trans with
  | none | exiting dem known => rfl
  | entering goal => exact if_pos (h.resolve_left fun h => h goal ht)

theorem exitComplete_stays (lat : Nat) (pj : List (Option Nat)) (hu : u = d.dom k)
    (h : (∀ dem known, u.trans ≠ .exiting dem known) ∨ (d.isFenced k = true ∧ u.cycling = false)) : d.exitComplete k lat pj = d := by
  subst hu
  unfold Dev.exitComplete
  dsimp only
  cases ht : (d.dom k).trans with
  | none | entering goal => rfl
  | exiting dem known =>
    obtain ⟨hf, hc⟩ := h.resolve_left fun h => h dem known ht
    exact if_pos ⟨hf, by rw [hc]; rfl⟩

/-- The end of an exit: the unit comes up, energies and latency are taken, and the domain is in FREEWHEEL. -/
theorem exitComplete_ends {dem : Bool} {known : Option DT} (lat : Nat) (pj : List (Option Nat)) (hu : u = d.dom k) (ht : u.trans = .exiting dem known)
    (hf : d.isFenced k = false ∨ u.cycling = true) :
    (u.state = .off → d.comeUp k = (false, e) → d.exitComplete k lat pj = e) ∧
    (∀ f g h : Dev, (u.state ≠ .off ∧ e = d ∨ u.state = .off ∧ d.comeUp k = (true, e)) → f = e.exitEnergies k u.state.code pj →
      g = (if 2 ≤ u.state.code then { f with lats := smPut f.lats (estKey k u.state.code) (window (f.latWindow k u.state.code)
        { lat := ceilDiv lat 256, volt := f.volt k, temp := f.temp k }) } else f).countExit k u.trans →
      h = g.setDom k { g.dom k with state := .freewheel, trans := .none, eligible := false, wakeAt := none, cycling := false } →
      d.exitComplete k lat pj = if u.cycling then h.endCycle k else h) := by
  subst hu
  have hgo : ¬ (d.isFenced k = true ∧ (!(d.dom k).cycling) = true) := fun hx =>
    hf.elim (fun h => by rw [h] at hx; exact absurd hx.1 (by decide)) (fun h => by rw [h] at hx; exact absurd hx.2 (by decide))
  refine ⟨fun hs hup => ?_, fun f g h hup hff hg hh => ?_⟩
  · unfold Dev.exitComplete
    dsimp only
    rw [ht]
    dsimp only
    rw [if_neg hgo, if_pos hs, hup]
  · have hcome : (if (d.dom k).state = .off then d.comeUp k else (true, d)) = (true, e) := by
      rcases hup with ⟨hs, he⟩ | ⟨hs, hup⟩
      · rw [if_neg hs, he]
      · rw [if_pos hs, hup]
    subst hff hg hh
    unfold Dev.exitComplete
    dsimp only
    rw [ht]
    dsimp only
    rw [if_neg hgo, hcome]

end

/-- Settles O45: each by what there is for it to do, the evaluation by the state it selects and the known event. -/
theorem derailleurCommandsComplete : Obligations.DerailleurCommandsComplete := by
  unfold Obligations.DerailleurCommandsComplete
  intro s c k d u hd hu
  refine ⟨fun v may hv hmay => ?_, fun h => ?_, fun e f best now h0 hel hfen hcyc he hb hn hf => ?_, fun h => ?_, fun t ht => ?_, fun i => ?_,
    fun v pj hv => ?_, fun lat pj => ?_⟩
  · subst hv hmay
    refine runs_of_run (f := fun d => d.idleHold k) rfl (ite_iff_congr ?_ rfl rfl)
    simp [and_assoc]
  · subst hd hu
    refine runs_of_run (f := fun d => (d.atCounts c).evaluate k) rfl (if_pos ?_)
    exact h.imp_right (Or.imp_left fun h => by rw [h]; rfl)
  · subst hd
    have hdom : u = e.dom k := by rw [hu, he, bump_eq]; rfl
    have hmove : f = e.moveToward k best := by
      obtain ⟨hexit, henter, hnone⟩ := moveToward_cases (best := best) hdom hn
      rw [hf]
      cases ht : u.trans with
      | exiting dem known => exact (hexit dem known ht).symm
      | entering goal => exact (henter goal ht).symm
      | none => exact (hnone ht).symm
    have hrun : ∀ {g}, (s.dev.atCounts c).evaluate k = g → Runs (.derailleurEvaluation c k) s g := fun hg =>
      runs_of_run (f := fun d => (d.atCounts c).evaluate k) rfl hg
    subst hu
    obtain ⟨hnone, hsome⟩ := evaluate_eligible h0 hel hfen hcyc he hb hmove
    refine ⟨fun h => hrun (hnone h), fun t wake hk hne hw => ⟨fun hr => hrun ((hsome t wake hk hne hw).trans (if_neg (by rw [hr]; decide))),
      fun hr => hrun ((hsome t wake hk hne hw).trans (if_pos hr))⟩⟩
  · subst hd hu
    exact runs_of_run (f := fun d => (d.atCounts c).scheduledWake k) rfl (scheduledWake_none h)
  · subst hd hu
    have hrun : ∀ {g}, (s.dev.atCounts c).scheduledWake k = g → Runs (.scheduledWake c k) s g := fun hg =>
      runs_of_run (f := fun d => (d.atCounts c).scheduledWake k) rfl hg
    refine ⟨fun h => hrun ((scheduledWake_some ht).trans (if_neg fun hx => ?_)), fun hr hf => ?_⟩
    · rcases h with h | h
      · rw [h] at hx; exact absurd hx.1 (by decide)
      · rw [h] at hx; exact absurd hx.2 (by decide)
    · have hstart := (scheduledWake_some ht).trans (if_pos ⟨hr, by rw [hf]; rfl⟩)
      exact ⟨hrun hstart, fun hc htr hst => hrun (hstart.trans (startExit_asleep hc htr hst))⟩
  · subst hd
    have hrun : ∀ {g}, (s.dev.atCounts c).slotReached i = g → Runs (.scheduleSlotReached c i) s g := fun hg =>
      runs_of_run (f := fun d => (d.atCounts c).slotReached i) rfl hg
    refine ⟨fun h => hrun ?_, fun x hx => ?_⟩
    · unfold Dev.slotReached
      rw [h]
    · obtain ⟨hwait, honce, hagain⟩ := slotReached_some hx
      exact ⟨fun hr => hrun (hwait hr), fun hr hp => hrun (honce hr hp), fun t f hr hp ht hf => hrun (hagain t f hr hp ht hf)⟩
  · have hrun : ∀ {g}, s.dev.entryStep k pj = g → Runs (.domainEntryStepComplete k pj) s g := fun hg =>
      runs_of_run (f := fun d => d.entryStep k pj) rfl hg
    refine ⟨fun h => hrun (entryStep_stays pj hv h), fun goal f ht hc hf hff => ?_⟩
    have hstep := entryStep_enters pj hv ht hc hf hff
    exact ⟨fun h => hrun (hstep.trans (if_neg h)), fun h => hrun (hstep.trans (if_pos h))⟩
  · subst hd
    have hrun : ∀ {g}, (s.dev.atCounts c).exitComplete k lat pj = g → Runs (.domainExitComplete c k lat pj) s g := fun hg =>
      runs_of_run (f := fun d => (d.atCounts c).exitComplete k lat pj) rfl hg
    refine ⟨fun h => hrun (exitComplete_stays lat pj hu h), fun dem known e ht hf => ?_⟩
    obtain ⟨hwait, hend⟩ := exitComplete_ends (e := e) lat pj hu ht hf
    refine ⟨fun hs hup => hrun (hwait hs hup), fun f g hup hff hg h hh => hrun (hend f g h hup hff ?_ hh)⟩
    have hceil : ceilDiv lat 256 = (lat + 255) / 256 := by unfold ceilDiv; omega
    rw [hceil]
    exact hg

end Sys2Proof.Machine
end

section
/-!
PROOFS about the control of the domains and of their voltages: CYCLE and DRESET, the estimates, VDD_CORE, the sensors and the
monitors (R450-R461, R498, R545).
-/

namespace Sys2Proof.Machine

/-! ### PWD.CTRL and the estimates -/

theorem ctrlOff_writable (k : Fin 152) : blockWritable pgPWD (0x100 + 16 * k) = true := by
  revert k
  decide +kernel

theorem estimates_writable : blockWritable pgPWD 0x044 = true ∧ blockWritable pgPWD 0x048 = true ∧ blockWritable pgPWD 0x04C = true := by
  decide +kernel

/-- A write of PWD.CTRL of a domain, by the domain, the floor and the two bits. -/
theorem writePWD_ctrl (e : Dev) (a k : Nat) (v : Word) {f : Dev} (hf : f = e.plain a pgPWD (0x100 + 16 * k) v) :
    e.writePWD a (0x100 + 16 * k) v =
      if k = 0 then none else if (!within 1 4 (fld v 0 3)) = true then none
      else if bitAt v 31 = true then f.cycleDomain k else if bitAt v 30 = true then f.resetDomain k else some f := by
  subst hf
  have hlow : ∀ c, c < 0x100 → 0x100 + 16 * k ≠ c := fun c hc h => by omega
  have hk : (0x100 + 16 * k - 0x100) / 16 = k := by omega
  have hm : (0x100 + 16 * k) % 16 = 0 := by omega
  unfold Dev.writePWD
  simp only [hlow 0x040 (by decide), hlow 0x044 (by decide), hlow 0x048 (by decide), hlow 0x04C (by decide), hlow 0x054 (by decide),
    hlow 0x058 (by decide), hlow 0x05C (by decide), hlow 0x060 (by decide), hlow 0x064 (by decide), if_false, hk, hm,
    Nat.le_add_right, if_true]

section
variable {d : Dev} {k : Nat}

/-- CYCLE of a domain, by what stands in its way. -/
theorem cycleDomain_cases :
    (d.faults.halted = true → d.cycleDomain k = some d) ∧
    (d.faults.halted = false → d.wheelFenced k = true → d.cycleDomain k = none) ∧
    (d.faults.halted = false → d.wheelFenced k = false → (d.dom k).cycling = true → d.cycleDomain k = some d) ∧
    (∀ g : Dev, d.faults.halted = false → d.wheelFenced k = false → (d.dom k).cycling = false →
      g = ((d.workLost k).chargeToOff k).breakLocks (fun x => agentDom x = some k) → d.cycleDomain k = some (g.setDom k { g.dom k with
        state := .off, trans := .exiting false none, cycling := true, eligible := false, wakeAt := none })) := by
  unfold Dev.cycleDomain
  refine ⟨fun hh => ?_, fun hh hw => ?_, fun hh hw hc => ?_, fun g hh hw hc hg => ?_⟩
  · simp only [hh, if_true]
  · simp only [hh, hw, Bool.false_eq_true, if_false, if_true]
  · simp only [hh, hw, hc, Bool.false_eq_true, if_false, if_true]
  · subst hg
    simp only [hh, hw, hc, Bool.false_eq_true, if_false]
    rfl

/-- DRESET of a domain, by what stands in its way. -/
theorem resetDomain_cases :
    ((d.dom k).fenced = true ∨ d.wheelFenced k = true → d.resetDomain k = none) ∧
    ((d.dom k).fenced = false → d.wheelFenced k = false →
      ((d.dom k).cycling = true ∨ (d.dom k).state = .off ∨ k = 1 → d.resetDomain k = some d) ∧
      (∀ g h : Dev, (d.dom k).cycling = false → (d.dom k).state ≠ .off → k ≠ 1 → g = (d.workLost k).unitReset k .dreset →
        h = (if k = 3 then g.clearHwt else g) →
        d.resetDomain k = some (if 8 ≤ k ∧ k < 14 then h.portDown (k - 8) else h))) := by
  unfold Dev.resetDomain
  refine ⟨fun h => if_pos h, fun hf hw => ?_⟩
  have hno : ¬ ((d.dom k).fenced = true ∨ d.wheelFenced k = true) := by simp [hf, hw]
  refine ⟨fun h => (if_neg hno).trans ?_, fun g h hc ho h1 hg hh => ?_⟩
  · rcases h with h | h | h
    · exact if_pos (.inl h)
    · exact if_pos (.inr h)
    · exact (congrArg (ite _ _) (if_pos h)).trans (ite_self _)
  · subst hg hh
    exact (if_neg hno).trans ((if_neg (by simp [hc, ho])).trans (if_neg h1))

end

/-! ### VDD_CORE -/

section
variable {d e : Dev} {p : Pmic}

theorem pmicWrite_waits (hp : p = d.pmic) (h : d.pmicOn = false ∨ p.busy.isSome = true ∨ p.settling.isSome = true ∨ d.vcoreWanted = p.now) :
    d.pmicWrite = d := by
  subst hp
  exact if_pos (h.imp_left fun h => by rw [h]; rfl)

theorem pmicWrite_cases (hp : p = d.pmic) (hon : d.pmicOn = true) (hb : p.busy = none) (hs : p.settling = none) (hv : d.vcoreWanted ≠ p.now) :
    (d.knock 16 = (.ok, e) → d.pmicWrite = ({ e with pmic := { e.pmic with
      req := d.vcoreWanted, busy := some d.vcoreWanted, nacks := 0 } }).countSerial (regionTag 3) 2) ∧
    (∀ x, x ≠ .ok → d.knock 16 = (x, e) → d.pmicWrite = e) := by
  subst hp
  have hgo : ¬ ((!d.pmicOn) = true ∨ d.pmic.busy.isSome = true ∨ d.pmic.settling.isSome = true ∨ d.vcoreWanted = d.pmic.now) := by
    simp [hon, hb, hs, hv]
  refine ⟨fun hk => ?_, fun x hx hk => ?_⟩ <;> unfold Dev.pmicWrite <;> dsimp only <;> rw [if_neg hgo, hk]
  cases x with
  | ok => exact absurd rfl hx
  | fenced => rfl
  | asleep => rfl

theorem pmicDone_idle (ack : Bool) (h : d.pmic.busy = none) : d.pmicDone ack = d := by
  unfold Dev.pmicDone
  rw [h]

/-- The end of a write of VDD_CORE: a raise settles, a lowering is in force, and a refusal is written again twice. -/
theorem pmicDone_cases {t : Nat} {f g : Dev} (hp : p = d.pmic) (ht : p.busy = some t) (hf : f = d.bump pgI3C 0x3A4 1 0x3AC 1)
    (hg : g = d.bump pgI3C 0x3A0 1 0x3AC 0) :
    (p.now < t → d.pmicDone true = { f with pmic := { p with busy := none, settling := some t } }) ∧
    (t ≤ p.now → d.pmicDone true = { f with pmic := { p with busy := none, now := t } }) ∧
    (p.nacks < 2 → d.pmicDone false = ({ g with pmic := { p with nacks := p.nacks + 1 } }).countSerial (regionTag 3) 2) ∧
    (2 ≤ p.nacks → d.pmicDone false = (({ g with pmic := { p with busy := none, req := p.now, nacks := 0 } }).bump pgDRL 0x05C 1 0x060 3).raiseFault
      { kind := 15, page := pgDRL, source := 0, info := w32 (stepMv t), unit := none }) := by
  have hfp : f.pmic = p := by rw [hf, bump_eq]; exact hp.symm
  have hgp : g.pmic = p := by rw [hg, bump_eq]; exact hp.symm
  have hack : d.countI3c5 true = f := hf.symm
  have hnack : d.countI3c5 false = g := hg.symm
  rw [hp] at ht
  refine ⟨fun h => ?_, fun h => ?_, fun h => ?_, fun h => ?_⟩ <;> unfold Dev.pmicDone <;> rw [ht] <;>
    simp only [hack, hnack, hfp, hgp, if_true, Bool.false_eq_true, if_false]
  · rw [if_pos h]
  · rw [if_neg (by omega)]
  · rw [if_pos h]
  · rw [if_neg (by omega)]

end

/-! ### The monitors -/

theorem handshakeTimeout_cases (d : Dev) (k : Nat) (stage : Word) :
    (k = 0 → d.handshakeTimeout k stage = d.kettleFault stage) ∧
    (k ≠ 0 → (d.dom k).asleep = false → d.isFenced k = false → d.handshakeTimeout k stage = d.raiseFault
      { kind := 20, page := unitPage k, source := k, info := stage, unit := some k }) ∧
    (k ≠ 0 → ((d.dom k).asleep = true ∨ d.isFenced k = true) → d.handshakeTimeout k stage = d) := by
  unfold Dev.handshakeTimeout
  exact ⟨fun h => if_pos h, fun h hs hf => (if_neg h).trans (if_neg (by simp [hs, hf])), fun h hx => (if_neg h).trans (if_pos hx)⟩

theorem ldoFault_cases (d : Dev) {r mv v : Nat} (hr : r < 9) (hv : v = stepMv (d.region r).volt) :
    (5 ≤ r → (v + 25 < mv ∨ mv + 25 < v) → d.ldoFault r mv = (d.setRegion r { d.region r with meas := some mv }).raiseFault
      { kind := 25, page := pgTHM, source := r, info := w32 mv, unit := none }) ∧
    ((r < 5 ∨ (v ≤ mv + 25 ∧ mv ≤ v + 25)) → d.ldoFault r mv = d) := by
  subst hv
  unfold Dev.ldoFault
  exact ⟨fun h5 h => if_neg (by omega), fun h => if_pos (by omega)⟩

/-- Settles O46: a domain's CYCLE and DRESET are writes of its control register, by what stands in their way; the estimates are writes
of theirs; and VDD_CORE, the sensors and the monitors each follow their own rule. -/
theorem powerControlCommandsComplete : Obligations.PowerControlCommandsComplete := by
  unfold Obligations.PowerControlCommandsComplete
  intro s a e
  refine ⟨fun q bit k w f hq ha hu hf hw hbit => ?_, fun v key hkey hu => ?_, fun p hp => ?_, fun raw hraw => ?_, fun k stage => ?_,
    fun r mv v hv => ?_⟩
  · have hrun : ∀ {g}, s.dev.wr a pgPWD (0x100 + 16 * k) w = g → Runs q s g := by
      intro g hg
      rcases hq with ⟨rfl, rfl⟩ | ⟨rfl, rfl⟩
      · exact runs_of_run (f := fun d => d.pwdCtrl a k 31) rfl (by rw [hw] at hg; exact hg)
      · exact runs_of_run (f := fun d => d.pwdCtrl a k 30) rfl (by rw [hw] at hg; exact hg)
    have hctrl := writePWD_ctrl e a k w hf
    have htaken : ∀ {g}, e.writePWD a (0x100 + 16 * k) w = some g → Runs q s g := fun hg =>
      hrun (wr_block ha hu (ctrlOff_writable k) ((writeBlock_pwd ..).trans hg)).symm
    have hbad : e.writePWD a (0x100 + 16 * k) w = none → Runs q s (e.badWrite pgPWD a (0x100 + 16 * k)) := fun hg =>
      hrun (wr_block_discarded ha hu (ctrlOff_writable k) ((writeBlock_pwd ..).trans hg))
    refine ⟨fun h => hbad (hctrl.trans ?_), fun h0 hin => ?_⟩
    · by_cases h0 : k.val = 0
      · exact if_pos h0
      · exact (if_neg h0).trans (if_pos (by rw [h.resolve_left h0]; rfl))
    · have hgo := hctrl.trans ((if_neg h0).trans (if_neg (by rw [hin]; decide)))
      refine ⟨fun h31 => ?_, fun h31 => ?_⟩
      · have hcyc := hgo.trans (if_pos h31)
        obtain ⟨hhalt, hwheel, hagain, hoff⟩ := cycleDomain_cases (d := f) (k := k)
        exact ⟨fun hh => htaken (hcyc.trans (hhalt hh)), fun hh hx => hbad (hcyc.trans (hwheel hh hx)),
          fun hh hx hc => htaken (hcyc.trans (hagain hh hx hc)), fun g hh hx hc hg => htaken (hcyc.trans (hoff g hh hx hc hg))⟩
      · have h30 : bitAt w 30 = true := by
          rcases hq with ⟨_, rfl⟩ | ⟨_, rfl⟩
          · rw [h31] at hbit; cases hbit
          · exact hbit
        have hres := (hgo.trans (if_neg (by rw [h31]; decide))).trans (if_pos h30)
        obtain ⟨hfenced, hfree⟩ := resetDomain_cases (d := f) (k := k)
        refine ⟨fun h => hbad (hres.trans (hfenced h)), fun hff hfw => ?_⟩
        obtain ⟨hstays, hresets⟩ := hfree hff hfw
        exact ⟨fun h => htaken (hres.trans (hstays h)),
          fun g h hc ho h1 hg hh => htaken (hres.trans (hresets g h hc ho h1 hg hh))⟩
  · obtain ⟨hlat, hein, heout⟩ := estimates_writable
    subst hkey
    exact ⟨fun ha => runs_of_run (f := fun d => d.wr a pgPWD 0x044 v) rfl (wr_block ha hu hlat (writeBlock_pwd ..)).symm,
      fun ha => runs_of_run (f := fun d => d.wr a pgPWD 0x048 v) rfl (wr_block ha hu hein (writeBlock_pwd ..)).symm,
      fun ha => runs_of_run (f := fun d => d.wr a pgPWD 0x04C v) rfl (wr_block ha hu heout (writeBlock_pwd ..)).symm⟩
  · refine ⟨fun h => runs_of_run (f := Dev.pmicWrite) rfl (pmicWrite_waits hp h), fun hon hb hs hv => ?_,
      fun hb ack => runs_of_run (f := fun d => d.pmicDone ack) rfl (pmicDone_idle ack (hp ▸ hb)), fun t f g ht hf hg => ?_,
      fun hs => runs_of_run (f := Dev.pmicSettled) rfl ?_, fun t ht => runs_of_run (f := Dev.pmicSettled) rfl ?_⟩
    · obtain ⟨hok, hno⟩ := pmicWrite_cases (e := e) hp hon hb hs hv
      exact ⟨fun h => runs_of_run (f := Dev.pmicWrite) rfl (hok h), fun x hx h => runs_of_run (f := Dev.pmicWrite) rfl (hno x hx h)⟩
    · obtain ⟨hraise, hlower, hagain, hfault⟩ := pmicDone_cases hp ht hf hg
      have hack : ∀ {ack g}, s.dev.pmicDone ack = g → Runs (.pmicWriteComplete ack) s g := fun {ack _} h =>
        runs_of_run (f := fun d => d.pmicDone ack) rfl h
      exact ⟨fun h => hack (hraise h), fun h => hack (hlower h), fun h => hack (hagain h), fun h => hack (hfault h)⟩
    · rw [hp] at hs
      unfold Dev.pmicSettled
      rw [hs]
    · subst hp
      unfold Dev.pmicSettled
      rw [ht]
  · exact runs_of_run (f := fun d => d.thermalSample raw) (if_pos (decide_eq_true hraw)) rfl
  · have hrun : ∀ {g}, s.dev.handshakeTimeout k stage = g → Runs (.handshakeTimeout k stage) s g := fun hg =>
      runs_of_run (f := fun d => d.handshakeTimeout k stage) rfl hg
    obtain ⟨hkettle, hfault, hstays⟩ := handshakeTimeout_cases s.dev k stage
    exact ⟨fun h => hrun (hkettle h), fun h hs hf => hrun (hfault h hs hf), fun h hx => hrun (hstays h hx)⟩
  · have hrun : ∀ {g}, s.dev.ldoFault r mv = g → Runs (.ldoRegulationFault r mv) s g := fun hg =>
      runs_of_run (f := fun d => d.ldoFault r mv) rfl hg
    obtain ⟨hfault, hstays⟩ := ldoFault_cases s.dev r.isLt (mv := mv) hv
    exact ⟨fun h5 h => hrun (hfault h5 h), fun h => hrun (hstays h)⟩

end Sys2Proof.Machine
end

section
/-!
PROOFS about the common header and the plain registers: PG_CTRL, events, injection, commit and lock; and a register access that does not
get through (R3-R6, R25, R26, R535-R541).
-/

namespace Sys2Proof.Machine

/-! ### The header's registers -/

theorem header_writable (p : Fin 96) : ∀ o ∈ [0x008, 0x014, 0x018, 0x020, 0x02C, 0x034, 0x03C], headerWritable p o = true := by
  revert p
  decide +kernel

section
variable {d e : Dev} {a p o : Nat} {v : Word}

/-- A write that arrives at a writable header register, discarded with BAD_WRITE where the header's rules do not take it (R538). -/
theorem wr_header_getD (h : d.arrives a p o true = some e) (hu : e.unlocked p a) (hb : headerWritable p o = true) :
    d.wr a p o v = (e.writeHeader a p o v).getD (e.badWrite p a o) := by
  rw [wr_arrives h]
  unfold headerWritable at hb
  cases hr : regRow p o with
  | none => rw [hr] at hb; cases hb
  | some r =>
    simp [hr] at hb
    exact writeReg_header hr (by omega) hu (by omega)

/-- A write of a register without a writable bit is discarded (R538). -/
theorem wr_readOnly {r : RegRow} (h : d.arrives a p o true = some e) (hr : regRow p o = some r) (hw : r.rw = 0 ∧ r.w1c = 0 ∧ r.wo = 0) :
    d.wr a p o v = e.badWrite p a o := by
  rw [wr_arrives h]
  unfold Dev.writeReg
  rw [hr]
  exact if_pos hw

/-- What access codes alone do to a register that is neither banked nor shadowed. -/
theorem plain_row {r : RegRow} (hr : regRow p o = some r) (hb : r.banked = false) (hs : r.rws = false) :
    d.plain a p o v = d.setReg p o (r.written (d.reg p o) v) := by
  unfold Dev.plain
  simp only [hr, hb, hs, Bool.false_eq_true, if_false]

/-- A header register whose rules take a word under a condition. -/
theorem wr_header_if {q : Prop} [Decidable q] {f : Dev} (h : d.arrives a p o true = some e) (hu : e.unlocked p a) (hb : headerWritable p o = true)
    (hw : e.writeHeader a p o v = if q then some f else none) : d.wr a p o v = if q then f else e.badWrite p a o := by
  rw [wr_header_getD h hu hb, hw]
  split <;> rfl

/-! ### Accesses that do not get through -/

/-- Whether an agent makes a register access at all. -/
def Dev.mayAccess (d : Dev) (a p o : Nat) : Bool := d.canAccess a && !(decide (a = agDebug) && !d.debugMay p o)

theorem mayAccess_iff : d.mayAccess a p o = true ↔ ¬ ((!d.canAccess a) = true ∨ (a = agDebug ∧ (!d.debugMay p o) = true)) := by
  unfold Dev.mayAccess
  cases d.canAccess a <;> cases d.debugMay p o <;> simp

theorem wr_none (h : d.mayAccess a p o = false) : d.wr a p o v = d := by
  unfold Dev.wr Dev.regWrite
  rw [if_pos (Classical.byContradiction fun hx => by rw [mayAccess_iff.mpr hx] at h; cases h)]

theorem rd_none (h : d.mayAccess a p o = false) : d.rd a p o = d := by
  unfold Dev.rd Dev.regRead
  rw [if_pos (Classical.byContradiction fun hx => by rw [mayAccess_iff.mpr hx] at h; cases h)]

/-- A write that is held, or dropped at a fence. -/
theorem wr_stopped (h : d.mayAccess a p o = true) :
    (d.regReach a p o true = (.asleep, e) → d.wr a p o v = d.holds e (.regWrite a p o v)) ∧
    (d.regReach a p o true = (.fenced, e) → d.wr a p o v = e) := by
  constructor <;> intro hr <;> unfold Dev.wr Dev.regWrite Dev.regPut <;> rw [if_neg (mayAccess_iff.mp h), hr]

/-- A read that is held, or ends in error at a fence. -/
theorem rd_stopped (h : d.mayAccess a p o = true) :
    (d.regReach a p o false = (.asleep, e) → d.rd a p o = d.holds e (.regRead a p o)) ∧
    (d.regReach a p o false = (.fenced, e) → d.rd a p o = { e with cpl := .abort, resp := [] }) := by
  constructor <;> intro hr <;> unfold Dev.rd Dev.regRead <;> rw [if_neg (mayAccess_iff.mp h), hr]

/-- A register whose one unit sleeps, with nothing else on the way. -/
theorem regReach_asleep {k : Nat} {write : Bool} (ha : a ≠ agHost) (hp : regPath a p o = []) (hu : regDoms p o = [k]) (hg : d.gate k = .asleep) :
    d.regReach a p o write = (.asleep, d.demandWake k) := by
  have hknock : d.knock k = (.asleep, d.demandWake k) := by unfold Dev.knock; rw [hg]
  have hunits : d.knockUnits p o = (.asleep, d.demandWake k) := by unfold Dev.knockUnits; simp only [hu, List.foldl_cons, List.foldl_nil, hknock]
  unfold Dev.regReach
  rw [if_neg (fun h => ha h.1), if_neg ha, hp]
  exact hunits

/-- What is held behind a domain's exit keeps the rest of the device. -/
theorem holds_demandWake (k : Nat) (q : HeldReq) : d.holds (d.demandWake k) q = { d with doms := (d.demandWake k).doms, held := d.held ++ [q] } := by
  unfold Dev.holds
  rw [demandWake_eq]

end

/-- Settles O47: a write that arrives at a header register does what the header's rules say, or is discarded; a register without
special rules obeys its access codes; and an access stopped on its way is held, dropped or read in error. -/
theorem headerCommandsComplete : Obligations.HeaderCommandsComplete := by
  unfold Obligations.HeaderCommandsComplete
  intro s a p e
  have hb := header_writable p
  refine ⟨fun q v held hheld hq ha hu => ?_, fun ha hu => ?_, fun v ha hu => ?_, fun v ha hu => ?_, fun v hu => ⟨fun ha => ?_, fun ha => ?_⟩,
    fun v ha hu => ?_, fun i v r ha hr => ⟨fun hu hw ho hbank hrws hplain => ?_, fun h1 h2 h3 => ?_⟩, fun i v may hmay => ?_⟩
  · have hrun : ∀ {g}, s.dev.wr a p 0x008 v = g → Runs q s g := by
      subst hheld
      intro g hg
      rcases hq with ⟨rfl, rfl⟩ | ⟨rfl, rfl⟩ | ⟨rfl, rfl⟩ | ⟨rfl, rfl⟩
      · exact runs_of_run (f := fun d => d.pgCtrlBit a p 0 false) rfl hg
      · exact runs_of_run (f := fun d => d.pgCtrlBit a p 0 true) rfl hg
      · exact runs_of_run (f := fun d => d.pgCtrlBit a p 1 true) rfl hg
      · exact runs_of_run (f := fun d => d.pgCtrlBit a p 1 false) rfl hg
    intro waits others f g t bad
    have hctrl : e.writeHeader a p 0x008 v = if bad then none else some t := rfl
    refine hrun ((wr_header_getD ha hu (hb 0x008 (by simp))).trans ?_)
    rw [hctrl]
    cases bad <;> rfl
  · exact runs_of_run (f := fun d => d.wr a p 0x020 0x80000000) rfl (wr_header ha hu (hb 0x020 (by simp)) rfl).symm
  · intro good
    refine runs_of_run (f := fun d => d.wr a p 0x02C v) rfl (wr_header_if ha hu (hb 0x02C (by simp)) ?_)
    show e.writeInject a p v = _
    unfold Dev.writeInject
    by_cases hgood : good = true
    · rw [if_pos hgood]
      refine if_neg fun h => ?_
      simp only [good, Bool.and_eq_true, decide_eq_true_eq] at hgood
      obtain ⟨⟨⟨hen, hkind⟩, hcheck⟩, hpar⟩ := hgood
      rcases h with h | h | h | ⟨h3, h⟩
      · rw [hen] at h; cases h
      · exact hkind h
      · omega
      · rw [h3, h] at hpar; cases hpar
    · rw [if_neg hgood]
      refine if_pos (Classical.byContradiction fun h => hgood ?_)
      simp only [not_or, Bool.not_eq_true', Bool.not_eq_false, not_and] at h
      obtain ⟨hen, hkind, hcheck, hpar⟩ := h
      simp only [good, Bool.and_eq_true, decide_eq_true_eq, hen, true_and]
      refine ⟨⟨hkind, by omega⟩, ?_⟩
      cases h3 : bitAt v 3 with
      | false => rfl
      | true => rw [Bool.eq_false_iff.mpr (hpar h3)]; rfl
  · exact runs_of_run (f := fun d => d.wr a p 0x034 v) rfl (wr_header_if ha hu (hb 0x034 (by simp)) rfl)
  · exact runs_of_run (f := fun d => d.wr a p 0x014 v) rfl (wr_header_if ha hu (hb 0x014 (by simp)) rfl)
  · exact runs_of_run (f := fun d => d.wr a p 0x018 v) rfl (wr_header_if ha hu (hb 0x018 (by simp)) rfl)
  · have hlock : e.writeHeader a p 0x03C v = if bitAt v 0 = true then (if a.val = agKettle then some (e.setRf p 0x03C 0 1 1) else none) else some e := rfl
    have hrun := wr_header_getD (v := v) ha hu (hb 0x03C (by simp))
    rw [hlock] at hrun
    refine ⟨fun h0 => runs_of_run (f := fun d => d.wr a p 0x03C v) rfl ?_, fun h0 => runs_of_run (f := fun d => d.wr a p 0x03C v) rfl ?_⟩
    · rw [hrun, h0]; rfl
    · rw [hrun, if_pos h0]
      split <;> rfl
  · refine runs_of_run (f := fun d => d.wr a p (4 * i) v) rfl ?_
    rw [wr_arrives ha, writeReg_block hr hw hu (by omega), hplain]
    exact plain_row hr hbank hrws
  · exact runs_of_run (f := fun d => d.wr a p (4 * i) v) rfl (wr_readOnly ha hr ⟨h1, h2, h3⟩)
  · have hwr : ∀ {g}, s.dev.wr a p (4 * i) v = g → Runs (.registerWrite a p i v) s g := fun hg =>
      runs_of_run (f := fun d => d.wr a p (4 * i) v) rfl hg
    have hrd : ∀ {g}, s.dev.rd a p (4 * i) = g → Runs (.registerRead a p i) s g := fun hg =>
      runs_of_run (f := fun d => d.rd a p (4 * i)) rfl hg
    replace hmay : may = s.dev.mayAccess a p (4 * i) := hmay
    subst hmay
    refine ⟨fun h => ⟨hwr (wr_none h), hrd (rd_none h)⟩, fun h => ⟨fun hr => hwr ((wr_stopped h).1 hr), fun hr => hwr ((wr_stopped h).2 hr),
      fun hr => hrd ((rd_stopped h).1 hr), fun hr => hrd ((rd_stopped h).2 hr), fun k hnh hpath hunit hgate => ⟨hwr ?_, hrd ?_⟩⟩⟩
    · rw [(wr_stopped h).1 (regReach_asleep hnh hpath hunit hgate), holds_demandWake]
    · rw [(rd_stopped h).1 (regReach_asleep hnh hpath hunit hgate), holds_demandWake]

end Sys2Proof.Machine
end

section
/-!
PROOFS about fault handling and the resets (R466, R480, R487-R489, R496-R499, R502).
-/

namespace Sys2Proof.Machine

/-! ### The fault log -/

/-- A write of FAULT_CONS, within the log or beyond its producer. -/
theorem writeFLT_cons (e : Dev) (a : Nat) (v : Word) : e.writeFLT a 0x04C v =
    if (v - e.reg pgFLT 0x04C).toNat ≤ (e.faults.logProd - e.reg pgFLT 0x04C).toNat then some (e.setReg pgFLT 0x04C v) else none := by
  have hwhole : e.plain a pgFLT 0x04C v = e.setReg pgFLT 0x04C v := plain_whole (by decide)
  have hcons : e.writeFLT a 0x04C v = if decide ((v - e.reg pgFLT 0x04C).toNat ≤ (e.faults.logProd - e.reg pgFLT 0x04C).toNat) = true
      then some (e.plain a pgFLT 0x04C v) else none := rfl
  rw [hcons, hwhole]
  exact ite_iff_congr decide_eq_true_iff rfl rfl

/-! ### The recovery of a wheel -/

theorem wheelFault_writable (w : Fin 8) : blockWritable (pgWARB + w) 0x400 = true := by
  revert w
  decide +kernel

/-- A recovery that starts takes the wheel's domains to OFF. -/
def Dev.wheelOff (d : Dev) (w : Nat) : Dev :=
  (wheelDoms w).foldl (fun d k =>
    let d := (d.chargeToOff k).breakLocks fun x => agentDom x = some k
    d.setDom k { d.dom k with state := .off, trans := .none, cycling := true, eligible := false, wakeAt := none })
    (d.setWfault w { d.wfault w with recovering := true })

section
variable {d : Dev} {w : Nat} {x : WheelFault}

theorem recoverStart_cases :
    ((d.wfault w).fenced = true → (d.wfault w).recovering = false → d.faults.halted = false → d.recoverStart w = d.wheelOff w) ∧
    ((d.wfault w).fenced = false ∨ (d.wfault w).recovering = true ∨ d.faults.halted = true → d.recoverStart w = d) := by
  unfold Dev.recoverStart
  exact ⟨fun hf hr hh => if_neg (by simp [hf, hr, hh]), fun h => if_pos (h.imp_left fun h => by rw [h]; rfl)⟩

/-- The steep time, for a wheel that waits for it and for one that does not. -/
theorem steepExpiry_cases {early : Prop} (hx : x = d.wfault w)
    (hearly : early ↔ (toDl32 d.now - x.steepStart).toNat < (d.reg (pgWARB + w) 0x404).toNat) :
    (x.fenced = false ∨ x.recovering = true ∨ x.held = true ∨ d.faults.halted = true ∨ early → d.steepExpiry w = d) ∧
    (x.fenced = true → x.recovering = false → x.held = false → d.faults.halted = false → ¬early →
      ((d.reg pgFLT (0x0A0 + 4 * w)).toNat < d.rf (pgWARB + w) 0x400 0 8 → d.steepExpiry w = d.wheelOff w) ∧
      (d.rf (pgWARB + w) 0x400 0 8 ≤ (d.reg pgFLT (0x0A0 + 4 * w)).toNat →
        d.steepExpiry w = (d.setWfault w { x with held := true }).notice 7)) := by
  subst hx
  unfold Dev.steepExpiry
  rw [hearly]
  refine ⟨fun h => if_pos (h.imp_left fun h => by rw [h]; rfl), fun hf hr hheld hh hlate => ?_⟩
  have hgo : ¬ ((!(d.wfault w).fenced) = true ∨ (d.wfault w).recovering = true ∨ (d.wfault w).held = true ∨ d.faults.halted = true ∨
      (toDl32 d.now - (d.wfault w).steepStart).toNat < (d.reg (pgWARB + w) 0x404).toNat) := by
    simp only [hf, hr, hheld, hh, hlate, Bool.not_true, Bool.false_eq_true, or_self, not_false_eq_true]
  exact ⟨fun hlt => (if_neg hgo).trans ((if_pos hlt).trans (recoverStart_cases.1 hf hr hh)), fun hle => (if_neg hgo).trans (if_neg (by omega))⟩

/-- The end of a recovery: the wheel is reset, its fences lifted, the recovery counted, logged and noticed, and its cores boot. -/
theorem recoverDone_cases {f g : Dev} {l : LogEntry} :
    ((d.wfault w).recovering = false ∨ d.faults.halted = true → d.recoverDone w = d) ∧
    ((d.wfault w).recovering = true → d.faults.halted = false →
      f = ((d.recoverReset w).recoverLift w).bump pgFLT (0x0A0 + 4 * w) 1 0x060 (1 + w) →
      l = { info := f.reg pgFLT (0x0A0 + 4 * w), source := BitVec.ofNat 16 w, page := BitVec.ofNat 8 (pgWARB + w), cls := 0x30 } →
      g = (f.logEntry l).2.notice 6 →
      d.recoverDone w = (rangeFrom (8 * w) 8).foldl (fun d k => if d.rb (corPage k) (corOff k 0) 31 then d else d.coreRelease k) g) := by
  unfold Dev.recoverDone
  refine ⟨fun h => if_pos (h.imp_left fun h => by rw [h]; rfl), fun hr hh hf hl hg => ?_⟩
  subst hf hl hg
  exact if_neg (by simp [hr, hh])

end

/-- Settles O48: the log's consumer and a wheel's recovery, by what stands in their way, and the faults and tamper events. -/
theorem faultCommandsComplete : Obligations.FaultCommandsComplete := by
  unfold Obligations.FaultCommandsComplete
  intro s a e
  refine ⟨fun v ha hu => ⟨fun h => ?_, fun h => ?_⟩, fun w v f ha hu hv hbit hf => ?_, fun w c d x early hd hx hearly => ?_,
    fun w => ⟨fun h => ?_, fun f g l hr hh hf hl hg => ?_⟩, fun rail => ?_, fun b f hf => ?_⟩
  · exact runs_of_run (f := fun d => d.wr a pgFLT 0x04C v) rfl
      (wr_block ha hu (by decide) ((writeFLT_cons e a v).trans (if_pos h))).symm
  · exact runs_of_run (f := fun d => d.wr a pgFLT 0x04C v) rfl
      (wr_block_discarded ha hu (by decide) ((writeFLT_cons e a v).trans (if_neg (by omega))))
  · have hwrite : e.writeWARB a w 0x400 v = some (f.recoverStart w) := by
      subst hf
      show some (if bitAt v 31 = true then _ else _) = _
      rw [if_pos hbit]
    have hrun : ∀ {g}, f.recoverStart w = g → Runs (.wheelRecover a w) s g := by
      intro g hg
      refine runs_of_run (f := fun d => d.wheelRecover a w) rfl ?_
      subst hv
      exact (wr_block ha hu (wheelFault_writable w) ((writeBlock_warb ..).trans hwrite)).symm.trans hg
    exact ⟨fun h1 h2 h3 => hrun (recoverStart_cases.1 h1 h2 h3), fun h => hrun (recoverStart_cases.2 h)⟩
  · subst hd
    obtain ⟨hstays, hpassed⟩ := steepExpiry_cases hx hearly
    have hrun : ∀ {g}, (s.dev.atCounts c).steepExpiry w = g → Runs (.wheelSteepExpiry c w) s g := fun hg =>
      runs_of_run (f := fun d => (d.atCounts c).steepExpiry w) rfl hg
    refine ⟨fun h => hrun (hstays h), fun hf hr hheld hh hlate => ?_⟩
    obtain ⟨hrecover, hlimit⟩ := hpassed hf hr hheld hh hlate
    exact ⟨fun h => hrun (hrecover h), fun h => hrun (hlimit h)⟩
  · exact runs_of_run (f := fun d => d.recoverDone w) rfl ((recoverDone_cases (f := s.dev) (g := s.dev) (l := {})).1 h)
  · exact runs_of_run (f := fun d => d.recoverDone w) rfl (recoverDone_cases.2 hr hh hf hl hg)
  · exact runs_of_run (f := fun d => d.railFault (rail + 1)) rfl rfl
  · subst hf
    exact runs_of_run (f := fun d => d.tamper b) rfl rfl

/-! ### The resets -/

/-- The board's TEST_EN has been sampled: raised, it is tamper source 4 (R502). -/
def Dev.testSampled (d : Dev) (b : ColdBoard) : Dev := if b.testEn = true then d.tamper 4 else d

theorem coldReset_badRow {d : Dev} {b : ColdBoard} {r : BitVec 8} (h : b.badRow = some r) :
    d.coldReset b = ((d.powerOn b.bypass).testSampled b).fuseFault r.toNat := by
  unfold Dev.coldReset
  rw [h]
  rfl

/-- A cold reset whose fuses read well, by the repairs that the fuses name. -/
theorem coldReset_cases {d f : Dev} {b : ColdBoard} (h : b.badRow = none) (hf : f = (d.powerOn b.bypass).loadFuses.testSampled b) :
    (∀ r, r < 192 → f.repairBad r = true → d.coldReset b = f.free.2.fuseFault (f.free.1.truncate 8 : BitVec 8).toNat) ∧
    ((∀ r, r < 192 → f.repairBad r = false) →
      d.coldReset b = ((if f.lifeCycle = lcRETURN then f.wipe else f).loadPmic b.pmicAck).bootFrom b.flashA b.flashB) := by
  subst hf
  unfold Dev.coldReset
  dsimp only
  rw [h]
  refine ⟨fun r hr hbad => if_pos (List.any_eq_true.mpr ⟨r, List.mem_range.mpr hr, hbad⟩), fun hgood => if_neg fun hany => ?_⟩
  obtain ⟨r, hr, hbad⟩ := List.any_eq_true.mp hany
  exact Bool.eq_false_iff.mp (hgood r (List.mem_range.mp hr)) hbad

/-- Settles O49: COLD_RESET by what the fuses hold, and the resets that come over the upstream port. -/
theorem resetCommandsComplete : Obligations.ResetCommandsComplete := by
  unfold Obligations.ResetCommandsComplete
  intro s
  refine ⟨fun b => ⟨⟨rfl, rfl, rfl, rfl, rfl, rfl, rfl, rfl, rfl⟩, fun r h => ?_, fun h => ⟨fun r hr hbad => ?_, fun hgood => ?_⟩⟩,
    ⟨s.dev.upstreamPerst, runs_of_run (f := Dev.upstreamPerst) rfl rfl, rfl, rfl, rfl, rfl, rfl, rfl,
      runs_of_run (f := Dev.linkLoss) rfl rfl⟩,
    runs_of_run (f := Dev.perstRelease) rfl rfl, fun f hf => ?_⟩
  · exact runs_of_run (f := fun d => d.coldReset b) rfl (coldReset_badRow h)
  · exact runs_of_run (f := fun d => d.coldReset b) rfl ((coldReset_cases h rfl).1 r hr hbad)
  · exact runs_of_run (f := fun d => d.coldReset b) rfl ((coldReset_cases h rfl).2 hgood)
  · subst hf
    exact runs_of_run (f := Dev.flr) rfl rfl

end Sys2Proof.Machine
end

section
/-!
PROOFS about start-up, the life-cycle and the kettle's devices (R490-R495, R500, R503-R505, R507).
-/

namespace Sys2Proof.Machine

theorem kettle_writable : ∀ o ∈ [0x044, 0x048, 0x070], blockWritable pgKTL o = true := by
  decide +kernel

theorem timer_writable (k : Fin 8) : blockWritable pgKTL (0x104 + 16 * k) = true ∧ blockWritable pgKTL (0x108 + 16 * k) = true := by
  revert k
  decide +kernel

theorem keyOff_writable (i : Fin 40) : blockWritable pgFUS (keyOff i) = true := by
  revert i
  decide +kernel

theorem keyOff_range (i : Fin 40) : 0x080 ≤ keyOff i ∧ keyOff i < 0x120 := by
  revert i
  decide +kernel

/-- A command that is a write of a block register, by what the block's rules make of it. -/
theorem runs_wr_block {q : Instr} {s : State} {e : Dev} {a p o : Nat} {v : Word} (hq : exec q s = s.run fun d => d.wr a p o v)
    (ha : s.dev.arrives a p o true = some e) (hu : e.unlocked p a) (hb : blockWritable p o = true) :
    (∀ f, e.writeBlock a (e.tagOf a) p o v = some f → Runs q s f) ∧ (e.writeBlock a (e.tagOf a) p o v = none → Runs q s (e.badWrite p a o)) :=
  ⟨fun _ hw => runs_of_run hq (wr_block ha hu hb hw).symm, fun hw => runs_of_run hq (wr_block_discarded ha hu hb hw)⟩

section
variable {e : Dev} {a : Nat} {v : Word}

/-! ### Start-up -/

/-- A write of HOST_BOOT: a good length opens the check of the staged image. -/
theorem writeKTL_hostBoot (t : Nat) {good : Prop} [Decidable good] (hg : good ↔ 0x300 ≤ v.toNat ∧ v.toNat ≤ 0x400000 ∧ v.toNat % 32 = 0 ∧
    e.boot.hostPath = true ∧ e.boot.loaded = none) : e.writeKTL a t 0x048 v = if good then some e.hostBoot else none := by
  have hboot : e.writeKTL a t 0x048 v = if (!within 0x300 0x400000 v.toNat) = true ∨ v.toNat % 32 ≠ 0 ∨ (!e.boot.hostPath) = true ∨
      e.boot.loaded.isSome = true then none else some e.hostBoot := rfl
  rw [hboot]
  by_cases h : good
  · rw [if_pos h]
    obtain ⟨hlo, hhi, h32, hpath, hload⟩ := hg.mp h
    exact if_neg (by simp [within, hlo, hhi, h32, hpath, hload])
  · rw [if_neg h]
    refine if_pos (Classical.byContradiction fun hx => h (hg.mpr ?_))
    simpa [within, and_assoc] using hx

/-- The check of the staged image: one that passes is copied, one that fails leaves its number. -/
theorem hostBoot_cases {h b : List Byte} {err : Nat} (hh : h = e.peek stagingBase 0x260) (hb : b = e.peek stagingBase (imgLen h))
    (he : err = if imgHeaderErr h ≠ 0 then imgHeaderErr h else e.imgErr b) :
    (err = 0 → e.hostBoot = { e.copySegs b with boot := { e.boot with loaded := some (3, imgSvn b, imgEntry b), hostPath := false } }) ∧
    (err ≠ 0 → e.hostBoot = e.setRf pgKTL 0x040 16 8 err) := by
  subst hh hb he
  unfold Dev.hostBoot Dev.tryImage
  dsimp only
  by_cases hx : imgHeaderErr (e.peek stagingBase 0x260) ≠ 0
  · rw [if_pos hx, if_pos hx]
    exact ⟨fun h => absurd h hx, fun _ => rfl⟩
  · rw [if_neg hx, if_neg hx]
    exact ⟨fun h => by rw [if_pos h], fun h => by rw [if_neg h]; rfl⟩

theorem romExit_none {d : Dev} (h : d.boot.loaded = none) : d.romExit = d := by
  unfold Dev.romExit
  rw [h]

/-- ROM_EXIT of an image that is loaded: the kettle core runs at ENTRY. -/
theorem romExit_loaded {d f g h : Dev} {src svn entry : Nat} (hl : d.boot.loaded = some (src, svn, entry))
    (hf : f = (if d.lifeCycle = lcFIELD ∨ d.lifeCycle = lcRETURN then (d.setReg pgFUS 0x03C 1).setReg pgLCS 0x03C 1 else d))
    (hg : g = f.setReg pgKTL 0x040 (w32 (2 ^ 30 + fput 28 2 src + fput 16 8 (f.rf pgKTL 0x040 16 8) + fput 8 8 svn)))
    (hh : h = { g with boot := { g.boot with loaded := none, hostPath := false } }) :
    d.romExit = h.setCore 64 { state := .running, pc := BitVec.ofNat 16 entry,
                               completeCnt := (g.core 64).completeCnt, kThresh := (g.core 64).kThresh } := by
  have hlock : (if (decide (d.lifeCycle = lcFIELD) || decide (d.lifeCycle = lcRETURN)) = true then
      (d.setReg pgFUS 0x03C 1).setReg pgLCS 0x03C 1 else d) = f := by
    rw [hf]
    exact ite_iff_congr (by rw [Bool.or_eq_true, decide_eq_true_iff, decide_eq_true_iff]) rfl rfl
  have hok : fput 30 1 1 = 2 ^ 30 := by decide
  unfold Dev.romExit
  rw [hl]
  dsimp only
  rw [hlock, hok, ← hg, ← hh]
  subst hh
  rfl

/-! ### Life-cycle and fuses -/

theorem advance_cases {t : Nat} (ht : t = e.lifeCycle + 1) {good : Prop} [Decidable good]
    (hg : good ↔ a = agKettle ∧ fld v 16 16 = 0x4C43 ∧ fld v 0 4 = t ∧ t ≤ 3 ∧ e.rf pgLCS 0x040 4 4 = e.lifeCycle) :
    e.writeLCS a 0x044 v = if good then
      some (((e.blow 0x044 (withFld (e.blownWord 0x044) 4 4 t)).setRf pgLCS 0x040 4 4 t).wipe) else none := by
  have hwrite : e.writeLCS a 0x044 v = if a = agKettle then e.advance v else none := rfl
  rw [hwrite]
  unfold Dev.advance
  by_cases h : good
  · rw [if_pos h]
    obtain ⟨hk, hkey, htgt, h3, hst⟩ := hg.mp h
    rw [if_pos hk]
    dsimp only
    rw [htgt]
    exact if_neg (by rw [hkey, hst]; omega)
  · rw [if_neg h]
    by_cases hk : a = agKettle
    · rw [if_pos hk]
      refine if_pos (Classical.byContradiction fun hx => h (hg.mpr ⟨hk, ?_⟩))
      simp only [not_or, Classical.not_not] at hx
      obtain ⟨hkey, htgt, h3, hst⟩ := hx
      exact ⟨hkey, htgt.trans ht.symm, by omega, hst⟩
    · exact if_neg hk

theorem svn_cases {n : Nat} (hn : n = e.rf pgLCS 0x048 0 6) {good : Prop} [Decidable good] (hg : good ↔ a = agKettle ∧ n ≠ 63) :
    e.writeLCS a 0x048 0x80000000 = if good then
      some ((e.blow 0x044 (withFld (e.blownWord 0x044) 8 6 (n + 1))).setRf pgLCS 0x048 0 6 (n + 1)) else none := by
  subst hn
  have hwrite : e.writeLCS a 0x048 0x80000000 = if a = agKettle then e.svnAdvance else none := rfl
  rw [hwrite]
  unfold Dev.svnAdvance
  by_cases h : good
  · rw [if_pos h, if_pos (hg.mp h).1]
    exact if_neg (hg.mp h).2
  · rw [if_neg h]
    by_cases hk : a = agKettle
    · rw [if_pos hk]
      exact if_pos (Classical.byContradiction fun hx => h (hg.mpr ⟨hk, hx⟩))
    · exact if_neg hk

theorem keyWrite_cases {o : Nat} {f : Dev} (ho : 0x080 ≤ o ∧ o < 0x120) (hf : f = e.blow o (e.blownWord o ||| v)) {good : Prop} [Decidable good]
    (hg : good ↔ a = agKettle ∧ e.lifeCycle = lcPROVISION ∧ e.boot.written.contains o = false) :
    e.writeFUS a o v = if good then some { f with boot := { f.boot with written := o :: f.boot.written } } else none := by
  subst hf
  unfold Dev.writeFUS Dev.keyWrite
  rw [if_pos ho]
  by_cases h : good
  · rw [if_pos h]
    obtain ⟨hk, hlc, hw⟩ := hg.mp h
    rw [if_pos hk, if_neg (by rw [hlc, hw]; simp)]
  · rw [if_neg h]
    by_cases hk : a = agKettle
    · rw [if_pos hk]
      refine if_pos (Classical.byContradiction fun hx => h (hg.mpr ⟨hk, ?_⟩))
      simpa using hx
    · exact if_neg hk

/-! ### The boot flash port and the kettle timers -/

/-- A write of QSPI_XFER by the kettle core, and by another agent. -/
theorem writeKTL_qspi (t : Nat) {len buf : Nat} {cmd : Word} {f : Dev} {good : Prop} (hlen : len = fld v 0 13) (hbuf : buf = e.rf pgKTL 0x06C 0 15)
    (hcmd : cmd = e.reg pgKTL 0x064)
    (hg : good ↔ e.boot.qspi = none ∧ len ≤ 4096 ∧ fld cmd 21 3 ≤ 4 ∧ fld cmd 14 2 ≠ 3 ∧ buf + len ≤ 0x8000)
    (hf : f = e.setReg pgKTL 0x070 (w32 (0x80000000 + len))) :
    (a = agKettle → bitAt v 31 = true → good → e.writeKTL a t 0x070 v =
      some { f with boot := { f.boot with qspi := some (buf, len, bitAt cmd 13) } }) ∧
    (a = agKettle → bitAt v 31 = false → e.writeKTL a t 0x070 v = some (if e.boot.qspi.isSome then e else e.setReg pgKTL 0x070 (w32 len))) ∧
    (¬(a = agKettle ∧ (bitAt v 31 = true → good)) → e.writeKTL a t 0x070 v = none) := by
  subst hlen hbuf hcmd hf
  have hwrite : e.writeKTL a t 0x070 v = if a ≠ agKettle then none else e.qspiWrite v := rfl
  have hstart : bitAt v 31 = true → e.qspiWrite v = if e.boot.qspi.isSome = true ∨ 4096 < fld v 0 13 ∨ 4 < fld (e.reg pgKTL 0x064) 21 3 ∨
      fld (e.reg pgKTL 0x064) 14 2 = 3 ∨ 0x8000 < e.rf pgKTL 0x06C 0 15 + fld v 0 13 then none
      else some { e.setReg pgKTL 0x070 (w32 (0x80000000 + fld v 0 13)) with
        boot := { e.boot with qspi := some (e.rf pgKTL 0x06C 0 15, fld v 0 13, bitAt (e.reg pgKTL 0x064) 13) } } := fun h =>
    if_neg (by rw [h]; decide)
  rw [hwrite]
  refine ⟨fun hk h31 hgood => ?_, fun hk h31 => ?_, fun h => ?_⟩
  · rw [if_neg (not_not_intro hk), hstart h31]
    obtain ⟨hidle, hlen, hmode, hwidth, hfits⟩ := hg.mp hgood
    exact if_neg (by rw [hidle]; simp only [Option.isSome_none, Bool.false_eq_true, false_or]; omega)
  · rw [if_neg (not_not_intro hk)]
    exact if_pos (by rw [h31]; rfl)
  · by_cases hk : a = agKettle
    · have h31 : bitAt v 31 = true := by
        cases h31 : bitAt v 31 with
        | true => rfl
        | false => exact absurd ⟨hk, fun hx => by rw [h31] at hx; cases hx⟩ h
      rw [if_neg (not_not_intro hk), hstart h31]
      refine if_pos (Classical.byContradiction fun hx => h ⟨hk, fun _ => hg.mpr ?_⟩)
      simpa using hx
    · exact if_pos hk

/-- A write of KT_HI arms its timer. -/
theorem writeKTL_hi (t : Nat) {k : Nat} (hk : k < 8) :
    e.writeKTL a t (0x104 + 16 * k) v = some ((e.plain a pgKTL (0x104 + 16 * k) v).ktArm k) := by
  have hne : ∀ c, c < 0x100 → 0x104 + 16 * k ≠ c := fun c hc h => by omega
  have hidx : (0x104 + 16 * k - 0x100) / 16 = k := by omega
  unfold Dev.writeKTL
  simp only [hne 0x044 (by decide), hne 0x048 (by decide), if_false, hidx]
  rw [if_neg (by omega), if_pos (by omega), if_pos (by omega)]

/-- A write of CANCEL to a timer's control register. -/
theorem writeKTL_cancel (t : Nat) {k : Nat} (hk : k < 8) : e.writeKTL a t (0x108 + 16 * k) 0x80 =
    some ((e.setReg pgKTL (0x108 + 16 * k) (e.reg pgKTL (0x108 + 16 * k) &&& ~~~(0x80 &&& 6 : Word))).ktCancel k) := by
  have hne : ∀ c, c < 0x100 → 0x108 + 16 * k ≠ c := fun c hc h => by omega
  have hidx : (0x108 + 16 * k - 0x100) / 16 = k := by omega
  unfold Dev.writeKTL
  simp only [hne 0x044 (by decide), hne 0x048 (by decide), if_false, hidx]
  rw [if_neg (by omega), if_pos (by omega), if_neg (by omega), if_pos (by omega)]
  rfl

/-- Arming a timer, by what the wake list answers. -/
theorem ktArm_cases {d f g : Dev} {k : Nat} {t : DT} {r : WlResult × Dev}
    (hf : f = ((d.wlRemove (d.coreTag 64) .ktimer k).setRf pgKTL (0x108 + 16 * k) 0 1 1).setRf pgKTL (0x108 + 16 * k) 1 1 0)
    (ht : t = cat64 (f.reg pgKTL (0x104 + 16 * k)) (f.reg pgKTL (0x100 + 16 * k)))
    (hr : r = f.wlInsert (f.coreTag 64) { target := t, kind := .ktimer, id := k }) (hg : g = r.2.setRf pgKTL (0x108 + 16 * k) 0 1 0) :
    (r.1 = .inserted → d.ktArm k = r.2) ∧
    (r.1 = .reached → d.ktArm k = (g.setRf pgKTL (0x108 + 16 * k) 1 1 1).srcOccur (privSrc 8 0 (20 + k))) ∧
    (r.1 = .refused → d.ktArm k = g.setRf pgKTL (0x108 + 16 * k) 2 1 1) := by
  subst hf ht hg
  unfold Dev.ktArm ktCtl
  dsimp only
  rw [← hr]
  obtain ⟨x, y⟩ := r
  refine ⟨?_, ?_, ?_⟩ <;> rintro rfl <;> rfl

theorem qspiDone_none {d : Dev} (data : List Byte) (h : d.boot.qspi = none) : d.qspiDone data = d := by
  unfold Dev.qspiDone
  rw [h]

theorem qspiDone_some {d f g : Dev} {buf len : Nat} {write : Bool} (data : List Byte) (h : d.boot.qspi = some (buf, len, write))
    (hg : g = d.setRf pgKTL 0x070 31 1 0) (hf : f = { g with boot := { g.boot with qspi := none } }) :
    d.qspiDone data = if write then f else (f.localWrite 64 buf (data.take len)).2 := by
  subst hg hf
  unfold Dev.qspiDone
  rw [h]
  rfl

end

/-- Settles O50: each register write of start-up and life-cycle by the conditions of its register, and the ends of the ROM and of a flash
transfer. -/
theorem bootCommandsComplete : Obligations.BootCommandsComplete := by
  unfold Obligations.BootCommandsComplete
  intro s a e
  refine ⟨fun ha hu => ?_, fun len ha hu => ?_, fun h => runs_of_run (f := Dev.romExit) rfl (romExit_none h),
    fun src svn entry f g h hl hf hg hh => runs_of_run (f := Dev.romExit) rfl (romExit_loaded hl hf hg hh), fun v ha hu => ?_, fun ha hu => ?_,
    fun i v o ho ha hu => ?_, fun v ha hu => ?_, fun k hi ha hu => ?_, fun k f ha hu hf => ?_, fun data => ⟨fun h => ?_, fun buf len write f g h hg hf => ?_⟩⟩
  · exact (runs_wr_block rfl ha hu (kettle_writable 0x044 (by simp))).1 _ rfl
  · obtain ⟨htaken, hbad⟩ := runs_wr_block (q := .hostBoot a len) rfl ha hu (kettle_writable 0x048 (by simp))
    intro h b err good
    have hwrite := writeKTL_hostBoot (e := e) (a := a) (v := len) (e.tagOf a) (good := good) Iff.rfl
    obtain ⟨hcopied, hfailed⟩ := hostBoot_cases (e := e) (h := h) (b := b) (err := err) rfl rfl rfl
    refine ⟨fun hg => hbad (hwrite.trans (if_neg hg)), fun hg h0 => htaken _ (hwrite.trans ((if_pos hg).trans (congrArg some (hcopied h0)))),
      fun hg h0 => htaken _ (hwrite.trans ((if_pos hg).trans (congrArg some (hfailed h0))))⟩
  · obtain ⟨htaken, hbad⟩ := runs_wr_block (q := .lifeCycleAdvance a v) (p := pgLCS) rfl ha hu (by decide)
    intro t good
    have hwrite := advance_cases (e := e) (a := a) (v := v) (t := t) rfl (good := good) Iff.rfl
    exact ⟨fun h => htaken _ (hwrite.trans (if_pos h)), fun h => hbad (hwrite.trans (if_neg h))⟩
  · obtain ⟨htaken, hbad⟩ := runs_wr_block (q := .svnAdvance a) (p := pgLCS) rfl ha hu (by decide)
    intro n
    have hwrite := svn_cases (e := e) (a := a) (n := n) rfl (good := a.val = agKettle ∧ n ≠ 63) Iff.rfl
    exact ⟨fun h => htaken _ (hwrite.trans (if_pos h)), fun h => hbad (hwrite.trans (if_neg h))⟩
  · obtain rfl : o = keyOff i := ho
    obtain ⟨htaken, hbad⟩ := runs_wr_block (q := .keyFuseWrite a i v) rfl ha hu (keyOff_writable i)
    intro good f
    have hwrite := keyWrite_cases (e := e) (a := a) (v := v) (f := f) (keyOff_range i) rfl (good := good) Iff.rfl
    exact ⟨fun h => htaken _ (hwrite.trans (if_pos h)), fun h => hbad (hwrite.trans (if_neg h))⟩
  · obtain ⟨htaken, hbad⟩ := runs_wr_block (q := .qspiTransfer a v) rfl ha hu (kettle_writable 0x070 (by simp))
    intro len buf cmd good f
    obtain ⟨hstart, hlen, hno⟩ := writeKTL_qspi (e := e) (a := a) (v := v) (e.tagOf a) (f := f) (good := good) rfl rfl rfl Iff.rfl rfl
    exact ⟨fun h => htaken _ (hstart h.1 h.2.1 h.2.2), fun h => htaken _ (hlen h.1 h.2), fun h => hbad (hno h)⟩
  · obtain ⟨htaken, -⟩ := runs_wr_block (q := .kettleTimerArm a k hi) rfl ha hu (timer_writable k).1
    intro w f t r g
    obtain ⟨hins, hreached, hfull⟩ := ktArm_cases (d := w) (k := k) (f := f) (r := r) rfl rfl rfl rfl
    refine htaken _ ((writeBlock_ktl ..).trans ((writeKTL_hi (e.tagOf a) k.isLt).trans (congrArg some ?_)))
    show w.ktArm k = _
    cases hr : r.1 with
    | inserted => exact hins hr
    | reached => exact hreached hr
    | refused => exact hfull hr
  · obtain ⟨htaken, -⟩ := runs_wr_block (q := .kettleTimerCancel a k) rfl ha hu (timer_writable k).2
    subst hf
    exact htaken _ ((writeBlock_ktl ..).trans (writeKTL_cancel (e.tagOf a) k.isLt))
  · exact runs_of_run (f := fun d => d.qspiDone data) rfl (qspiDone_none data h)
  · exact runs_of_run (f := fun d => d.qspiDone data) rfl (qspiDone_some data h hg hf)

end Sys2Proof.Machine
end

section
/-!
PROOFS about the debug port: its access port, the unlock exchange and the registers of halted cores (R501, R508, R509).
-/

namespace Sys2Proof.Machine

/-! ### The debug access port -/

section
variable {d : Dev}

/-- An access of the debug port to memory that the hub reaches without a further check of its own. -/
def Dev.plainMemory (d : Dev) (a : Nat) (al : Alias) : Prop :=
  rangeOf a = .sram al ∨ (∃ w, rangeOf a = .xram w al) ∨ (∃ l, rangeOf a = .lram l) ∨ (rangeOf a = .dram ∧ d.dramHas a = true)

/-- Such an access, by what stands on its way to the memory. -/
theorem dapMem_memory {m : Gate × Dev} {c : Dev} {a : Nat} {al : Alias} {write : Bool} (h : d.plainMemory a al) (hm : m = d.reach 0 a)
    (hc : c = m.2.countAccess (agentTag agDebug) 0 write a 4) :
    (m.1 = .asleep → d.dapMem a write = d.woken m.2) ∧ (m.1 = .fenced → d.dapMem a write = m.2.dapEnd dapError d.dap.data) ∧
    (m.1 = .ok → d.dapMem a write =
      if write then
        if (c.memWrite a (leBytes 4 d.dap.data.toNat)).1 then (c.memWrite a (leBytes 4 d.dap.data.toNat)).2.dapEnd dapError d.dap.data
        else (c.memWrite a (leBytes 4 d.dap.data.toNat)).2.dapEnd dapOk d.dap.data
      else if (c.memRead a 4).2.1 then (c.memRead a 4).2.2.dapEnd dapError d.dap.data
        else (c.memRead a 4).2.2.dapEnd dapOk (w32 (leNat (c.memRead a 4).1))) := by
  subst hc
  obtain ⟨g, f⟩ := m
  refine ⟨?_, ?_, ?_⟩ <;> rintro rfl <;> unfold Dev.dapMem <;> rcases h with h | ⟨w, h⟩ | ⟨l, h⟩ | ⟨h, hd⟩ <;> simp only [h, ← hm]
  all_goals exact if_pos hd

/-- What ends a debug access, or refuses it, before it is made. -/
theorem dapComplete_refused (hb : d.dap.status = dapBusy)
    (h : (2 ≤ d.dap.op ∨ d.dap.addr % 4 ≠ 0) ∨
      (¬(pagesBase ≤ d.dap.addr ∧ d.dap.addr < pagesBase + numPages * 4096) ∧ d.dbgAccess ≠ 2)) :
    d.dapComplete = d.dapEnd dapRefused d.dap.data := by
  unfold Dev.dapComplete
  refine (if_neg (not_not_intro hb)).trans ?_
  by_cases hop : 2 ≤ d.dap.op ∨ d.dap.addr % 4 ≠ 0
  · exact if_pos hop
  · obtain ⟨hout, hacc⟩ := h.resolve_left hop
    exact (if_neg hop).trans ((if_neg hout).trans (if_pos hacc))

/-- A well-formed access to a register page. -/
theorem dapComplete_page {p o : Nat} {r : RegAcc} (hb : d.dap.status = dapBusy) (hop : d.dap.op < 2) (hal : d.dap.addr % 4 = 0) (hp : p < numPages)
    (ho : o < 4096) (ha : d.dap.addr = pagesBase + 4096 * p + o)
    (hr : r = if d.dap.op = 1 then d.regWrite agDebug p o d.dap.data else d.regRead agDebug p o) :
    (d.debugMay p o = false → d.dapComplete = d.dapEnd dapRefused d.dap.data) ∧
    (d.debugMay p o = true →
      (∀ w f, r = .ok w f → d.dapComplete = f.dapEnd dapOk (if d.dap.op = 1 then d.dap.data else w)) ∧
      (∀ f, r = .wait f → d.dapComplete = d.woken f) ∧ (∀ f, r = .abort f → d.dapComplete = f.dapEnd dapError d.dap.data) ∧
      (r = .none → d.dapComplete = d.dapEnd dapRefused d.dap.data)) := by
  have hpage : (d.dap.addr - pagesBase) / 4096 = p := by rw [ha]; unfold pagesBase; omega
  have hoff : d.dap.addr % 4096 = o := by rw [ha]; unfold pagesBase; omega
  have hin : pagesBase ≤ d.dap.addr ∧ d.dap.addr < pagesBase + numPages * 4096 := by rw [ha]; unfold pagesBase; omega
  have hgo : ¬ (2 ≤ d.dap.op ∨ d.dap.addr % 4 ≠ 0) := by omega
  have hno : ¬ (d.dap.status ≠ dapBusy) := not_not_intro hb
  unfold Dev.dapComplete
  simp only [hpage, hoff, hno, hgo, hin, if_false, and_self, if_true]
  refine ⟨fun h => if_pos (by rw [h]; rfl), fun h => ?_⟩
  rw [if_neg (by rw [h]; decide), ← hr]
  refine ⟨?_, ?_, ?_, ?_⟩
  · rintro w f rfl; rfl
  · rintro f rfl; rfl
  · rintro f rfl; rfl
  · rintro rfl; rfl

/-- A well-formed access outside the pages, with full access. -/
theorem dapComplete_mem (hb : d.dap.status = dapBusy) (hop : d.dap.op < 2) (hal : d.dap.addr % 4 = 0)
    (hout : ¬(pagesBase ≤ d.dap.addr ∧ d.dap.addr < pagesBase + numPages * 4096)) (hacc : d.dbgAccess = 2) :
    d.dapComplete = d.dapMem d.dap.addr (d.dap.op = 1) := by
  unfold Dev.dapComplete
  exact (if_neg (not_not_intro hb)).trans ((if_neg (by omega)).trans ((if_neg hout).trans (if_neg (not_not_intro hacc))))

theorem dapMem_unmapped {a : Nat} {write : Bool} (h : rangeOf a = .unmapped) : d.dapMem a write = d.dapEnd dapError d.dap.data := by
  unfold Dev.dapMem
  rw [h]

end

/-! ### The unlock exchange -/

theorem debug_writable : blockWritable pgDBG 0x040 = true ∧ blockWritable pgDBG 0x604 = true := by
  decide +kernel

theorem coreCtl_writable (k : Fin 65) : blockWritable pgDBG (0x110 + 16 * k) = true := by
  revert k
  decide +kernel

/-- UNLOCK_CHECK_RESULT of a response that is checked. -/
theorem unlockResult_cases {d f : Dev} {n : Nat} :
    (d.rf pgDBG 0x044 0 2 ≠ 2 → d.unlockResult = d) ∧
    (d.rf pgDBG 0x044 0 2 = 2 → d.responseOk = true → ∀ g : Dev, g = d.setReg pgDBG 0x044 0 →
      d.unlockResult = { g with boot := { g.boot with unlocked := true } }) ∧
    (d.rf pgDBG 0x044 0 2 = 2 → d.responseOk = false → n = d.rf pgLCS 0x050 0 2 + 1 →
      f = (d.setReg pgDBG 0x044 4).setRf pgLCS 0x050 0 2 (min n 3) → d.unlockResult = if n = 3 then f.tamper 3 else f) := by
  unfold Dev.unlockResult Dev.unlockState
  refine ⟨fun h => if_pos h, fun h hok g hg => ?_, fun h hno hn hf => ?_⟩
  · subst hg
    exact (if_neg (not_not_intro h)).trans (if_pos hok)
  · subst hn hf
    exact (if_neg (not_not_intro h)).trans (if_neg (by rw [hno]; decide))

/-! ### A core's control register -/

section
variable {e : Dev} {a k : Nat}

/-- A write of CORE_CTL of a core, by whether the debug port reaches it. -/
theorem writeDBG_coreCtl (v : Word) (hk : k < 65) : e.writeDBG a (0x110 + 16 * k) v =
    if e.debugReaches k then some ((e.plain a pgDBG (0x110 + 16 * k) v).debugRun k v) else none := by
  have hidx : (0x110 + 16 * k - 0x110) / 16 = k := by omega
  unfold Dev.writeDBG
  rw [if_neg (by omega), if_pos (by omega)]
  dsimp only
  rw [hidx, if_pos (show (0x110 + 16 * k) % 16 = 0 by omega)]
  cases e.debugReaches k <;> rfl

/-- RESUME or STEP of a core takes it on where the debug port has halted it. -/
def Dev.debugGoes (f : Dev) (k : Nat) (one : Bool) : Dev :=
  if (f.core k).state = .debugHalt then f.setCore k { f.core k with state := (f.core k).haltedIn, skipBp := true, stepping := one } else f

theorem debugRun_cases (f : Dev) (v : Word) :
    (bitAt v 29 = true → f.debugRun k v = f.debugGoes k true) ∧
    (bitAt v 29 = false → bitAt v 30 = true → bitAt v 31 = false → f.debugRun k v = f.debugGoes k false) ∧
    (bitAt v 29 = false → bitAt v 31 = true → f.debugRun k v = f) := by
  unfold Dev.debugRun Dev.debugGoes
  dsimp only
  by_cases hs : (f.core k).state = .debugHalt
  · rw [if_neg (not_not_intro hs), if_pos hs, if_pos hs]
    exact ⟨fun h => if_pos h, fun h h30 h31 => (if_neg (by rw [h]; decide)).trans (if_pos ⟨h30, by rw [h31]; rfl⟩),
      fun h h31 => (if_neg (by rw [h]; decide)).trans (if_neg fun hx => by rw [h31] at hx; exact absurd hx.2 (by decide))⟩
  · rw [if_pos hs, if_neg hs, if_neg hs]
    exact ⟨fun _ => rfl, fun _ _ _ => rfl, fun _ _ => rfl⟩

/-- The bits of the three words that the commands write. -/
theorem coreCtl_bits (x : Word) :
    (bitAt ((x &&& 0x10000000) ||| 0x80000000) 29 = false ∧ bitAt ((x &&& 0x10000000) ||| 0x80000000) 31 = true) ∧
    (bitAt ((x &&& 0x10000000) ||| 0x40000000) 29 = false ∧ bitAt ((x &&& 0x10000000) ||| 0x40000000) 30 = true ∧
      bitAt ((x &&& 0x10000000) ||| 0x40000000) 31 = false) ∧
    bitAt ((x &&& 0x90000000) ||| 0x20000000) 29 = true := by
  unfold bitAt
  simp

/-- What names a register of a halted core that the debug port reaches. -/
def Dev.debugMayReg (e : Dev) (sel : Word) : Prop :=
  fld sel 8 8 ≠ 0 ∧ fld sel 8 8 ≤ 65 ∧ e.debugReaches (fld sel 8 8 - 1) = true ∧ (e.core (fld sel 8 8 - 1)).state = .debugHalt

/-- A write of REG_DATA. -/
theorem debugRegWrite_cases {sel : Word} {n : Nat} (v : Byte) (hs : sel = e.reg pgDBG 0x600) (hk : k = fld sel 8 8 - 1) (hn : n = fld sel 0 6) :
    (¬e.debugMayReg sel → e.debugRegWrite v = none) ∧
    (e.debugMayReg sel → bitAt sel 7 = true → e.debugRegWrite v = e.csrWrite k n v) ∧
    (e.debugMayReg sel → bitAt sel 7 = false → e.debugRegWrite v = if n < 32 then some (e.setCore k ((e.core k).setG n v)) else none) := by
  subst hk hn
  have hmay : e.debugMayReg sel ↔ ¬ (fld sel 8 8 = 0 ∨ 65 < fld sel 8 8 ∨ (!e.debugReaches (fld sel 8 8 - 1)) = true ∨
      (e.core (fld sel 8 8 - 1)).state ≠ .debugHalt) := by
    unfold Dev.debugMayReg
    simp only [not_or, Nat.not_lt, Bool.not_eq_true', Bool.not_eq_false, Classical.not_not, ne_eq]
  subst hs
  unfold Dev.debugRegWrite
  refine ⟨fun h => if_pos (Classical.byContradiction fun hx => h (hmay.mpr hx)), fun h h7 => (if_neg (hmay.mp h)).trans (if_pos h7), fun h h7 => ?_⟩
  exact (if_neg (hmay.mp h)).trans (if_neg (by rw [h7]; decide))

/-- A read of REG_DATA. -/
theorem dbgRegRead_cases {sel : Word} {n : Nat} (hs : sel = e.reg pgDBG 0x600) (hk : k = fld sel 8 8 - 1) (hn : n = fld sel 0 6) :
    (¬e.debugMayReg sel → e.dbgRegRead = 0) ∧
    (e.debugMayReg sel → bitAt sel 7 = true → e.dbgRegRead = w32 ((e.csrRead k n).getD 0).toNat) ∧
    (e.debugMayReg sel → bitAt sel 7 = false → e.dbgRegRead = if n < 32 then w32 ((e.core k).reg n).toNat else 0) := by
  subst hk hn
  have hmay : e.debugMayReg sel ↔ ¬ (fld sel 8 8 = 0 ∨ 65 < fld sel 8 8 ∨ (e.core (fld sel 8 8 - 1)).state ≠ .debugHalt ∨
      (fld sel 8 8 - 1 = 64 ∧ e.dbgAccess ≠ 2)) := by
    unfold Dev.debugMayReg Dev.debugReaches
    rw [Bool.or_eq_true, decide_eq_true_iff, decide_eq_true_iff]
    constructor
    · rintro ⟨h0, h65, hreach, hhalt⟩ (h | h | h | ⟨h, hacc⟩)
      · exact h0 h
      · omega
      · exact h hhalt
      · exact hacc (hreach.resolve_left (by omega))
    · intro h
      simp only [not_or, not_and, Classical.not_not, Nat.not_lt, ne_eq] at h
      obtain ⟨h0, h65, hhalt, hk⟩ := h
      refine ⟨h0, h65, ?_, hhalt⟩
      by_cases h64 : fld sel 8 8 - 1 = 64
      · exact .inr (hk h64)
      · exact .inl (by omega)
  have hword : ∀ b : Byte, b.zeroExtend 32 = w32 b.toNat := fun b => by unfold w32; bv_omega
  subst hs
  unfold Dev.dbgRegRead Core.reg
  simp only [hword]
  refine ⟨fun h => if_pos (Classical.byContradiction fun hx => h (hmay.mpr hx)), fun h h7 => (if_neg (hmay.mp h)).trans (if_pos h7), fun h h7 => ?_⟩
  exact (if_neg (hmay.mp h)).trans (if_neg (by rw [h7]; decide))

end

/-- Settles O51: an access of the debug port by the range it names, and each register write of the debug page by the conditions of its
register. -/
theorem debugCommandsComplete : Obligations.DebugCommandsComplete := by
  unfold Obligations.DebugCommandsComplete
  intro s a e
  have hdap : ∀ {f}, s.dev.dapComplete = f → Runs .dapAccessComplete s f := fun hf => runs_of_run (f := Dev.dapComplete) rfl hf
  refine ⟨fun op addr data => runs_of_run (f := fun d => d.dapStart op addr.toNat data) rfl ?_, fun x hx => ?_, fun ha hu => ⟨?_, ?_⟩, fun h => ?_,
    fun n f h => ⟨fun hok g hg => ?_, fun hno hn hf => ?_⟩, fun k o ho ha hu => ?_, fun sel hsel => ?_⟩
  · have hdata : (if op = 1 then data else s.dev.dap.data) = if op.val = 1 then data else s.dev.dap.data := ite_iff_congr Fin.ext_iff rfl rfl
    rw [hdata]
    rfl
  · subst hx
    intro ends inPages
    refine ⟨fun h => hdap (if_pos h), fun hb h => hdap (dapComplete_refused hb (.inl h)),
      fun hb hop hal => ⟨fun p o hp ho hadr => ?_, fun hout hacc => hdap (dapComplete_refused hb (.inr ⟨hout, hacc⟩)), fun hout hacc => ?_⟩⟩
    · obtain ⟨hno, hmay⟩ := dapComplete_page hb hop hal hp ho hadr rfl
      refine ⟨fun h => hdap (hno h), fun h => ?_⟩
      intro r
      obtain ⟨hok, hwait, habort, hnone⟩ := hmay h
      refine hdap ?_
      cases hr : r with
      | ok w f => exact hok w f hr
      | wait f => exact hwait f hr
      | abort f => exact habort f hr
      | none => exact hnone hr
    · have hmem := dapComplete_mem hb hop hal hout hacc
      refine ⟨fun h => hdap (hmem.trans (dapMem_unmapped h)), fun al h => ?_⟩
      obtain ⟨hasleep, hfenced, hok⟩ := dapMem_memory (d := s.dev) (write := decide (s.dev.dap.op = 1)) h rfl rfl
      refine ⟨fun hm => hdap (hmem.trans (hasleep hm)), fun hm => hdap (hmem.trans (hfenced hm)),
        fun hm h1 => hdap (hmem.trans ((hok hm).trans (if_pos (decide_eq_true h1)))),
        fun hm h0 => hdap (hmem.trans ((hok hm).trans (if_neg ?_)))⟩
      rw [h0]
      decide
  · obtain ⟨htaken, hbad⟩ := runs_wr_block (q := .unlockChallenge a) rfl ha hu debug_writable.1
    by_cases h : e.rf pgLCS 0x050 0 2 = 3 ∨ e.rf pgDBG 0x044 0 2 = 2
    · rw [if_pos h]
      exact hbad (if_pos h)
    · rw [if_neg h]
      exact htaken _ (if_neg h)
  · obtain ⟨htaken, hbad⟩ := runs_wr_block (q := .unlockCheck a) rfl ha hu debug_writable.1
    by_cases h : e.rf pgDBG 0x044 0 2 = 1
    · rw [if_pos h]
      exact htaken _ (if_pos h)
    · rw [if_neg h]
      exact hbad (if_neg h)
  · exact runs_of_run (f := Dev.unlockResult) rfl ((unlockResult_cases (n := 0) (f := s.dev)).1 h)
  · exact runs_of_run (f := Dev.unlockResult) rfl ((unlockResult_cases (n := 0) (f := s.dev)).2.1 h hok g hg)
  · exact runs_of_run (f := Dev.unlockResult) rfl (unlockResult_cases.2.2 h hno hn hf)
  · have hoff : coreCtlOff k = o := by rw [ho]; unfold coreCtlOff; omega
    have hwr : ∀ {q : Instr} {v : Word}, (exec q s = s.run fun d => d.wr a pgDBG o v) →
        (e.debugReaches k = false → Runs q s (e.badWrite pgDBG a o)) ∧
        (e.debugReaches k = true → Runs q s ((e.plain a pgDBG o v).debugRun k v)) := by
      intro q v hq
      subst ho
      obtain ⟨htaken, hbad⟩ := runs_wr_block hq ha hu (coreCtl_writable k)
      exact ⟨fun h => hbad ((writeDBG_coreCtl v k.isLt).trans (if_neg (by rw [h]; decide))),
        fun h => htaken _ ((writeDBG_coreCtl v k.isLt).trans (if_pos h))⟩
    have hctl : ∀ {q : Instr} {keep bits : Word}, (exec q s = s.run fun d => d.coreCtl a k keep bits) →
        (e.debugReaches k = false → Runs q s (e.badWrite pgDBG a o)) ∧
        (e.debugReaches k = true → Runs q s ((e.plain a pgDBG o ((s.dev.reg pgDBG o &&& keep) ||| bits)).debugRun k
          ((s.dev.reg pgDBG o &&& keep) ||| bits))) := by
      intro q keep bits hq
      refine hwr (hq.trans ?_)
      unfold State.run Dev.coreCtl
      rw [hoff]
    obtain ⟨⟨h29, h31⟩, ⟨r29, r30, r31⟩, s29⟩ := coreCtl_bits (s.dev.reg pgDBG o)
    refine ⟨fun h q hq => ?_, fun h => ?_⟩
    · rcases hq with rfl | rfl | rfl
      · exact (hctl rfl).1 h
      · exact (hctl rfl).1 h
      · exact (hctl rfl).1 h
    · intro wrote goes
      have hhalt := (hctl (q := .haltReq a k) rfl).2 h
      have hres := (hctl (q := .debugResume a k) rfl).2 h
      have hstep := (hctl (q := .debugStep a k) rfl).2 h
      rw [(debugRun_cases _ _).2.2 h29 h31] at hhalt
      rw [(debugRun_cases _ _).2.1 r29 r30 r31] at hres
      rw [(debugRun_cases _ _).1 s29] at hstep
      exact ⟨hhalt, hres, hstep⟩
  · intro k n may
    have hmay : may = e.debugMayReg sel := rfl
    clear_value may
    subst hmay
    refine ⟨fun ha hu v => ?_, fun ha => ?_⟩
    · intro bad
      obtain ⟨hno, hcsr, hreg⟩ := debugRegWrite_cases v hsel (k := k) (n := n) rfl rfl
      have hv : (w32 v.toNat : Word).truncate 8 = v := by unfold w32; bv_omega
      obtain ⟨htaken, hbad⟩ := runs_wr_block (q := .debugRegAccess a (some v)) rfl ha hu debug_writable.2
      have hrun : ∀ x, e.debugRegWrite v = x → Runs (.debugRegAccess a (some v)) s (x.getD bad) := by
        intro x hx
        have hw : e.writeBlock a (e.tagOf a) pgDBG 0x604 (w32 v.toNat) = e.debugRegWrite ((w32 v.toNat : Word).truncate 8) := rfl
        rw [hv, hx] at hw
        cases x with
        | none => exact hbad hw
        | some f => exact htaken f hw
      refine ⟨fun h => hrun none (hno h), fun h h7 => hrun _ (hcsr h h7), fun h h7 => ?_⟩
      have hcase := hrun _ (hreg h h7)
      split at hcase
      · rename_i hn
        rw [if_pos hn]
        exact hcase
      · rename_i hn
        rw [if_neg hn]
        exact hcase
    · have hans : ∀ {w}, e.dbgRegRead = w → Answers (.debugRegAccess a none) s e w := by
        intro w hw
        subst hw
        exact answers_rd (d := s.dev) rfl ha (by decide) (by decide)
          (readReg_plain e a _ (by decide) (by decide) (by decide) (by decide) (by decide) (by decide) (by decide))
      obtain ⟨hno, hcsr, hreg⟩ := dbgRegRead_cases hsel (k := k) (n := n) rfl rfl
      exact ⟨fun h => hans (hno h), fun h h7 => hans (hcsr h h7), fun h h7 => hans (hreg h h7)⟩

end Sys2Proof.Machine
end

section
/-!
PROOFS about the links and the lanes behind them (R522-R524, R531).
-/

namespace Sys2Proof.Machine

/-! ### Links -/

section
variable {d : Dev} {p : Nat}

/-- The link state word of a link that has trained. -/
theorem linkWord_trained {width speed : Nat} (hw : width < 16) (hs : speed < 16) :
    fput 12 4 width + fput 8 4 speed + fput 4 4 0 + b2n true = 4096 * width + 256 * speed + 1 := by
  unfold fput b2n
  rw [Nat.mod_eq_of_lt (by omega : width < 2 ^ 4), Nat.mod_eq_of_lt (by omega : speed < 2 ^ 4), if_pos rfl]
  omega

/-- A link in L1 comes back to L0. -/
def Dev.backToL0 (d : Dev) (p pg o : Nat) : Dev := ((d.setRf pg o 4 4 0).idleLanes p false).syncLinks

/-- A link trains to a width and a speed. -/
def Dev.trains (d : Dev) (p pg o width speed : Nat) : Dev :=
  ((d.setRf pg o 0 16 (4096 * width + 256 * speed + 1)).trainLanes p width speed).syncLinks

theorem linkUp_active {width speed : Nat} (h : d.linkActive p = true) : d.linkUp p width speed = d.backToL0 p (portPage p) (portStat p) :=
  if_pos h

theorem linkUp_inactive {width speed : Nat} {good : Prop} [Decidable good] (h : ¬ d.linkActive p = true) (hw : width < 16) (hs : speed < 16)
    (hg : good ↔ (width = 1 ∨ width = 2 ∨ width = 4) ∧ width ≤ (portLanes p).length ∧ 1 ≤ speed ∧ speed ≤ 4) :
    d.linkUp p width speed = if good then d.trains p (portPage p) (portStat p) width speed else d := by
  unfold Dev.linkUp Dev.setLink Dev.trains
  rw [if_neg h, linkWord_trained hw hs]
  exact ite_iff_congr hg.symm rfl rfl

theorem linkWake_cases : d.linkWake p = if d.linkActive p = true ∧ d.pmState p ≠ 0 then d.backToL0 p (portPage p) (portStat p) else d := by
  unfold Dev.linkWake
  split
  · rename_i h
    exact linkUp_active h.1
  · rfl

theorem portStat_down (p : Fin 6) : portPage p = pgPDN + p ∧ portStat p = 0x044 := by
  unfold portPage portStat
  exact ⟨if_neg (by omega), if_neg (by omega)⟩

theorem portLanes_length (p : Fin 6) : (portLanes p).length = if p.val < 2 then 4 else 1 := by
  revert p
  decide

end

/-! ### Lanes -/

theorem laneMargin_writable (l : Fin 16) : blockWritable pgPHY (0x408 + 16 * l) = true := by
  revert l
  decide +kernel

theorem recal_writable (q : Fin 4) : blockWritable pgPHY (0x100 + 32 * q) = true := by
  revert q
  decide +kernel

section
variable {e f : Dev} {a : Nat} {v : Word}

/-- A write of LMARG: a GO whose STEPS are out of range is not taken. -/
theorem writePHY_margin (l : Fin 16) {good : Prop} (hf : f = e.plain a pgPHY (0x408 + 16 * l) v)
    (hg : good ↔ 1 ≤ fld v 20 8 ∧ fld v 20 8 ≤ (if bitAt v 30 then 40 else 32)) :
    (bitAt v 31 = true → ¬good → e.writePHY a (0x408 + 16 * l) v = none) ∧
    (bitAt v 31 = true → good → e.writePHY a (0x408 + 16 * l) v = some (f.marginStart l)) ∧
    (bitAt v 31 = false → e.writePHY a (0x408 + 16 * l) v = some f) := by
  subst hf
  have hidx : (0x408 + 16 * l.val - 0x400) / 16 = l := by omega
  have hwrite : e.writePHY a (0x408 + 16 * l) v =
      if bitAt v 31 = true then
        if fld v 20 8 = 0 ∨ marginLimit (bitAt v 30) < fld v 20 8 then none else some ((e.plain a pgPHY (0x408 + 16 * l) v).marginStart l)
      else some (e.plain a pgPHY (0x408 + 16 * l) v) := by
    unfold Dev.writePHY
    rw [hidx]
    exact (if_neg (by omega)).trans (if_pos (by omega))
  have hbad : (fld v 20 8 = 0 ∨ marginLimit (bitAt v 30) < fld v 20 8) ↔ ¬good := by
    unfold marginLimit
    rw [hg]
    omega
  rw [hwrite]
  exact ⟨fun h31 h => (if_pos h31).trans (if_pos (hbad.mpr h)), fun h31 h => (if_pos h31).trans (if_neg fun hx => hbad.mp hx h),
    fun h31 => if_neg (by rw [h31]; decide)⟩

theorem marginStart_cases {l : Nat} {takes : Prop} {g : Dev}
    (ht : takes ↔ f.links.margin.contains l = false ∧ f.laneIdle l = false ∧ f.pmState (Dev.lanePort l) = 0)
    (hg : g = { f with links := { f.links with margin := l :: f.links.margin } }) :
    (takes → f.marginStart l = g.setReg pgPHY (0x408 + 16 * l) (f.reg pgPHY (0x408 + 16 * l) &&& 0x6FF00000)) ∧
    (¬takes → f.marginStart l = f) := by
  subst hg
  have hstop : (f.links.margin.contains l = true ∨ f.laneIdle l = true ∨ f.pmState (Dev.lanePort l) ≠ 0) ↔ ¬takes := by
    rw [ht]
    cases f.links.margin.contains l <;> cases f.laneIdle l <;> simp
  exact ⟨fun h => if_neg fun hx => hstop.mp hx h, fun h => if_pos (hstop.mpr h)⟩

theorem marginDone_cases (d : Dev) {l steps errors : Nat} {g : Dev} :
    (d.links.margin.contains l = false → d.marginDone l steps errors = d) ∧
    (d.links.margin.contains l = true → g = { d with links := { d.links with margin := d.links.margin.filter (· ≠ l) } } →
      d.marginDone l steps errors = g.setReg pgPHY (0x408 + 16 * l) ((d.reg pgPHY (0x408 + 16 * l) &&& 0x6FF00000) |||
        w32 (fput 31 1 1 + fput 28 1 (if 4 ≤ errors then 1 else 0) + fput 12 8 (min steps (fld (d.reg pgPHY (0x408 + 16 * l)) 20 8)) +
          min errors 4))) := by
  refine ⟨fun h => if_neg (by rw [h]; decide), fun h hg => ?_⟩
  subst hg
  have hover : (if 4 ≤ errors then 1 else 0) = b2n (decide (4 ≤ errors)) := ite_iff_congr decide_eq_true_iff.symm rfl rfl
  rw [hover]
  exact if_pos h

theorem writePHY_recal (q : Fin 4) : e.writePHY a (0x100 + 32 * q) 1 = some (e.recal q) := by
  have hidx : (0x100 + 32 * q.val - 0x100) / 32 = q := by omega
  unfold Dev.writePHY
  rw [hidx, if_pos (by omega)]
  rfl

end

/-- Settles O52: a link's commands by its state, and those of the lanes by the conditions of their registers. -/
theorem linkCommandsComplete : Obligations.LinkCommandsComplete := by
  unfold Obligations.LinkCommandsComplete
  intro s d hd
  subst hd
  intro back
  refine ⟨fun width speed => ?_, fun p => ⟨?_, ?_, ?_, ?_, fun f hf => ?_⟩, fun p l pg o hpo => ?_, fun l o ho => ⟨fun a v e f ha hu hf => ?_, fun steps errors g => ?_⟩,
    fun a q e ha hu => ?_⟩
  · intro good train
    refine ⟨runs_of_run (f := fun d => d.upLinkUp width speed) rfl ?_, fun p => runs_of_run (f := fun d => d.downLinkUp p width speed) rfl ?_⟩
    · show (if s.dev.links.perst = true then s.dev else s.dev.linkUp 6 width speed) = _
      refine ite_iff_congr Iff.rfl rfl ?_
      by_cases hact : s.dev.linkActive 6 = true
      · exact (linkUp_active hact).trans (if_pos hact).symm
      · refine (linkUp_inactive (good := good) hact width.isLt speed.isLt ?_).trans (if_neg hact).symm
        have hlen : (portLanes 6).length = 4 := rfl
        simp only [good, hlen]
        omega
    · obtain ⟨hpage, hstat⟩ := portStat_down p
      unfold Dev.downLinkUp
      by_cases hrel : s.dev.rb (pgPDN + p) 0x040 31 = true
      · rw [if_pos hrel, if_neg (by rw [hrel]; decide)]
        by_cases hact : s.dev.linkActive p = true
        · rw [if_pos hact, linkUp_active hact, hpage, hstat]
          rfl
        · rw [if_neg hact, linkUp_inactive (good := good ∧ (width.val = 1 ∨ p.val < 2)) hact width.isLt speed.isLt ?_, hpage, hstat]
          · rfl
          · rw [portLanes_length]
            simp only [good]
            split <;> omega
      · rw [if_neg hrel, if_pos (Bool.eq_false_iff.mpr hrel)]
  · refine runs_of_run (f := fun d => d.downLinkDown p) rfl ?_
    obtain ⟨hpage, hstat⟩ := portStat_down p
    have hne : ¬ p.val = 6 := by omega
    have hword : fput 12 4 0 + fput 8 4 0 + fput 4 4 5 + b2n false = 0x50 := by decide
    unfold Dev.downLinkDown Dev.linkDrop Dev.setLink
    simp only [hpage, hstat, hword, if_neg hne]
  · exact runs_of_run (f := fun d => d.wakePin p true) rfl rfl
  · exact runs_of_run (f := fun d => d.wakePin p false) rfl rfl
  · exact runs_of_run (f := fun d => d.clkreqPin p false) rfl rfl
  · obtain ⟨hpage, hstat⟩ := portStat_down p
    refine runs_of_run (f := fun d => d.clkreqPin p true) rfl ?_
    subst hf
    refine linkWake_cases.trans ?_
    rw [hpage, hstat]
    rfl
  · have hport : portPage p = pg ∧ portStat p = o := by
      unfold portPage portStat
      by_cases h6 : p = 6
      · subst h6
        cases hpo
        exact ⟨rfl, rfl⟩
      · rw [if_neg h6] at hpo
        cases hpo
        have h6' : ¬ p.val = 6 := fun h => h6 (Fin.ext h)
        exact ⟨if_neg h6', if_neg h6'⟩
    obtain ⟨rfl, rfl⟩ := hport
    refine runs_of_run (f := fun d => d.linkL1 p l) rfl (ite_iff_congr ?_ rfl rfl)
    have hsix : p.val = 6 ↔ p = 6 := (Fin.ext_iff (b := 6)).symm
    simp [hsix, Decidable.imp_iff_not_or]
  · subst ho
    intro good takes g
    obtain ⟨hno, hgo, hplain⟩ := writePHY_margin (e := e) (a := a) (v := v) l (good := good) hf Iff.rfl
    obtain ⟨hstart, hleft⟩ := marginStart_cases (f := f) (l := l.val) (takes := takes) (g := g) Iff.rfl rfl
    obtain ⟨htaken, hbad⟩ := runs_wr_block (q := .laneMarginRun a l v) rfl ha hu (laneMargin_writable l)
    refine ⟨fun h31 h => hbad (hno h31 h), fun h31 h ht => htaken _ ((hgo h31 h).trans (congrArg some (hstart ht))), fun h => ?_⟩
    cases h31 : bitAt v 31 with
    | false => exact htaken _ (hplain h31)
    | true =>
      obtain ⟨hgood, ht⟩ := h.resolve_left (by rw [h31]; decide)
      exact htaken _ ((hgo h31 hgood).trans (congrArg some (hleft ht)))
  · subst ho
    obtain ⟨hnone, hdone⟩ := marginDone_cases s.dev (l := l.val) (steps := steps.val) (errors := errors.val) (g := g)
    exact ⟨fun h => runs_of_run (f := fun d => d.marginDone l steps errors) rfl (hnone h),
      fun h hg => runs_of_run (f := fun d => d.marginDone l steps errors) rfl (hdone h hg)⟩
  · obtain ⟨htaken, -⟩ := runs_wr_block (q := .phyRecalibrate a q) rfl ha hu (recal_writable q)
    exact htaken _ (writePHY_recal q)

end Sys2Proof.Machine
end

section
/-!
PROOFS about configuration requests, the completions that the switch passes and the errors that a port detects (R511, R517-R520, R528).
-/

namespace Sys2Proof.Machine

/-! ### Configuration requests -/

section
variable {d e : Dev} {fn : CfgFn} {n : Nat}

/-- A configuration request to a function that answers. -/
theorem cfgRequest_served (reg : Nat) (he : e = d.linkWake 6) (hn : cfgNum fn = some n) (hr : n = cfEp → e.rb pgKTL 0x044 31 = true) :
    d.cfgRequest fn reg none = e.answer .success (leBytes 4 (e.cfgWord n reg).toNat) ∧
    ∀ v be, d.cfgRequest fn reg (some (v, be)) = (e.cfgWrite n reg v be).answer .success [] := by
  subst he
  have hgo : ¬ (n = cfEp ∧ (!(d.linkWake 6).rb pgKTL 0x044 31) = true) := fun h => by rw [hr h.1] at h; exact absurd h.2 (by decide)
  refine ⟨?_, fun v be => ?_⟩ <;> unfold Dev.cfgRequest <;> rw [hn] <;> exact if_neg hgo

theorem cfgRequest_retried {reg : Nat} {wr : Option (Word × BitVec 4)} (he : e = d.linkWake 6) (hr : e.rb pgKTL 0x044 31 = false) :
    d.cfgRequest .coprocessor reg wr = e.answer .retry [] := by
  subst he
  exact if_pos ⟨rfl, by rw [hr]; rfl⟩

theorem cfgWrite_none {reg : Nat} {v : Word} {be : BitVec 4} (h : cfgRow n reg = none) : d.cfgWrite n reg v be = d := by
  unfold Dev.cfgWrite
  rw [h]

/-- A configuration write to a word: what the word takes, and the reset or the link that it can end. -/
theorem cfgWrite_some {reg : Fin 1024} {v m old w : Word} {be : BitVec 4} {r : CfgReg} {link : Prop} [Decidable link] {f : Dev}
    (hrow : cfgRow n reg = some r) (hm : m = w32 (byteMask be)) (hold : old = d.cfgHeld n reg)
    (hw : w = ((old &&& ~~~(w32 r.rw &&& m)) ||| (v &&& (w32 r.rw &&& m))) &&& ~~~(v &&& w32 r.w1c &&& m)) (hlink : link ↔ 2 ≤ n ∧ reg = 0x18)
    (hf : f = d.setCfg n reg (if n = 1 ∧ reg = 0x16 then withFld w 15 1 0 else if link then withFld w 5 1 0 else w)) :
    d.cfgWrite n reg v be = if n = 1 ∧ reg = 0x16 ∧ bitAt v 15 = true ∧ bitAt m 15 = true then f.flr
      else if (link ∧ bitAt w 4 = true ∧ bitAt old 4 = false) ∨ (2 ≤ n ∧ reg = 15 ∧ bitAt w 22 = true ∧ bitAt old 22 = false)
      then f.linkDrop (n - 2) else f := by
  have h16 : reg.val = 0x16 ↔ reg = 0x16 := (Fin.ext_iff (b := (0x16 : Fin 1024))).symm
  have h18 : reg.val = 0x18 ↔ reg = 0x18 := (Fin.ext_iff (b := (0x18 : Fin 1024))).symm
  have h15 : reg.val = 15 ↔ reg = 15 := (Fin.ext_iff (b := (15 : Fin 1024))).symm
  have hcases : d.cfgWrite n reg v be =
      if n = 1 ∧ reg.val = 0x16 then
        (if (bitAt v 15 && bitAt m 15) = true then (d.setCfg n reg (withFld w 15 1 0)).flr else d.setCfg n reg (withFld w 15 1 0))
      else if reg.val = 0x18 ∧ 2 ≤ n then
        (if bitAt w 4 = true ∧ (!bitAt old 4) = true then (d.setCfg n reg (withFld w 5 1 0)).linkDrop (n - 2) else d.setCfg n reg (withFld w 5 1 0))
      else if reg.val = 15 ∧ 2 ≤ n then
        (if bitAt w 22 = true ∧ (!bitAt old 22) = true then (d.setCfg n reg w).linkDrop (n - 2) else d.setCfg n reg w)
      else d.setCfg n reg w := by
    subst hm hold hw
    unfold Dev.cfgWrite
    rw [hrow]
    rfl
  rw [hcases, hf]
  by_cases hdev : n = 1 ∧ reg = 0x16
  · have hlow : ¬ 2 ≤ n := by omega
    have hnolink : ¬ link := fun h => hlow (hlink.mp h).1
    have hnodrop : ¬ ((link ∧ bitAt w 4 = true ∧ bitAt old 4 = false) ∨ (2 ≤ n ∧ reg = 15 ∧ bitAt w 22 = true ∧ bitAt old 22 = false)) :=
      fun h => h.elim (fun h => hnolink h.1) fun h => hlow h.1
    rw [if_pos (by rw [h16]; exact hdev), if_pos hdev, if_neg hnodrop]
    exact ite_iff_congr ((Bool.and_eq_true_iff).trans ⟨fun h => ⟨hdev.1, hdev.2, h⟩, fun h => h.2.2⟩) rfl rfl
  · have hnoflr : ¬ (n = 1 ∧ reg = 0x16 ∧ bitAt v 15 = true ∧ bitAt m 15 = true) := fun h => hdev ⟨h.1, h.2.1⟩
    rw [if_neg (by rw [h16]; exact hdev), if_neg hdev, if_neg hnoflr]
    by_cases hl : link
    · obtain ⟨h2, hreg⟩ := hlink.mp hl
      have hno15 : ¬ reg = 15 := fun h => by rw [h] at hreg; exact absurd hreg (by decide)
      rw [if_pos ⟨h18.mpr hreg, h2⟩, if_pos hl]
      simp only [hl, hno15, Bool.not_eq_true', true_and, false_and, and_false, or_false]
    · rw [if_neg (fun h => hl (hlink.mpr ⟨h.2, h18.mp h.1⟩)), if_neg hl]
      by_cases hb : reg = 15 ∧ 2 ≤ n
      · rw [if_pos (by rw [h15]; exact hb)]
        simp only [hl, hb, Bool.not_eq_true', true_and, false_and, false_or]
      · have hnob : ¬ (2 ≤ n ∧ reg = 15 ∧ bitAt w 22 = true ∧ bitAt old 22 = false) := fun h => hb ⟨h.2.1, h.1⟩
        rw [if_neg (by rw [h15]; exact hb)]
        simp only [hl, hnob, false_and, or_self, if_false]

end

/-! ### Completions that pass, and errors -/

section
variable {d : Dev} {p : Nat}

theorem peerCompletion_cases {dest : Option Nat} (n : Nat) {out : Nat} (ho : out = (dest.map fun q => if q = p ∨ d.acs p 3 = true then 6 else q).getD 6) :
    (d.linkActive p = true → d.faults.halted = false →
      d.peerCompletion p dest n = { (((d.linkWake p).linkWake out).count 2 2 tagOwn 1).count 2 3 tagOwn ((n + 31) / 32) with cpl := .forwarded, resp := [] }) ∧
    (d.linkActive p = false ∨ d.faults.halted = true → d.peerCompletion p dest n = d) := by
  subst ho
  refine ⟨fun hl hh => (if_neg (by rw [hl, hh]; decide)).trans ?_, fun h => if_pos (h.imp_left fun h => by rw [h]; rfl)⟩
  cases dest <;> rfl

variable {x : PcieError} {fn pg dom b : Nat} {u : Nat → Nat → FaultEv}

/-- What identifies a port in its errors. -/
def portIs (p fn pg dom : Nat) (u : Nat → Nat → FaultEv) : Prop :=
  fn = portFn p ∧ pg = portPage p ∧ dom = portDom p ∧ ∀ k b, u k b = { kind := k, page := pg, source := p, info := w32 (2 ^ b), unit := some dom }

theorem pcieError_correctable (hp : portIs p fn pg dom u) (hx : aerBit x = (false, b)) :
    d.pcieError p x = ((d.aerSet fn 0x44 b).aerSet fn 0x16 16).raiseFault (u 17 b) := by
  obtain ⟨rfl, rfl, rfl, hu⟩ := hp
  unfold Dev.pcieError
  simp only [hx, hu]
  rfl

/-- An error that AER does not treat as advisory. -/
theorem pcieError_uncorrectable (hp : portIs p fn pg dom u) (hx : aerBit x = (true, b))
    (ha : advisory x = false ∨ bitAt (d.cfgHeld fn 0x43) b = true) :
    d.pcieError p x = ((d.aerSet fn 0x41 b).aerSet fn 0x16 (if bitAt (d.cfgHeld fn 0x43) b then 18 else 17)).raiseFault
      (if p = 6 ∧ (x = .malformedTlp ∨ x = .receiverOverflow)
        then { kind := 30, page := pgHUB, source := 6, info := w32 (2 ^ b), unit := none } else u 18 b) := by
  obtain ⟨rfl, rfl, rfl, hu⟩ := hp
  have hloud : ¬ (advisory x = true ∧ (!bitAt (d.cfgHeld (portFn p) 0x43) b) = true) := by
    rintro ⟨h1, h2⟩
    rcases ha with h | h
    · rw [h] at h1; cases h1
    · rw [h] at h2; cases h2
  unfold Dev.pcieError
  simp only [hx, hu, hloud, Bool.not_true, Bool.false_eq_true, if_false]
  split <;> rfl

/-- One that it does. -/
theorem pcieError_advisory (hp : portIs p fn pg dom u) (hx : aerBit x = (true, b)) (ha : advisory x = true)
    (hf : bitAt (d.cfgHeld fn 0x43) b = false) {f : Dev} (hff : f = (d.aerSet fn 0x44 13).aerSet fn 0x16 16) :
    d.pcieError p x = (if bitAt (f.cfgHeld fn 0x45) 13 then f else f.aerSet fn 0x41 b).raiseFault (u 17 13) := by
  obtain ⟨rfl, rfl, rfl, hu⟩ := hp
  subst hff
  unfold Dev.pcieError
  simp only [hx, hu, ha, hf, Bool.not_true, Bool.false_eq_true, Bool.not_false, and_self, if_false, if_true]

end

end Sys2Proof.Machine
end

section
/-!
PROOFS about the host's requests through the switch: what each route of the address makes of them (R473, R518, R519).
-/

namespace Sys2Proof.Machine

section
variable {d : Dev} {a o : Nat}

/-- BAR4: the table and memory. -/
theorem hostRequest_bar4 (hr : d.busRoute a = .bar4 o) :
    (∀ n, d.hostRequest a (.read n) = d.hostRead o n) ∧ (∀ bs ep, d.hostRequest a (.write bs ep) = d.hostWrite o bs ep) := by
  refine ⟨fun n => ?_, fun bs ep => ?_⟩ <;> unfold Dev.hostRequest <;> rw [hr]

/-- BAR2: the poll page, which takes no write. -/
theorem hostRequest_bar2 (hr : d.busRoute a = .bar2 o) :
    (∀ n, d.hostRequest a (.read n) = d.bar2Read o n) ∧
    (∀ bs ep, d.hostRequest a (.write bs ep) = if d.faults.halted then d else (d.badWrite pgHIF agHost (o % 4096)).answer .success []) := by
  refine ⟨fun n => ?_, fun bs ep => ?_⟩ <;> unfold Dev.hostRequest <;> rw [hr]

/-- BAR0: a read that names no register word. -/
theorem bar0_badRead {n : Nat} (hr : d.busRoute a = .bar0 o) (h : n ≠ 4 ∨ o % 4 ≠ 0) : d.hostRequest a (.read n) =
    if d.faults.halted then d.answer .abort [] else (d.countTlp 1 (agentTag agHost) 2 0).answer .unsupported [] := by
  unfold Dev.hostRequest
  rw [hr]
  dsimp only
  by_cases hh : d.faults.halted = true
  · rw [if_pos hh]
    exact if_pos ⟨hh, h.imp_right .inl⟩
  · rw [if_neg hh]
    exact (if_neg fun hx => hh hx.1).trans (if_pos h)

/-- A read of a word beyond the pages. -/
theorem bar0_beyondRead (hr : d.busRoute a = .bar0 o) (h4 : o % 4 = 0) (ho : 0x60000 ≤ o) : d.hostRequest a (.read 4) =
    if d.faults.halted then d.answer .abort []
    else ((d.badWrite pgDEV agHost (o % 4096)).countTlp 1 (agentTag agHost) 2 4).answer .success [0, 0, 0, 0] := by
  unfold Dev.hostRequest
  rw [hr]
  dsimp only
  by_cases hh : d.faults.halted = true
  · rw [if_pos hh]
    exact if_pos ⟨hh, .inr (.inr ho)⟩
  · rw [if_neg hh]
    exact (if_neg fun hx => hh hx.1).trans ((if_neg (by omega)).trans (if_pos ho))

/-- A read of a register. -/
theorem bar0_read {x : RegAcc} (hr : d.busRoute a = .bar0 o) (h4 : o % 4 = 0) (ho : o < 0x60000) (hx : x = d.regRead agHost (o / 4096) (o % 4096)) :
    (∀ w e, x = .ok w e → d.hostRequest a (.read 4) = e.answer .success (leBytes 4 w.toNat)) ∧
    (∀ e, x = .wait e → d.hostRequest a (.read 4) = d.holds e (.bus a (.read 4))) ∧
    (∀ e, x = .abort e → d.hostRequest a (.read 4) = e.answer .abort []) ∧ (x = .none → d.hostRequest a (.read 4) = d) := by
  have hgo : ¬ (d.faults.halted = true ∧ (4 ≠ 4 ∨ o % 4 ≠ 0 ∨ 0x60000 ≤ o)) := by omega
  have hword : ¬ (4 ≠ 4 ∨ o % 4 ≠ 0) := by omega
  unfold Dev.hostRequest
  rw [hr]
  dsimp only
  rw [if_neg hgo, if_neg hword, if_neg (by omega), ← hx]
  refine ⟨?_, ?_, ?_, ?_⟩
  · rintro w e rfl; rfl
  · rintro e rfl; rfl
  · rintro e rfl; rfl
  · rintro rfl; rfl

/-- A write that names no register word, or comes in DEVICE_HALT. -/
theorem bar0_badWrite {bs : List Byte} {ep : Bool} (hr : d.busRoute a = .bar0 o) :
    (d.faults.halted = true → d.hostRequest a (.write bs ep) = d.answer .success []) ∧
    (d.faults.halted = false → bs.length ≠ 4 ∨ o % 4 ≠ 0 ∨ ep = true →
      d.hostRequest a (.write bs ep) = (d.countTlp 1 (agentTag agHost) 1 bs.length).answer .success []) := by
  unfold Dev.hostRequest
  rw [hr]
  exact ⟨fun hh => if_pos hh, fun hh h => (if_neg (by rw [hh]; decide)).trans (if_pos h)⟩

/-- A write of a register word. -/
theorem bar0_write {bs : List Byte} (hr : d.busRoute a = .bar0 o) (h4 : o % 4 = 0) (hh : d.faults.halted = false) (hl : bs.length = 4) :
    (0x60000 ≤ o → d.hostRequest a (.write bs false) = ((d.badWrite pgDEV agHost (o % 4096)).countTlp 1 (agentTag agHost) 1 4).answer .success []) ∧
    (o < 0x60000 → ∀ x : RegAcc, x = d.regWrite agHost (o / 4096) (o % 4096) (w32 (leNat bs)) →
      (∀ w e, x = .ok w e → d.hostRequest a (.write bs false) = e.answer .success []) ∧
      (∀ e, x = .wait e → d.hostRequest a (.write bs false) = d.holds e (.bus a (.write bs false))) ∧
      (∀ e, x = .abort e → d.hostRequest a (.write bs false) = e.answer .success []) ∧ (x = .none → d.hostRequest a (.write bs false) = d)) := by
  have hgo : ¬ d.faults.halted = true := by rw [hh]; decide
  have hword : ¬ (bs.length ≠ 4 ∨ o % 4 ≠ 0 ∨ false = true) := by rw [hl, h4]; decide
  unfold Dev.hostRequest
  rw [hr]
  dsimp only
  rw [if_neg hgo, if_neg hword]
  refine ⟨fun ho => if_pos ho, fun ho x hx => ?_⟩
  rw [if_neg (by omega), ← hx]
  refine ⟨?_, ?_, ?_, ?_⟩
  · rintro w e rfl; rfl
  · rintro e rfl; rfl
  · rintro e rfl; rfl
  · rintro rfl; rfl

/-- A request that is passed to a downstream port. -/
theorem toPort_cases {p tag n : Nat} {k : Bool × Dev} (hk : k = d.knockEach [3, 8 + p]) :
    (d.faults.halted = true → d.toPort p tag n = d.answer .abort []) ∧
    (d.faults.halted = false → k.1 = true → d.toPort p tag n = d.holds k.2 (.port p tag n)) ∧
    (d.faults.halted = false → k.1 = false → k.2.fencedOn [3, 8 + p] = true → d.toPort p tag n = k.2.answer .abort []) ∧
    (d.faults.halted = false → k.1 = false → k.2.fencedOn [3, 8 + p] = false →
      (d.linkActive p = false → d.toPort p tag n = k.2.answer .unsupported []) ∧
      (d.linkActive p = true → d.toPort p tag n = ((k.2.linkWake p).countTlp 2 tag 1 n).answer .forwarded [])) := by
  have hgo : d.faults.halted = false → ¬ d.faults.halted = true := fun h => by rw [h]; decide
  have hawake : k.1 = false → ¬ k.1 = true := fun h => by rw [h]; decide
  have hfree : k.2.fencedOn [3, 8 + p] = false → ¬ k.2.fencedOn [3, 8 + p] = true := fun h => by rw [h]; decide
  unfold Dev.toPort
  dsimp only
  rw [← hk]
  exact ⟨fun hh => if_pos hh, fun hh h1 => (if_neg (hgo hh)).trans (if_pos h1),
    fun hh h1 h2 => (if_neg (hgo hh)).trans ((if_neg (hawake h1)).trans (if_pos h2)),
    fun hh h1 h2 => ⟨fun hl => (if_neg (hgo hh)).trans ((if_neg (hawake h1)).trans ((if_neg (hfree h2)).trans (if_pos (by rw [hl]; rfl)))),
      fun hl => (if_neg (hgo hh)).trans ((if_neg (hawake h1)).trans ((if_neg (hfree h2)).trans (if_neg (by rw [hl]; decide))))⟩⟩

theorem hostRequest_port {p : Nat} (r : MemReq) (hr : d.busRoute a = .port p) :
    d.hostRequest a r = (d.linkWake 6).toPort p (agentTag agHost) (reqBytes r) := by
  unfold Dev.hostRequest
  rw [hr]

/-- An address that names nothing of the device's. -/
theorem hostRequest_unrouted (r : MemReq) :
    (∀ o, d.busRoute a = .aperture o → d.hostRequest a r = d.answer .unsupported []) ∧
    (d.busRoute a = .other → d.hostRequest a r = d.answer (if d.faults.halted then .abort else .unsupported) []) := by
  refine ⟨fun o hr => ?_, fun hr => ?_⟩ <;> unfold Dev.hostRequest <;> rw [hr]

end

/-! ### Completions of the host -/

section
variable {d : Dev} {r : HostReply} {i : Nat} {x : Ctx}

/-- A reply that is of the length asked for, or a failure. -/
theorem replyFits_iff (r : HostReply) (n : Nat) : replyFits r n = true ↔ r.status ≠ .ok ∨ r.data.length = n := by
  unfold replyFits
  simp

/-- The reply to a fetch. -/
theorem subReply_fetch (hf : d.fetchesHost i = true) : d.subReply i r =
    if replyFits r 32 = true ∧ d.activeSub (i / 256) = some i then (d.hostEnds i r).fetchComplete (i / 256) (some r) else d := by
  exact if_pos hf

theorem subReply_none (hf : d.fetchesHost i = false) (hx : x = d.ctx i) (hq : x.hostReq = none) : d.subReply i r = d := by
  subst hx
  unfold Dev.subReply
  dsimp only
  rw [if_neg (by rw [hf]; decide), hq]

/-- The reply to a condition word's read, or to one for data. -/
theorem subReply_some {at_ n : Nat} (hf : d.fetchesHost i = false) (hx : x = d.ctx i) (hq : x.hostReq = some (at_, n)) :
    (x.phase ≠ .flush → ¬ replyFits r n = true → d.subReply i r = d) ∧
    (x.phase ≠ .flush → replyFits r n = true → x.ccw.op = 0x09 ∨ x.ccw.op = 0x0A → d.subReply i r = (d.hostEnds i r).conditionHost i (some r)) ∧
    (x.phase = .flush ∨ (replyFits r n = true ∧ x.ccw.op ≠ 0x09 ∧ x.ccw.op ≠ 0x0A) → d.subReply i r = (d.hostEnds i r).hostReply i r) := by
  subst hx
  unfold Dev.subReply
  dsimp only
  rw [if_neg (by rw [hf]; decide), hq]
  dsimp only
  refine ⟨fun hp hfit => if_pos ?_, fun hp hfit hop => (if_neg ?_).trans (if_pos ⟨hp, hop⟩), fun h => (if_neg ?_).trans (if_neg ?_)⟩
  · simp [hp, hfit]
  · simp [hfit]
  · rcases h with h | ⟨h, -⟩
    · simp [h]
    · simp [h]
  · rcases h with h | ⟨-, h9, hA⟩
    · exact fun hx => hx.1 h
    · exact fun hx => hx.2.elim h9 hA

/-- The reply to a channel engine's read for data, or to the read that flushes its writes. -/
theorem hostReply_some {f g b : Dev} {y : Ccw} {at_ n : Nat} {res : Word} (hx : x = f.ctx i) (hq : x.hostReq = some (at_, n))
    (hg : g = f.setCtx i { x with hostReq := none }) (hb : b = g.dropBurst i) (hy : y = (b.ctx i).ccw)
    (hres : res = if x.phase = .flush then 0 else x.remaining) :
    (r.status = .ok → x.phase = .flush → f.hostReply i r = g.ccwDone i) ∧
    (r.status = .ok → x.phase ≠ .flush → f.hostReply i r = g.setCtx i { g.ctx i with hostGot := some (at_, r.data) }) ∧
    (r.status = .poisoned → f.hostReply i r = (if x.phase = .running ∧ y.op ≠ 0x40 ∧ y.op ≠ 0x43 ∧ (y.idal = false ∨ (b.ctx i).area.left ≠ 0)
      then b.inputPoisoned i else b).raiseExc i xDATA 0 res true) ∧
    (r.status ≠ .ok → r.status ≠ .poisoned → f.hostReply i r = b.raiseExc i xADDRESS 0x8009 res true) := by
  subst hx hg hb hy hres
  unfold Dev.hostReply
  dsimp only
  rw [hq]
  dsimp only
  refine ⟨fun h hp => ?_, fun h hp => ?_, fun h => ?_, fun h h' => ?_⟩
  · rw [h]
    exact if_pos hp
  · rw [h]
    exact if_neg hp
  · rw [h]
    refine congrArg (fun c => Dev.raiseExc c i xDATA 0 _ true) (ite_iff_congr ?_ rfl rfl)
    simp [and_assoc]
  · cases hs : r.status with
    | ok => exact absurd hs h
    | poisoned => exact absurd hs h'
    | refused => rfl
    | aborted => rfl
    | timeout => rfl

end

end Sys2Proof.Machine
end

section
/-!
PROOFS about the host's link as a whole: where the host's completions go (R517, R559), with the requests and errors of the files before.
-/

namespace Sys2Proof.Machine

section
variable {d : Dev} {r : HostReply} {m k : Nat}

/-! ### Movers and cores -/

theorem moverReply_idle (h : (d.mover m).cur = none) : d.moverReply m r = d := by
  unfold Dev.moverReply
  rw [h]

theorem moverReply_notAsked {x : MvDesc} (hc : (d.mover m).cur = some x) (hq : x.hostReq = none) : d.moverReply m r = d := by
  unfold Dev.moverReply
  rw [hc]
  dsimp only
  rw [hq]

/-- The reply to a mover's read, or to the read that flushes its writes. -/
theorem moverReply_asked {x y : MvDesc} {at_ n : Nat} (hc : (d.mover m).cur = some x) (hq : x.hostReq = some (at_, n))
    (hy : y = { x with hostReq := none, flushTo := none }) {put : MvDesc → Dev}
    (hp : ∀ z, put z = (d.hostEnds (4096 + m) r).setMover m { d.mover m with cur := some z }) :
    (x.flushTo = none → ¬ replyFits r n = true → d.moverReply m r = d) ∧
    (x.flushTo ≠ none ∨ replyFits r n = true →
      (r.status = .ok → ∀ j, x.flushTo = some j → d.moverReply m r = put { y with acked := j }) ∧
      (r.status = .ok → x.flushTo = none → d.moverReply m r = put { y with hostGot := some (at_, r.data) }) ∧
      (r.status = .poisoned → d.moverReply m r = put { y with err := 8 }) ∧
      (r.status ≠ .ok → r.status ≠ .poisoned → d.moverReply m r = put { y with err := 7 })) := by
  obtain ⟨e, he⟩ : ∃ e, e = d.hostEnds (4096 + m) r := ⟨_, rfl⟩
  have hmv : e.mover m = d.mover m := by
    rw [he, hostEnds_eq]
    rfl
  have hreply : d.moverReply m r = if x.flushTo.isSome = true ∨ replyFits r n = true then e.mvHost m r else d := by
    unfold Dev.moverReply
    rw [hc]
    dsimp only
    rw [hq, he]
  have hce := hc
  rw [← hmv] at hce
  refine ⟨fun hf hfit => hreply.trans (if_neg (by rw [hf]; simpa using hfit)), fun hgo => ?_⟩
  have hmade : d.moverReply m r = e.mvHost m r := hreply.trans (if_pos (hgo.imp_left Option.isSome_iff_ne_none.mpr))
  have hput : ∀ z, put z = e.setMover m { e.mover m with cur := some z } := fun z => by rw [hp, hmv, he]
  have hfail : ∀ c, e.mvFail m y c = put { y with err := c } := fun c => (hput _).symm
  rw [hmade]
  refine ⟨fun h j hj => ?_, fun h hj => ?_, fun h => ?_, fun h h' => ?_⟩ <;> unfold Dev.mvHost <;> rw [hce] <;> dsimp only <;> rw [hq] <;>
    dsimp only <;> rw [← hy]
  · rw [h, hj, hput, hy]
  · rw [h, hj, hput, hy]
  · rw [h]
    exact hfail 8
  · cases hs : r.status with
    | ok => exact absurd hs h
    | poisoned => exact absurd hs h'
    | refused => exact hfail 7
    | aborted => exact hfail 7
    | timeout => exact hfail 7

theorem loadArrives_none (h : d.gate (coreDomain k) ≠ .ok ∨ (d.core k).pend.find? (·.out) = none) : d.loadArrives k (some r) = d := by
  unfold Dev.loadArrives
  by_cases hg : d.gate (coreDomain k) ≠ .ok
  · exact if_pos hg
  · rw [if_neg hg]
    have hnone := h.resolve_left hg
    rw [hnone]
    dsimp only
    unfold Dev.loadReturn
    rw [hnone]

/-- The reply to a core's load. -/
theorem loadArrives_some {x : PendLoad} (hg : d.gate (coreDomain k) = .ok) (hx : (d.core k).pend.find? (·.out) = some x) :
    (x.host = true ∧ replyFits r x.dests.length = true →
      d.loadArrives k (some r) = ((d.hostEnds (4200 + k) r).setPend k (x.answered r)).atBoundary k) ∧
    (¬ (x.host = true ∧ replyFits r x.dests.length = true) → d.loadArrives k (some r) = d) := by
  have hcore : (d.hostEnds (4200 + k) r).core k = d.core k := by
    rw [hostEnds_eq]
    rfl
  have harrives : d.loadArrives k (some r) = if x.host = true ∧ (r.status ≠ .ok ∨ r.data.length = x.dests.length) then
      (d.hostEnds (4200 + k) r).loadReturn k (some r) else d := by
    unfold Dev.loadArrives
    rw [if_neg (not_not_intro hg), hx]
    rfl
  rw [harrives, replyFits_iff]
  refine ⟨fun h => (if_pos h).trans ?_, fun h => if_neg h⟩
  obtain ⟨hhost, hfit⟩ := h
  unfold Dev.loadReturn
  rw [hcore, hx]
  dsimp only
  rw [if_pos hhost]
  exact if_neg fun hbad => hfit.elim (fun h => h hbad.1) hbad.2

/-! ### The debug port -/

/-- The reply to the debug port's read of host memory. -/
theorem dapHost_cases {c : Dev} {asks : Prop} (hc : c = d.countAccess (agentTag agDebug) 0 false d.dap.addr 4)
    (ha : asks ↔ c.dap.status = dapBusy ∧ c.dap.op = 0 ∧ c.dbgAccess = 2 ∧ rangeOf c.dap.addr = .hostwin ∧ r.data.length = 4) :
    (asks → r.status = .ok → d.dapHost r = { c with dap := { c.dap with status := dapOk, data := w32 (leNat r.data) } }) ∧
    (asks → r.status ≠ .ok → d.dapHost r = { c with dap := { c.dap with status := dapError } }) ∧
    (¬asks → d.dapHost r = d) := by
  unfold Dev.dapHost
  dsimp only
  rw [← hc]
  refine ⟨fun h hs => (if_pos (ha.mp h)).trans ?_, fun h hs => (if_pos (ha.mp h)).trans ?_, fun h => if_neg fun hx => h (ha.mpr hx)⟩
  · rw [if_pos hs, if_pos hs]
    rfl
  · rw [if_neg hs, if_neg hs]
    rfl

/-- Which agent's work a completion reaches. -/
theorem hostCompletion_routes (a sub : Nat) :
    (0x50 ≤ a → a < 0x60 → d.hostCompletion a sub r =
      if d.gate (ceDom (a - 0x50)) = .ok then d.subReply ((a - 0x50) * 256 + sub) r else d) ∧
    (0x60 ≤ a → a < 0x70 → d.hostCompletion a sub r = if d.gate (moverDom ((a - 0x60) / 2)) = .ok then d.moverReply (a - 0x60) r else d) ∧
    (1 ≤ a → a ≤ 0x41 → d.hostCompletion a sub r = d.loadArrives (a - 1) (some r)) ∧
    (a = agDebug → d.hostCompletion a sub r = d.dapHost r) ∧
    (a = 0 ∨ (0x41 < a ∧ a < 0x50) ∨ (0x70 ≤ a ∧ a ≠ agDebug) → d.hostCompletion a sub r = d) := by
  unfold Dev.hostCompletion
  refine ⟨fun h1 h2 => if_pos ⟨h1, h2⟩, fun h1 h2 => (if_neg (by omega)).trans (if_pos ⟨h1, h2⟩),
    fun h1 h2 => (if_neg (by omega)).trans ((if_neg (by omega)).trans (if_pos ⟨h1, h2⟩)), fun h => ?_, fun h => ?_⟩
  · subst h
    rfl
  · have hnd : a ≠ agDebug := by
      rintro rfl
      rcases h with h | h | h
      · exact absurd h (by decide)
      · exact absurd h (by decide)
      · exact h.2 rfl
    refine (if_neg (by omega)).trans ((if_neg ?_).trans ((if_neg (by omega)).trans (if_neg hnd)))
    rintro ⟨h1, h2⟩
    omega

end

end Sys2Proof.Machine
end

section
/-!
PROOFS: the host's link, settled from the files before (R511, R516-R519, R528, R529, R559).
-/

namespace Sys2Proof.Machine

section
variable {s : State}

/-- CONFIG_REQUEST runs as the configuration request. -/
theorem runs_configRequest {fn : CfgFn} {reg : Fin 1024} {wr : Option (Word × BitVec 4)} {f : Dev} (h : s.dev.cfgRequest fn reg wr = f) :
    Runs (.configRequest fn reg wr) s f := runs_of_run (f := fun d => d.cfgRequest fn reg wr) rfl h

theorem runs_hostRequest {addr : BitVec 64} {r : MemReq} {f : Dev} (h : s.dev.hostRequest addr.toNat r = f) :
    Runs (.hostRequestThroughSwitch addr r) s f := runs_of_run (f := fun d => d.hostRequest addr.toNat r) rfl h

/-- The function of a number, and whether it is the coprocessor's. -/
theorem cfgNum_served {fn : CfgFn} {n : Nat} {e : Dev}
    (h : (fn = .upstream ∧ n = 0) ∨ (fn = .coprocessor ∧ n = 1 ∧ e.rb pgKTL 0x044 31 = true) ∨ (∃ p, fn = .downstream p ∧ n = 2 + p.val)) :
    cfgNum fn = some n ∧ (n = cfEp → e.rb pgKTL 0x044 31 = true) := by
  rcases h with ⟨rfl, rfl⟩ | ⟨rfl, rfl, hready⟩ | ⟨p, rfl, rfl⟩
  · exact ⟨rfl, fun h => absurd h (by decide)⟩
  · exact ⟨rfl, fun _ => hready⟩
  · refine ⟨rfl, fun h => ?_⟩
    have hne : 2 + p.val ≠ 1 := by omega
    exact absurd h hne

/-- A port of the switch, as its errors name it. -/
theorem portIs_of {p : Fin 7} {fn pg dom : Nat} {u : Nat → Nat → FaultEv}
    (h : (fn, pg, dom) = (if p = 6 then (0, pgPUP, 3) else (2 + p.val, pgPDN + p.val, 8 + p.val)))
    (hu : ∀ k b, u k b = { kind := k, page := pg, source := p, info := w32 (2 ^ b), unit := some dom }) : portIs p fn pg dom u := by
  have hport : fn = portFn p ∧ pg = portPage p ∧ dom = portDom p := by
    by_cases h6 : p = 6
    · subst h6
      cases h
      exact ⟨rfl, rfl, rfl⟩
    · have h6' : ¬ p.val = 6 := fun hx => h6 (Fin.ext hx)
      rw [if_neg h6] at h
      cases h
      exact ⟨(if_neg h6').symm, (if_neg h6').symm, (if_neg h6').symm⟩
  exact ⟨hport.1, hport.2.1, hport.2.2, hu⟩

end

/-- Settles O53: a configuration request by its word, a completion by the agent that asked, a request by its route, and an error by its AER
bit. -/
theorem hostLinkCommandsComplete : Obligations.HostLinkCommandsComplete := by
  unfold Obligations.HostLinkCommandsComplete
  intro s d hd
  subst hd
  refine ⟨fun fn reg n e wr he => ⟨?_, fun hr => ?_, fun hfn => ?_⟩, fun a sub r q hq => ?_, fun addr q hq => ?_, fun p dest n out ho => ?_,
    fun p x fn pg dom u hport hu => ?_⟩
  · exact runs_configRequest rfl
  · exact runs_configRequest (cfgRequest_retried he hr)
  · obtain ⟨hn, hready⟩ := cfgNum_served hfn
    obtain ⟨hread, hwrite⟩ := cfgRequest_served reg he hn hready
    refine ⟨runs_configRequest hread, fun v be hrow => runs_configRequest ((hwrite v be).trans ?_), fun v m old w be r hrow hm hold hw => ?_⟩
    · rw [cfgWrite_none hrow]
      rfl
    · intro link f g
      refine runs_configRequest ((hwrite v be).trans ?_)
      rw [cfgWrite_some (link := link) (f := f) hrow hm hold hw Iff.rfl rfl]
      rfl
  · have hrun : ∀ {f}, s.dev.hostCompletion a sub r = f → Runs q s f := by
      intro f hf
      rcases hq with rfl | ⟨rfl, rfl⟩
      · exact runs_of_run (f := fun d => d.hostCompletion a sub r) rfl hf
      · exact runs_of_run (f := fun d => d.hostCompletion a sub timedOut) rfl hf
    intro err ends fits
    have hends : ∀ j, ends j = s.dev.hostEnds j r := by
      intro j
      simp only [ends, err]
      unfold Dev.hostEnds Dev.replyError
      cases r.status <;> rfl
    have hfits : ∀ n, fits n ↔ replyFits r n = true := fun n => (replyFits_iff r n).symm
    clear_value ends fits
    clear err
    obtain ⟨hengine, hmover, hcore, hdebug, hother⟩ := hostCompletion_routes (d := s.dev) (r := r) a.val sub.val
    refine ⟨fun i x h1 h2 hi hx => ?_, fun m h1 h2 hm => ?_, fun k h1 h2 hk => ?_, fun h => ?_, fun h => hrun (hother h)⟩
    · have hreply := hengine h1 h2
      rw [← hi] at hreply
      refine ⟨fun hg => hrun (hreply.trans (if_neg hg)), fun hg hf => ?_, fun hg hf hr => hrun (hreply.trans ((if_pos hg).trans (subReply_none hf hx hr))),
        fun at_ n hg hf hr => ?_⟩
      · have hfetch := hreply.trans ((if_pos hg).trans (subReply_fetch hf))
        rw [hfits, hends]
        exact ⟨fun h => hrun (hfetch.trans (if_pos h)), fun h => hrun (hfetch.trans (if_neg h))⟩
      · obtain ⟨hbad, hcond, hdata⟩ := subReply_some (r := r) hf hx hr
        have hgo := hreply.trans (if_pos hg)
        rw [hfits, hends]
        refine ⟨fun hp hfit => hrun (hgo.trans (hbad hp hfit)), fun hp hfit hop => hrun (hgo.trans (hcond hp hfit hop)), fun h => ?_⟩
        have hmade := hgo.trans (hdata h)
        intro g b y res
        have hctx : x = (s.dev.hostEnds i r).ctx i := by rw [hx, (hostEnds_frame s.dev i r).2.1]
        obtain ⟨hflush, hgot, hpoison, hfail⟩ := hostReply_some (f := s.dev.hostEnds i r) (r := r) (g := g) (b := b) (y := y) (res := res) hctx hr rfl rfl rfl rfl
        exact ⟨fun h hp => hrun (hmade.trans (hflush h hp)), fun h hp => hrun (hmade.trans (hgot h hp)), fun h => hrun (hmade.trans (hpoison h)),
          fun h h' => hrun (hmade.trans (hfail h h'))⟩
    · have hreply := hmover h1 h2
      rw [← hm] at hreply
      refine ⟨fun h => hrun (hreply.trans ?_), fun x hg hc => ?_⟩
      · by_cases hg : s.dev.gate (moverDom (m / 2)) = .ok
        · exact (if_pos hg).trans (moverReply_idle (h.resolve_left (not_not_intro hg)))
        · exact if_neg hg
      · have hgo := hreply.trans (if_pos hg)
        refine ⟨fun hr => hrun (hgo.trans (moverReply_notAsked hc hr)), fun at_ n hr => ?_⟩
        intro y put
        obtain ⟨hbad, hmade⟩ := moverReply_asked (r := r) (y := y) (put := put) hc hr rfl (fun z => congrArg (fun e => Dev.setMover e m _) (hends _))
        rw [hfits]
        refine ⟨fun hf hfit => hrun (hgo.trans (hbad hf hfit)), fun h => ?_⟩
        obtain ⟨hack, hgot, hpoison, hfail⟩ := hmade h
        exact ⟨fun h j hj => hrun (hgo.trans (hack h j hj)), fun h hj => hrun (hgo.trans (hgot h hj)), fun h => hrun (hgo.trans (hpoison h)),
          fun h h' => hrun (hgo.trans (hfail h h'))⟩
    · have hreply := hcore h1 h2
      rw [← hk] at hreply
      refine ⟨fun h => hrun (hreply.trans (loadArrives_none h)), fun x hg hx => ?_⟩
      obtain ⟨hgot, hstays⟩ := loadArrives_some (r := r) hg hx
      rw [hfits, hends]
      exact ⟨fun h => hrun (hreply.trans (hgot h)), fun h => hrun (hreply.trans (hstays h))⟩
    · intro c asks
      obtain ⟨hok, hfail, hnone⟩ := dapHost_cases (d := s.dev) (r := r) (c := c) (asks := asks) rfl Iff.rfl
      exact ⟨fun ha hs => hrun ((hdebug h).trans (hok ha hs)), fun ha hs => hrun ((hdebug h).trans (hfail ha hs)),
        fun ha => hrun ((hdebug h).trans (hnone ha))⟩
  · subst hq
    intro h tells tlp
    refine ⟨fun o hr => ?_, fun o hr => ?_, fun o hr => ⟨fun n hn => ?_, fun bs ep hh => ?_, fun bs ep hh hbad => ?_, fun h4 ho => ⟨?_, fun bs hh hl => ?_⟩,
      fun h4 ho p w hp hw => ⟨?_, fun bs hh hl => ?_⟩⟩, fun p n r e hr he hn => ?_, fun r o hr => ?_, fun r hr => ?_⟩
    · exact ⟨fun n => runs_hostRequest ((hostRequest_bar4 hr).1 n), fun bs ep => runs_hostRequest ((hostRequest_bar4 hr).2 bs ep)⟩
    · exact ⟨fun n => runs_hostRequest ((hostRequest_bar2 hr).1 n), fun bs ep => runs_hostRequest ((hostRequest_bar2 hr).2 bs ep)⟩
    · exact runs_hostRequest (bar0_badRead hr hn)
    · exact runs_hostRequest ((bar0_badWrite hr).1 hh)
    · exact runs_hostRequest ((bar0_badWrite hr).2 hh hbad)
    · exact runs_hostRequest (bar0_beyondRead hr h4 ho)
    · exact runs_hostRequest ((bar0_write hr h4 hh hl).1 ho)
    · subst hp hw
      obtain ⟨hok, hwait, habort, hnone⟩ := bar0_read hr h4 ho rfl
      refine runs_hostRequest ?_
      cases hx : s.dev.regRead agHost (o / 4096) (o % 4096) with
      | ok v e => exact hok v e hx
      | wait e => exact hwait e hx
      | abort e => exact habort e hx
      | none => exact hnone hx
    · subst hp hw
      obtain ⟨hok, hwait, habort, hnone⟩ := (bar0_write hr h4 hh hl).2 ho _ rfl
      refine runs_hostRequest ?_
      cases hx : s.dev.regWrite agHost (o / 4096) (o % 4096) (w32 (leNat bs)) with
      | ok v e => exact hok v e hx
      | wait e => exact hwait e hx
      | abort e => exact habort e hx
      | none => exact hnone hx
    · have hbytes : n = reqBytes r := by
        cases r
        · exact hn
        · exact hn
      subst he hbytes
      intro k c
      have hroute := hostRequest_port r hr
      obtain ⟨hhalt, hheld, hfenced, hopen⟩ := toPort_cases (d := s.dev.linkWake 6) (p := p) (tag := agentTag agHost) (n := reqBytes r) (k := k) rfl
      refine ⟨fun hh => runs_hostRequest (hroute.trans (hhalt hh)), fun hh h1 => runs_hostRequest (hroute.trans (hheld hh h1)),
        fun hh h1 h2 => runs_hostRequest (hroute.trans (hfenced hh h1 h2)), fun hh h1 h2 => ?_⟩
      exact ⟨fun hl => runs_hostRequest (hroute.trans ((hopen hh h1 h2).1 hl)), fun hl => runs_hostRequest (hroute.trans ((hopen hh h1 h2).2 hl))⟩
    · exact runs_hostRequest ((hostRequest_unrouted r).1 o hr)
    · exact runs_hostRequest ((hostRequest_unrouted r).2 hr)
  · have hout : out = ((dest.map (·.val)).map fun q => if q = p.val ∨ s.dev.acs p 3 = true then 6 else q).getD 6 := by
      rw [ho]
      cases dest with
      | none => rfl
      | some q => exact ite_iff_congr (or_congr_left Fin.ext_iff) rfl rfl
    obtain ⟨hpass, hstays⟩ := peerCompletion_cases (d := s.dev) n hout
    have hexec : exec (.downstreamCompletion p dest n) s = s.run fun d => d.peerCompletion p (dest.map (·.val)) n := rfl
    exact ⟨fun hl hh => runs_of_run hexec (hpass hl hh), fun h => runs_of_run hexec (hstays h)⟩
  · have hp := portIs_of hport hu
    have hrun : ∀ {f}, s.dev.pcieError p x = f → Runs (.pcieErrorDetected p x) s f := fun hf =>
      runs_of_run (f := fun d => d.pcieError p x) rfl hf
    intro sets fatal loud
    refine ⟨fun b hx => hrun (pcieError_correctable hp ?_), fun b hx => hrun ?_, fun b hx => ?_⟩
    · rcases hx with hx | hx | hx | hx | hx <;> cases hx <;> rfl
    · have hbit : aerBit x = (true, b) ∧ advisory x = false := by
        rcases hx with hx | hx | hx <;> cases hx <;> exact ⟨rfl, rfl⟩
      refine (pcieError_uncorrectable hp hbit.1 (.inl hbit.2)).trans (congrArg (Dev.raiseFault (loud b)) (ite_iff_congr ?_ rfl rfl))
      refine and_congr (Fin.ext_iff (b := 6)).symm ?_
      rcases hx with hx | hx | hx <;> cases hx <;> decide
    · have hbit : aerBit x = (true, b) ∧ advisory x = true ∧ ¬ (x = .malformedTlp ∨ x = .receiverOverflow) := by
        rcases hx with hx | hx | hx | hx | hx <;> cases hx <;> exact ⟨rfl, rfl, by decide⟩
      obtain ⟨hb, hadv, hnot⟩ := hbit
      refine ⟨fun hf => hrun ((pcieError_uncorrectable hp hb (.inr hf)).trans (congrArg (Dev.raiseFault (loud b)) (if_neg fun h => hnot h.2))),
        fun hf => hrun (pcieError_advisory hp hb hadv hf rfl)⟩

end Sys2Proof.Machine
end
